-- ==== Sys2Proof/Word.lean ====
section
/-! DEFINITION. The word types of the LM720 and nothing else: a byte, a 32-bit word, a 64-bit register or operand, a byte string. -/

namespace Sys2Proof

/-- Eight bits: the smallest unit a fabric address names (R9). -/
abbrev Byte := BitVec 8

/-- A region key, an aperture key (R22, R213). -/
abbrev Word32 := BitVec 32

/-- A CSR, an atomic operand, a guard word, a version word (R42, R62). -/
abbrev Word64 := BitVec 64

/-- A byte string, lowest address first (multi-byte fields are little-endian, R6). -/
abbrev Bytes := List Byte

end Sys2Proof
end

