-- ==== Sys2Proof/Syntax.lean ====
section
/-! DEFINITION. The commands the block takes: one constructor per row of spec/opcode_table.json, with the operands that the row's
rule gives the step. A unit that arrives carries its header fields as the spec lays them out; an event names the object it happens to. -/

namespace Sys2Proof

/-- The fields of a Bamom request header (Table 12.4) with the port the request arrives on (R359). -/
structure ReqHdr where
  /-- ingress port, 0-255 -/
  port : Nat
  /-- requester_id, 12 bits -/
  rid : Nat
  /-- partition, 7 bits -/
  part : Nat
  /-- class, 3 bits; 7 is refused at step 3 -/
  cls : Nat
  /-- congestion mark (R143) -/
  cmark : Bool
  /-- payload is poisoned (R48) -/
  poison : Bool
  /-- tag, 16 bits (R54) -/
  tag : Nat
  /-- resent after a timeout; counted only -/
  reissue : Bool
  /-- fabric address, 52 bits -/
  addr : Nat
  /-- region key presented -/
  key : Word32
  deriving DecidableEq, Repr

/-- The nine read-modify-write operations of Table 2.2. -/
inductive AtOp where
  | add | and | or | xor | swap | min | max | umin | umax
  deriving DecidableEq, Repr

/-- What a memory request asks for, with its payload (Table 2.2). -/
inductive ReqKind where
  | loadLine
  | loadStream (len : Nat)
  | storeLine (data : Bytes)
  | storeMasked (data : Bytes) (mask : Word64)
  | storeGuarded (data : Bytes)
  | atomic (op : AtOp) (opa : Word64)
  | cas64 (cmp swp : Word64)
  | cas128 (cmp swp : BitVec 128)
  | flushRange (len : Nat)
  | fence
  | publish (rbase rlen : Nat) (expd new : Word64)
  | opFlit (flit : BitVec 512)
  /-- an opcode that Table 2.2 does not have (R27, R42); no command names it, a flit may carry it -/
  | unknown (opcode : Nat)
  deriving DecidableEq, Repr

/-- Completion statuses (Table 2.7). -/
inductive Status where
  | ok | poison | noAccess | badKey | staleTag | fenceIncomplete | versionConflict | partitionDown
  | engineBusy | unsupported | targetLost | retryLater
  deriving DecidableEq, Repr

/-- A response as it travels (Table 2.3 and the data after it). -/
structure Rsp where
  opcode : Nat
  status : Status
  load : Nat
  tag : Nat
  rid : Nat
  part : Nat
  result : Word64
  data : Bytes
  /-- the data leaves as a RESP unit on the stream channel (R362) -/
  streamed : Bool
  deriving DecidableEq, Repr

/-- The fields of a stream unit (Table 12.5) with its ingress port. -/
structure StreamHdr where
  port : Nat
  rid : Nat
  part : Nat
  cls : Nat
  cmark : Bool
  poison : Bool
  schedId : Nat
  /-- a port, a multicast group or a reduction group -/
  dest : Nat
  /-- 0 port, 1 multicast group, 2 reduction group -/
  dkind : Nat
  /-- chunk sequence number of a REDUCE unit, 24 bits -/
  seq : Nat
  payload : Bytes
  deriving DecidableEq, Repr

/-- An ownership claim to one stripe of the pair (R430, R431): the stripe by the parity of its plane, the epoch, and the FT at which
the claimant first served the stripe under it. -/
structure Claim where
  oddStripe : Bool
  epoch : Nat
  ftFirst : Nat
  deriving DecidableEq, Repr

/-- What the twin shows of itself at twin-link training (R454): its alias chain and the owner keys it runs under, by key_id. -/
structure TwinId where
  chain : Bytes := []
  owners : List (Nat × Bytes) := []
  deriving DecidableEq, Repr

/-- A mirrored idempotency entry (R59): what the serving plane sends its twin at step 4 of Table 2.4. -/
structure MirrorEnt where
  rid : Nat
  tag : Nat
  part : Nat
  opcode : Nat
  addr : Nat
  status : Status
  result : BitVec 128
  /-- 64-byte aligned fabric address of the line -/
  line : Nat
  image : Bytes
  done : Bool
  /-- it stores data that came marked as poisoned (R48) -/
  poison : Bool := false
  /-- its request was running when it was sent at S3: nothing of it has been applied yet (R433) -/
  running : Bool := false
  deriving DecidableEq, Repr

/-- An owner signature over a Rind command (R449): the key_id and the signature bytes. -/
structure OwnerSig where
  keyId : Nat
  sig : Bytes
  deriving DecidableEq, Repr

/-- The gateway header fields of a frame (R385): operation 0 pull, 1 push, 2 pull data, 3 acknowledgement. The address and key of the remote
block travel with a pull or a push (assumption 13). -/
structure GwHdr where
  op : Nat
  peerMac : Nat
  peerDomain : Nat
  window : Nat
  block : Nat
  piece : Nat
  seq : Nat
  ok : Bool
  addr : Nat
  key : Word32
  data : Bytes
  /-- VID of the frame; R382 -/
  vid : Nat := 0
  deriving DecidableEq, Repr

/-- What the survivor sends at step S2 (Table 14.7). -/
structure ResyncPack where
  baseSerial : Nat
  segSerials : List Nat
  rangeDigest : Bytes
  /-- partition, state (0 ABSENT, 1 ACTIVE, 2 DOWN), aperture key -/
  parts : List (Nat × Nat × Word32)
  /-- range index and region key -/
  keys : List (Nat × Word32)
  /-- partition and seal nonce -/
  nonces : List (Nat × BitVec 128)
  deriving DecidableEq, Repr

/-- What the survivor sends at steps S3 and S4 (Table 14.7). -/
structure ResyncXfer where
  entries : List MirrorEnt
  /-- port, role (true odd), logical block, map entry (Table 3.4) -/
  maps : List (Nat × Bool × Nat × Word64)
  /-- port, physical block number, read count, erase count -/
  counts : List (Nat × Nat × Nat × Nat)
  highestEpoch : Nat
  deriving DecidableEq, Repr

/-- The structures of Table 14.2 an uncorrectable SRAM error can strike, with what the error names. -/
inductive SramSite where
  | staging (port unit : Nat)
  | descriptor (port unit : Nat)
  | transientScratch (part slot : Nat)
  | residentScratch (part handle : Nat)
  | tablePart (part : Nat)
  | tableDevice
  | lockEntry (part : Option Nat)
  deriving DecidableEq, Repr

/-- An engine unit or an atomic-unit lane, by kind (0 RDU, 1 GTU, 2 FLU, 3 CTU, 4 atomic-unit lane; Table 14.3) and number. -/
structure UnitId where
  kind : Nat
  num : Nat
  deriving DecidableEq, Repr

/-- Rights of a partition on a range: R, W, A, E (R22, Table 1.3). -/
structure Rights where
  r : Bool := false
  w : Bool := false
  a : Bool := false
  e : Bool := false
  deriving DecidableEq, Repr

/-- A range entry (Table 1.3); base and size in 2 MiB units. -/
structure RangeEntry where
  valid : Bool := false
  base : Nat := 0
  size : Nat := 0
  key : Word32 := 0
  owner : Nat := 0
  shared : Bool := false
  ownerRights : Rights := {}
  otherRights : Rights := {}
  sealed : Bool := false
  firn : Bool := false
  /-- 0 DRAM tray (tier 2), 1 flash tray (tier 3) -/
  tier : Nat := 0
  pinned : Bool := false
  pinnedPlane : Nat := 0
  granule : Nat := 0
  iset : Nat := 0
  offEven : Nat := 0
  offOdd : Nat := 0
  deriving DecidableEq, Repr

/-- What a forwarded request carries of the plane that checked it (R13): when it was accepted, the range and the region it passed with. -/
structure FwdView where
  acceptedAt : Nat := 0
  range : Nat := 0
  e : RangeEntry := {}
  region : Option (Nat × RangeEntry) := none
  deriving DecidableEq, Repr

/-- A MIRROR_ENTRY unit (R59, R430): the entry, and the ownership claims of the plane that sends it. -/
structure MirrorMsg where
  ent : MirrorEnt
  claims : List Claim := []
  deriving DecidableEq, Repr

/-- A Sync and, where one was made, its delay exchange (R183): t1 sent by the master, t2 received here, then (t3, t4) the other way. -/
structure PtpExchange where
  twoStep : Bool := false
  ipv4 : Bool := false
  t1 : Nat := 0
  t2 : Nat := 0
  delay : Option (Nat × Nat) := none
  deriving DecidableEq, Repr

/-- What a training step found beside the lanes that passed (R370, R454): the generation agreed on, and what the twin shows of itself. -/
structure StepResult where
  gen : Nat := 0
  twin : TwinId := {}
  deriving DecidableEq, Repr

/-- Who rotates a key (R35): a Rind session here, or the twin, which names the key it has written. -/
inductive RotateBy where
  | session (sess : Nat)
  | twin (key : Word32)
  deriving DecidableEq, Repr

/-- The commands of the block: the rows of spec/opcode_table.json, in its order. -/
inductive Instr where
  -- memory requests (Table 2.2)
  | loadLine (h : ReqHdr)
  | loadStream (h : ReqHdr) (len : Nat)
  | storeLine (h : ReqHdr) (data : Bytes)
  | storeMasked (h : ReqHdr) (data : Bytes) (mask : Word64)
  | storeGuarded (h : ReqHdr) (data : Bytes)
  | atAdd (h : ReqHdr) (opa : Word64)
  | atAnd (h : ReqHdr) (opa : Word64)
  | atOr (h : ReqHdr) (opa : Word64)
  | atXor (h : ReqHdr) (opa : Word64)
  | atSwap (h : ReqHdr) (opa : Word64)
  | atMin (h : ReqHdr) (opa : Word64)
  | atMax (h : ReqHdr) (opa : Word64)
  | atUmin (h : ReqHdr) (opa : Word64)
  | atUmax (h : ReqHdr) (opa : Word64)
  | cas64 (h : ReqHdr) (cmp swp : Word64)
  | cas128 (h : ReqHdr) (cmp swp : BitVec 128)
  | flushRange (h : ReqHdr) (len : Nat)
  | fence (h : ReqHdr)
  | publish (h : ReqHdr) (rbase rlen : Nat) (expd new : Word64)
  | opFlit (h : ReqHdr) (flit : BitVec 512)
  -- the request path
  | twinForwardedRequest (ref : Nat) (h : ReqHdr) (k : ReqKind) (view : FwdView)
  | forwardedResponse (ref : Nat) (r : Rsp)
  | trayResponse (aid : Nat) (st : Status) (data : Bytes)
  | dispatchDeadline (req : Nat)
  | executionDeadline (req : Nat)
  | trayAnswerTimeout (aid : Nat)
  | lineLockAcquired (req : Nat)
  | mirrorEntry (m : MirrorMsg)
  | mirrorAck (req : Nat)
  | mirrorDone (rid tag : Nat)
  | mirrorDoneAck (req : Nat)
  | idemEntryExpire (rid tag : Nat)
  | shadowEntryFree (rid tag : Nat)
  | mirrorCatchupDone
  | fenceComplete (req : Nat)
  | fenceTimeout (req : Nat)
  | drainMarkerReturn (mid : Nat)
  | loadWindowEnd
  -- CXL.mem
  | cxlMemrd (port dpa : Nat)
  | cxlMemwr (port dpa : Nat) (data : Bytes)
  | cxlMemwrptl (port dpa : Nat) (data : Bytes) (mask : Word64)
  | cxlMemwrPoison (port dpa : Nat) (data : Bytes)
  | cxlWerrCompletion (req : Nat)
  | auCtlWrite (v : Word64)
  | accessDrainDone
  -- Firn, stacks and flash
  | firnFillComplete (fid : Nat)
  | stackChannelOut (chan : Nat)
  | firnSweepDone (range : Nat)
  | flashRebuild (reb : Nat)
  | relocationRequest (port pblock : Nat)
  | relocationStart (port pblock : Nat)
  | relocationFlip (port pblock : Nat)
  | relocationErase (port pblock : Nat)
  | relocationProgFail (port pblock : Nat)
  | disturbLimit (port pblock : Nat)
  | ftlTwinSync
  | datasetFlip (range : Nat)
  | datasetOldErase (range : Nat)
  | ftlEventRead
  -- frames and stream units
  | ethFrame (port : Nat) (fcsOk : Bool) (frame : Bytes)
  | msg (port rid part : Nat) (cmark : Bool) (frame : Bytes)
  | data (h : StreamHdr)
  | reduce (h : StreamHdr)
  | msgAgeDiscard (port unit : Nat)
  | bankFail (bank : Nat)
  | stagingAdmit (port unit : Nat)
  | rspReservation (req : Nat)
  | egressSelect (port : Nat) (unc : Bool)
  | portDown (port cause : Nat)
  -- traffic control
  | limitHoldRelease (req : Nat)
  | tmcIndRead
  | tmcIndWrite
  -- fabric time and schedules
  | ppsEdge
  | ptpSync (mgmtPort domain : Nat) (sync : PtpExchange)
  | tosServoUpdate
  | sourceQualify
  | sourceDisqualify
  | holdoverExpire
  | schedActivate
  | ppsOutRise
  | ppsOutFall
  | tosSend (port : Nat)
  | ftmCtlWrite (v : Word64)
  | schedArm (actFrame : Nat)
  | schedBankSwap
  | schedWindowOpen (win : Nat)
  | streamUnitRead (schedId : Nat)
  | grantIssue (port allowance perSlot : Nat)
  | grantLapse (gid : Nat)
  -- engine ops
  | scrAlloc (part slot : Nat)
  | scrFree (part slot : Nat)
  | scrFill (part slot : Nat)
  | proxyAtAdd (part slot : Nat)
  | proxyAtAnd (part slot : Nat)
  | proxyAtOr (part slot : Nat)
  | proxyAtXor (part slot : Nat)
  | proxyAtSwap (part slot : Nat)
  | proxyAtMin (part slot : Nat)
  | proxyAtMax (part slot : Nat)
  | proxyAtUmin (part slot : Nat)
  | proxyAtUmax (part slot : Nat)
  | proxyCas64 (part slot : Nat)
  | proxyCas128 (part slot : Nat)
  | proxyStoreGuarded (part slot : Nat)
  | proxyFlushRange (part slot : Nat)
  | proxyFence (part slot : Nat)
  | proxyPublish (part slot : Nat)
  | flitStart (part slot : Nat)
  | flitTimeLimit (part slot : Nat)
  | engineAccessReturn (aid : Nat) (st : Status) (data : Bytes)
  | engCellReserve (part slot : Nat)
  | engineCompletion (part slot : Nat)
  | scratchZeroed
  | groupArm (part slot : Nat)
  | groupDisarm (part slot : Nat)
  | groupRelease (group : Nat)
  | reduceMem (part slot : Nat)
  | chunkTimeout (group seq : Nat)
  | gather (part slot : Nat)
  | scatter (part slot : Nat)
  | scatterAdd (part slot : Nat)
  | scatterAddPiece (part slot : Nat)
  | collDefine (part slot : Nat)
  | collDrop (part slot : Nat)
  | collDropDone (coll : Nat)
  | append (part slot : Nat)
  | scan (part slot : Nat)
  | compact (part slot : Nat)
  | compactFlip (coll : Nat)
  | compactRecord (coll : Nat)
  | collRebase (part slot : Nat)
  | collAck (part slot : Nat)
  | seqOpen (part slot : Nat)
  | seqClose (part slot : Nat)
  | seqCloseComplete (part slot : Nat)
  | pageMap (part slot : Nat)
  | kvAppend (part slot : Nat)
  | attend (part slot : Nat)
  -- links and ports
  | flitReceive (port : Nat) (fecOk : Bool) (flit : Bytes)
  | ack (port fseq : Nat)
  | nak (port fseq : Nat)
  | ackTimer (port : Nat)
  | resendTimeout (port : Nat)
  | credit (port req msgs : Nat)
  | tos (port : Nat) (echoValid : Bool) (txPs tTx e1Ps e1 e2Ps e2 arrivalPs arrival : Nat)
  | grant (port allowance perSlot expiry : Nat)
  | cap (port role gen width reqCr msgCr grantKib devId : Nat) (claims : List Claim)
  | down (port cause : Nat)
  | narrow (port mask fseq : Nat)
  | linkSilence (port : Nat)
  | laneDegrade (port lane : Nat)
  | cxlLinkDown (port : Nat)
  | ethLinkLoss (port : Nat)
  | ucieModuleFail (module : Nat)
  | trainingStepComplete (port : Nat) (passLanes : Nat) (result : StepResult)
  | trainingStepTimeout (port : Nat)
  | portRetrain (port : Nat)
  | portDisable (port : Nat) (on : Bool)
  | flashResponse (aid : Nat) (ok : Bool) (data : Bytes)
  | flashCmdTimeout (aid : Nat)
  | l2Age (vid mac : Nat)
  | gatewayFrame (port : Nat) (h : GwHdr)
  | gwPieceResend (window block piece : Nat)
  -- the twin
  | twinHeartbeat (claims : List Claim)
  | twinHeartbeatSend
  | failing
  | twinCalve (part : Nat)
  | adoptionComplete
  | resyncState (p : ResyncPack)
  | resyncTransferDone (x : ResyncXfer)
  | resyncHandover
  -- images
  | imagePut (sess target offset total : Nat) (bytes : Bytes)
  | segmentTwinResult (serial : Nat) (valid : Bool) (digest : Bytes)
  | segmentPhase2
  -- faults and calving
  | sramUncorrectable (site : SramSite)
  | residueMismatch (u : UnitId) (part slot : Nat)
  | canary (u : UnitId) (pass : Bool)
  | canarySetRun (failed : List UnitId)
  | issueRateCanary (u : UnitId) (pass : Bool)
  | faultEventRead
  | calve (sess : Nat) (parts : List Nat)
  | calveRequest (parts : List Nat)
  | markerTimeout (mid : Nat)
  | tapSet (sess part : Nat) (cfg : BitVec 192)
  | tapControlPage (part : Nat)
  | badkeyAlert (part : Nat)
  -- Rind
  | tableDigestRecompute
  | keyRotate (by_ : RotateBy) (range : Nat)
  | keyReport (sess part : Nat)
  | nonce (sess : Nat)
  | sealSecretSet (sess : Nat) (secret : BitVec 256) (sg : OwnerSig)
  | sealExport (sess : Nat)
  | sealImport (sess : Nat) (blob : Bytes) (sg : OwnerSig)
  | ownerKeyAdd (sess keyId : Nat) (key : Bytes) (sg : OwnerSig)
  | ownerKeyRevoke (sess keyId : Nat) (sg : OwnerSig)
  | mgmtCaSet (sess : Nat) (ca : Bytes) (sg : OwnerSig)
  | crlSet (sess : Nat) (serials : List Nat) (sg : OwnerSig)
  | release (sess : Nat) (sg : OwnerSig)
  | claim (sess keyId : Nat) (key ca : Bytes)
  | getVersion (sess : Nat)
  | getCapabilities (sess : Nat)
  | negotiateAlgorithms (sess : Nat)
  | getDigests (sess : Nat)
  | getCertificate (sess : Nat)
  | challenge (sess : Nat) (nonce : BitVec 256)
  | getMeasurements (sess index : Nat) (nonce : BitVec 256)
  | keyExchange (sess : Nat) (claimSession : Bool)
  | finish (sess : Nat) (clientCa : Bytes) (certSerial : Nat)
  | heartbeat (sess : Nat)
  | endSession (sess : Nat)
  -- Prosis
  | hello (sess fmLevel : Nat) (take : Bool)
  | bye (sess : Nat)
  | fwStage (sess : Nat) (paste : Bool) (offset total : Nat) (bytes : Bytes)
  | fwActivate (sess : Nat) (paste : Bool) (slotB : Bool)
  | fwCommit (sess : Nat) (paste : Bool)
  | fwStatus (sess : Nat)
  | planeDrain (sess : Nat)
  | drainComplete
  | planeResume (sess : Nat)
  | adopt (sess : Nat)
  | timeSetSeconds (sess secs : Nat)
  | streamStart (sess schedId frame : Nat)
  | streamStop (sess schedId : Nat)
  | firnPin (sess range : Nat)
  | firnUnpin (sess range : Nat)
  | datasetLoad (sess target source : Nat)
  | regRead (sess offset count : Nat)
  | telemSubscribe (sess periodMs scope part groups : Nat)
  | telemCancel (sess subId : Nat)
  | telemSample (subId : Nat)
  | counterAccumulate
  | eventLogWrite
  | pasteHeartbeatTimeout (core : Nat)
  | coreUncorrectable (core : Nat)
  | mctpControl (code : Nat)
  | pldmGetSensor (sensor : Nat)
  | pldmSetStateEffecter (code : Nat)
  -- resets and power
  | coldReset (ownClaim : Bool)
  | warmReset
  | pwrgdFall
  | resetFabric (sess : Nat)
  | resetPartition (sess part : Nat)
  | resetPort (sess port : Nat)
  | resetPaste (sess : Nat)
  | powerRun (sess : Nat)
  | powerHold (sess : Nat)
  | powerIdleLow (sess : Nat)
  | powerPark (sess : Nat)
  | supplyWarning (rail mv : Nat)
  | supplyWarningEnd
  | supplyReset (rail mv : Nat)
  | thermalThrottle (sensor tempQ : Nat)
  | thermalThrottleEnd
  | thermalEmergency (sensor tempQ : Nat)
  | emergencyEnd
  | hardwareTrip (sensor : Nat)
  | avsTimeout (rail : Nat)
  | powerLoss (aonKept : Bool)
  | tempMaxClear (v : Word64)
  | rcRegisterRead (offset : Nat)
  | registerWrite (offset : Nat) (v : Word64)
  | pasteRestartRequest
  | policerTokensPositive (pol : Nat)
  | supplyResetRelease
  | cxlLinkUp (port width : Nat)
  | ethLinkUp (port : Nat)
  | cxlLinkNarrow (port width : Nat)
  | cxlIoRequest (port code : Nat)
  | prosisSessionOpen (sess : Nat) (clientCa : Bytes) (certSerial : Nat) (claimSession : Bool)
  | prosisSessionClose (sess : Nat)
  | tapInstructionLoad (ir : Nat) (warmRstLow : Bool)
  | sensorRegisterUpdate (temps : List Nat) (mvs currents : List Nat) (power : Nat)
  deriving DecidableEq, Repr

end Sys2Proof
end

