-- ==== Sys2Proof/Config.lean ====
section
/-! DEFINITION. What the model leaves free: the values the spec does not state, the random draws, and the standard cryptographic functions,
each an opaque constant with no body, so that no proof can use a value of one. -/

namespace Sys2Proof.Config

/-- A value the spec leaves open, for the index State counts. -/
opaque freeNat : Nat → Nat

/-- Random bits Rind draws (R25, R213, R449, R452, R459), for the index State counts. -/
opaque draw : Nat → Nat

/-- The Firn set a block falls in, of a number of sets (R83 does not state the index function). -/
opaque firnSet (range : Nat) (odd : Bool) (block sets : Nat) : Nat

/-- The hash that chooses the member of a link aggregation group, over the fields R381 names in one list of bytes (R381 does not state the hash). -/
opaque lagHash (fields : Bytes) : Nat

/-- The Ethernet address this plane's gateway sends from, and the device identifier of its CAP (the spec states neither). -/
opaque gwMac : Nat
opaque devId : BitVec 32

/-- Where Whey, the engine spill region, a side list and the flash maps hold things: the 4 KiB page of the region that holds piece `i` of a staged unit, the
pages an engine op has spilled to, page `i` of a collection's side list, and page `i` of the map of a port and role (Table 3.1 gives the regions' sizes, the
spec no layout). -/
opaque wheyPage (unit i : Nat) : Nat
opaque spillPages (order : Nat) : List Nat
opaque sidePage (coll i : Nat) : Nat
opaque mapPage (port : Nat) (odd : Bool) (i : Nat) : Nat

/-- The twin's erase count of a block, and the place in its pool of the free block with its lowest, among those that are not taken (R107, R108): no command of the table carries
them. -/
opaque twinErase (port block : Nat) : Nat
opaque twinBest (port : Nat) (taken : List Nat) : Nat

/-- SHA-384 (R443, R449, R470, R471). -/
opaque sha384 : Bytes → Bytes

/-- ECDSA P-384 verification with SHA-384: key, message, signature (R390, R449). -/
opaque ecdsaOk (key msg sig : Bytes) : Bool

/-- An ECDSA P-384 signature made with the attestation key, which is derived from the CDI (R443, R444, R469), and the alias
certificate of that key. -/
opaque attest (cdi msg : Bytes) : Bytes
opaque aliasCert (cdi : Bytes) : Bytes

/-- The part's fused set point of VDD_CD, in 5 mV steps above 650 mV (R520). -/
opaque fusedSteps : Nat

/-- The part's fused set point of VDD_CD, mV: 5 mV steps within 0.65 to 0.85 V (R520). -/
def fusedPoint : Nat := 650 + 5 * (fusedSteps % 41)

/-- AES-256-XTS of one 64-byte line under key `k` with tweak `t` (R456, R461): a permutation of the lines, of which nothing else is known. -/
opaque xts (k t : Nat) : Equiv.Perm (BitVec 512)

/-- The leftmost 64 bits of AES-256-CMAC under key `k` (R456, R461). -/
opaque mac64 (k : Nat) (msg : Bytes) : Nat

/-- The seal key of partition `p` by HKDF-SHA-384 from the seal secret, the domain and the nonce (R459). -/
opaque sealKey (secret domain p nonce : Nat) : Nat

/-- AES-256-GCM sealing and opening of the nonce blob (R465): secret, domain, pair, blob. -/
opaque wrap (secret domain pair : Nat) : Bytes → Bytes
opaque unwrap (secret domain pair : Nat) : Bytes → Option Bytes

/-- The SHA-384 of the part's DeviceID public key (R449), its certificate chain (Table 15.2) and the boot ROM's bytes (Table 15.6). -/
opaque deviceIdHash : Bytes
opaque certChain : Bytes
opaque romImage : Bytes

/-- Firmware signature checks: the Aeddun firmware key for Rind, the Aeddun Paste key (R443, R445). -/
opaque aeddunKeyOk (paste : Bool) (image : Bytes) : Bool

/-- Whether a Paste image carries a good signature by an owner key (R445). -/
opaque ownerFwOk (key image : Bytes) : Bool

/-- The security version, interface level and least minor a firmware image carries (R443, R445, R479). -/
opaque fwVersion (image : Bytes) : Nat
opaque fwLevel (image : Bytes) : Nat
opaque fwMinMinor (image : Bytes) : Nat

/-- Whether an alias chain leads to the Aeddun root (R454). -/
opaque aliasOk (chain : Bytes) : Bool

/-- AES-256-GCM under a pair key with a message counter, and its opening, which gives the counter of a unit that is authentic (R454). -/
opaque gcmSeal (key : BitVec 256) (ctr : Nat) (plain : Bytes) : Bytes
opaque gcmOpen (key : BitVec 256) (unit : Bytes) : Option Nat

/-- CDI: HMAC-SHA-384 under the part's UDS of the SHA-384 of a Rind image and its security version (R443). -/
opaque cdi (rind : Bytes) (svn : Nat) : Bytes

/-- Whether bytes are a well-formed ECDSA P-384 certificate (R447). -/
opaque certP384 (cert : Bytes) : Bool

/-- The pair key: ECDH P-384 between the attestation key of a part whose CDI is `cdi` and the alias key of `chain`, at the
training `n` (Table 15.3). -/
opaque pairKey (cdi chain : Bytes) (n : Nat) : BitVec 256

/-- Whether a client certificate chain leads to a management CA (R466, R467). -/
opaque chainOk (ca chain : Bytes) : Bool

/-- Serial numbers of the certificates of a client's chain beside its own (R466). -/
opaque chainSerials (chain : Bytes) : List Nat

/-- A session's buffer of 4,096 events is full at an event, by its number (R484): how fast a client takes them is not the part's. -/
opaque bufferFull (sess seq : Nat) : Bool

end Sys2Proof.Config
end

