-- ==== Sys2Proof/Machine/Records.lean ====
section
/-! DEFINITION. The records of the Rennet image (chapter 13) and of the isolation tables they load (chapter 1), as plain data. -/

namespace Sys2Proof.Machine

/-- A requester record (Table 1.2) with its limit record (Table 5.7, table 2); kind 0 Bamom, 1 CXL. -/
structure ReqRec where
  enabled : Bool := false
  kind : Nat := 0
  port : Nat := 0
  part : Nat := 0
  reqLimit : Nat := 256
  sub : Nat := 0
  deriving DecidableEq, Repr

/-- A CXL window (Table 1.7); bases and size in 2 MiB units. -/
structure WindowRec where
  valid : Bool := false
  port : Nat := 0
  index : Nat := 0
  rid : Nat := 0
  dpaBase : Nat := 0
  size : Nat := 0
  fabricBase : Nat := 0
  key : Word32 := 0
  deriving DecidableEq, Repr

/-- A DEVICE record (Table 13.4) after the zero selections of R536. -/
structure DeviceRec where
  planeIndex : Nat := 0
  planes : Nat := 1
  twinPresent : Bool := false
  mirrorEn : Bool := false
  domainId : Nat := 0
  twinPort : Nat := 0
  firnGib : Nat := 0
  wheyGib : Nat := 0
  spillGib : Nat := 0
  ctlGib : Nat := 8
  rspCells : Nat := 0
  schCells : Nat := 0
  engCells : Nat := 0
  wheyBwPct : Nat := 25
  msgAgeMs : Nat := 4
  alpha : List Nat := []
  readThr : Nat := 60000
  ageS : Nat := 300
  gwEtype : Nat := 0x88B5
  source : Nat := 0
  refPort : Nat := 0
  ptpDomain : Nat := 0
  stepThr : Nat := 1000
  holdoverMs : Nat := 1000
  driftPpb : Nat := 50
  ppsEn : Bool := false
  ppsWidthUs : Nat := 0
  ppsDelayNs : Nat := 0
  deriving DecidableEq, Repr

/-- A PORT record (Table 13.5); protocol 1 Bamom, 2 CXL, 3 Ethernet; role 0 REQUESTER, 1 TRAY, 2 TWIN, 3 UPLINK. -/
structure PortRec where
  protocol : Nat := 0
  role : Nat := 0
  width : Nat := 0
  minWidth : Nat := 0
  firstLane : Nat := 0
  maxRate : Nat := 0
  cxlVer : Nat := 0
  pcpClass : List Nat := []
  untaggedClass : Nat := 0
  cxlClass : Nat := 0
  thr : List Nat := []
  tosTx : Bool := false
  asymPs : Int := 0
  windowKib : Nat := 64
  wheyMib : Nat := 0
  deriving DecidableEq, Repr

/-- A PARTITION record (Table 13.6). `firnGib = none` is the default share of R87. -/
structure PartRec where
  firnGib : Option Nat := none
  partLimit : Nat := 4096
  idemQuota : Nat := 512
  /-- context allotments of RDU, GTU, FLU, CTU (Table 7.14) -/
  ctx : List Nat := []
  /-- exclusive flags of the same -/
  excl : List Bool := []
  scratch : Nat := 0
  defaultVid : Nat := 0
  vids : List Nat := []
  deriving DecidableEq, Repr

/-- A POLICER record (Table 5.7, table 0): rates in MB/s, bursts in 256 B units. -/
structure PolicerRec where
  cir : Nat := 0
  pir : Nat := 0
  en : Bool := false
  colorAware : Bool := false
  cbs : Nat := 0
  pbs : Nat := 0
  deriving DecidableEq, Repr

/-- A SHAPER record (Table 5.7, table 1): rate in MB/s, ceiling in 64 B units. -/
structure ShaperRec where
  idleSlope : Nat := 0
  shaped : Bool := false
  hiCredit : Nat := 0
  deriving DecidableEq, Repr

/-- A multicast group (R140, Table 13.7). -/
structure McastRec where
  loopback : Bool := false
  cls : Nat := 0
  part : Nat := 0
  shared : Bool := false
  floodVid : Nat := 0
  members : List Nat := []
  deriving DecidableEq, Repr

/-- A reduction group template (Table 8.6). -/
structure RGroupRec where
  valid : Bool := false
  part : Nat := 0
  mcast : Nat := 0
  resultClass : Nat := 0
  resultSched : Bool := false
  maxWindow : Nat := 1
  timeoutUs : Nat := 1
  deriving DecidableEq, Repr

/-- A COLL record (Table 13.7). -/
structure CollRec where
  part : Nat := 0
  sideMib : Nat := 0
  deriving DecidableEq, Repr

/-- A GW_WINDOW record (R382, Table 13.7). -/
structure GwWindowRec where
  part : Nat := 0
  localRange : Nat := 0
  peerDomain : Nat := 0
  vid : Nat := 0
  remoteBase : Nat := 0
  remoteKey : Word32 := 0
  peerMac : Nat := 0
  deriving DecidableEq, Repr

/-- A GW_EXPORT record (R386, Table 13.7). -/
structure GwExportRec where
  rid : Nat := 0
  peerDomain : Nat := 0
  peerMac : Nat := 0
  deriving DecidableEq, Repr

/-- A flow record (Table 6.4). -/
structure FlowRec where
  valid : Bool := false
  kind : Nat := 0
  srcPort : Nat := 0
  rid : Nat := 0
  dest : Nat := 0
  latSlots : Nat := 0
  part : Nat := 0
  range : Nat := 0
  loc : Nat := 0
  length : Nat := 0
  unitCells : Nat := 0
  leadSlots : Nat := 0
  deriving DecidableEq, Repr

/-- A window entry of the scheduled plane (Table 6.5). -/
structure SchWinRec where
  start : Nat := 0
  len : Nat := 0
  period : Nat := 0
  rep : Nat := 0
  schedId : Nat := 0
  port : Nat := 0
  slotBytes : Nat := 0
  deriving DecidableEq, Repr

/-- An L2_STATIC record (Table 13.7). -/
structure L2StaticRec where
  mac : Nat := 0
  vid : Nat := 0
  port : Nat := 0
  deriving DecidableEq, Repr

/-- One schedule bank (R196): flows, windows, egress slot maps (bit s of the number is slot s), Cheril's SCH peak, and the bytes of the
schedule sections it was loaded from (measurement index 6, Table 15.6). -/
structure SchedBank where
  flows : List (Nat × FlowRec) := []
  wins : List (Nat × SchWinRec) := []
  maps : List (Nat × Nat) := []
  schPeak : Nat := 0
  src : Bytes := []
  deriving DecidableEq, Repr

/-- Every record of an image, each list keyed by the index of Table 13.3. -/
structure ImgBody where
  device : Option DeviceRec := none
  ports : List (Nat × PortRec) := []
  isets : List (Nat × List Nat) := []
  shapers : List (Nat × ShaperRec) := []
  l2 : List (Nat × L2StaticRec) := []
  flashPool : List (Nat × Nat) := []
  parts : List (Nat × PartRec) := []
  reqs : List (Nat × ReqRec) := []
  ranges : List (Nat × RangeEntry) := []
  windows : List (Nat × WindowRec) := []
  policers : List (Nat × PolicerRec) := []
  mcasts : List (Nat × McastRec) := []
  rgroups : List (Nat × RGroupRec) := []
  colls : List (Nat × CollRec) := []
  gwWins : List (Nat × GwWindowRec) := []
  gwExps : List (Nat × GwExportRec) := []
  sched : Option SchedBank := none
  deriving DecidableEq, Repr

/-- An image header (Table 13.1), its records, and the raw bytes it came from. -/
structure Image where
  fmtVer : Nat := 0
  stepping : Nat := 0
  partialSeg : Bool := false
  serial : Nat := 0
  baseSerial : Nat := 0
  domainId : Nat := 0
  planeIndex : Nat := 0
  keyId : Nat := 0
  digest : Bytes := []
  /-- partitions the scope names -/
  scope : List Nat := []
  body : ImgBody := {}
  /-- bytes of the RANGE section, for the twin digest of R406 -/
  rangeBytes : Bytes := []
  /-- the whole image as delivered -/
  raw : Bytes := []
  deriving DecidableEq, Repr

end Sys2Proof.Machine
end

