-- ==== Sys2Proof/Machine/State.lean ====
section
/-! DEFINITION. The state of one LM720 as plain data: one record per part of the device, each field naming its rule, and State.reset. -/

namespace Sys2Proof.Machine

/-- Why the machine stops with a fault. No step of this model does: every row of the table has an effect the spec gives, so the type has no
constructor (safe: nothing is hidden behind a stop). -/
inductive Fault where
  deriving DecidableEq, Repr

/-- Why a command is refused by the model. -/
inductive Refusal where
  /-- Raised by an arm of `exec` whose meaning is not written; no arm is one (safe). -/
  | notModelled (mnemonic : String)
  deriving DecidableEq, Repr

/-- The device-wide RC counters, by register (Tables 2.10, 3.7, 4.5, 5.5, 6.7, 7.13, 8.16, 9.10, 10.13, 11.8, 12.11, 14.11, 15.8, 16.9, 17.8). -/
inductive GCtr where
  | auIdemReplay | auIdemStale | auQuotaFull | auReplayed | deadlineDisp | deadlineExec
  | firnHit | firnMiss | firnNoalloc | firnSweep | ftlRebuild | ftlDivert
  | vatEccCorr | vatEccUnc | vatWheyAged | vatDemoteSch | vatMcCopies | vatMcDrop
  | polYel | polRed | limitHold
  | demoteWin | demoteSusp | demoteSwap | ftmSteps
  | opfAccept | opfBusy | opfRefuse | opfCmplLost
  | rduChunkOk | rduChunkPoison | rduContrib | rduDiscard | rduTimeout
  | gtuRows | gtuLookups | gtuSkipped | gtuOob | gtuLockWait | gtuAccOvf
  | fluItems | fluPredPass | fluTopkIns | fluFilterHit | fluCompacts
  | ctuRows | ctuPages | ctuAppended | ctuNanRec
  | gwPull | gwPush | gwFail
  | calveCnt | residueErr | canaryRun | canaryFail | sramCorr | sramUnc
  | hbMiss | stackMacErr | sealMacErr | telemSkip | eventLost | throttleCnt | throttleNs
  deriving DecidableEq, Repr

/-- The per-port RC counters (Tables 1.8, 2.10, 4.5, 6.7, 12.11). -/
inductive PCtr where
  | chkNoacc | chkBadkey | chkUnsup | chkDown | fenceInc | cxlWerr | spillCnt | marked | dropAdmit | dropAge
  | flushLost | lineHold | schDemote | fecCorr | fecUnc | crcErr | replay | narrow | l2Drop
  deriving DecidableEq, Repr

/-! ## Units, messages, queues -/

/-- Vat pools (Table 4.3). -/
inductive Pool where
  | rsp | sch | eng | ctl | shr
  deriving DecidableEq, Repr

/-- What one tray access does (R359, Tables 12.4 and 12.9). -/
inductive AccKind where
  | load | store | storeMasked | flush | flRead | flProg | flErase | flGeom
  deriving DecidableEq, Repr

/-- On whose behalf a tray access runs. -/
inductive AccOwner where
  /-- piece `piece` of request `req` -/
  | req (req piece : Nat)
  /-- read of a sealed line's MAC for a request's piece (R463) -/
  | reqMac (req piece : Nat)
  /-- a Firn sector fill (R84) -/
  | fill (fid : Nat)
  /-- the replay of a shadow entry (R60) -/
  | replay (rid tag : Nat)
  /-- one column read of a stripe rebuild (R98) -/
  | rebuild (reb col : Nat)
  /-- a copy read or program of the relocation of a block (R102) -/
  | ftl (port pblock : Nat)
  /-- a program of a dataset load (R109) -/
  | ds (target : Nat)
  /-- an erase of a block that leaves its map (R102, R112) -/
  | erase (port pblock : Nat)
  /-- geometry read at training (R94) -/
  | geom (port : Nat)
  deriving DecidableEq, Repr

/-- Where a tray access stands. `held`: the class queue does not take it yet (R135). `late`: its request has been answered and its answer will be discarded (R537, R419). -/
inductive AccState where
  /-- waits for admission to its class queue (R135) -/
  | held
  | queued | sent | late
  deriving DecidableEq, Repr

/-- Where a tier 3 access lies: group, unit index, column, member index, logical block, page, sector, byte. -/
structure FlashLoc where
  grp : Nat
  u : Nat
  col : Nat
  member : Nat
  lblock : Nat
  page : Nat
  sector : Nat
  byte : Nat
  deriving DecidableEq, Repr

/-- A flash map entry (Table 3.4). -/
structure MapEnt where
  block : Nat := 0
  die : Nat := 0
  chan : Nat := 0
  valid : Bool := false
  relocating : Bool := false
  newBlock : Nat := 0
  newDie : Nat := 0
  newChan : Nat := 0
  deriving DecidableEq, Repr

/-- The sector a flash access reads, as it was found at its dispatch: range, its entry and Firn generation, the location, and the map entries of
the stripe's ten columns (R98, R32). -/
structure FlashRef where
  range : Nat
  entry : RangeEntry
  gen : Nat
  loc : FlashLoc
  cols : List MapEnt := []
  deriving DecidableEq, Repr

/-- One access on a tray port (R15, R359). -/
structure Acc where
  aid : Nat
  port : Nat
  /-- sent over the twin link to the tray's other port (R145) -/
  viaTwin : Bool := false
  kind : AccKind
  addr : Nat
  len : Nat := 64
  data : Bytes := []
  mask : Nat := 0
  poison : Bool := false
  rid : Nat := 0
  part : Nat := 0
  cls : Nat := 0
  owner : AccOwner
  state : AccState := .queued
  /-- write class, dispatched and unanswered: what R424 waits for -/
  writeClass : Bool := false
  /-- end of the execution deadline, for R537 -/
  execEnd : Nat := 0
  /-- channel and die of a flash command (R375) -/
  fkey : Nat := 0
  /-- place of its bytes in what its owner asked for -/
  off : Nat := 0
  /-- it carries MAC bytes of a sealed extent (R462) -/
  isMac : Bool := false
  /-- stripe the access belongs to: true odd (R431) -/
  odd : Bool := false
  /-- an engine's access: its cells come from ENG (R137) -/
  eng : Bool := false
  /-- what a flash read reads (R98) -/
  fl : Option FlashRef := none
  deriving DecidableEq, Repr

/-- Messages of the twin link (type 0xE8, internal to the pair; R13, R59, R423, R427-R433, R406). -/
inductive TwinMsg where
  /-- a forwarded request with the range entry its step 1 took and a PUBLISH's region (R13, R32) -/
  | fwd (ref : Nat) (h : ReqHdr) (k : ReqKind) (acceptedAt range : Nat) (e : RangeEntry) (region : Option (Nat × RangeEntry))
  | fwdRsp (ref : Nat) (r : Rsp)
  /-- a mirrored entry with the sender's ownership claims (R59, R430) -/
  | mirror (e : MirrorEnt) (claims : List Claim)
  | mirrorAck (rid tag : Nat)
  | done (rid tag : Nat)
  | doneAck (rid tag : Nat)
  | heartbeat (claims : List Claim)
  | failing
  | adopted
  | calve (part : Nat)
  | segResult (serial : Nat) (valid : Bool) (digest : Bytes)
  | reroute (a : Acc)
  | marker (mid : Nat)
  | mapEntry (port : Nat) (odd : Bool) (lblock : Nat) (e : Word64)
  | counters (cs : List (Nat × Nat × Nat × Nat))
  | resyncPack (p : ResyncPack)
  | resyncXfer (x : ResyncXfer)
  | epochs (es : List Nat)
  | keys (ks : List (Nat × Word32))
  /-- aperture keys the even plane has drawn (R213) -/
  | apKeys (ks : List (Nat × Word32))
  /-- seal nonces the even plane has drawn (R459) -/
  | nonces (ns : List (Nat × BitVec 128))
  deriving DecidableEq, Repr

/-- Link items the block sends (Table 12.7). -/
inductive LinkItem where
  | ack (fseq : Nat) | nak (fseq : Nat) | credit (req msgs : Nat)
  | tos (echoValid : Bool) (txPs tTx e1Ps e1 e2Ps e2 : Nat)
  | grant (allowance perSlot expiry : Nat)
  | cap (role gen width reqCr msgCr grantKib devId : Nat) (claims : List Claim)
  | down (cause : Nat) | narrow (mask fseq : Nat)
  deriving DecidableEq, Repr

/-- A stream unit the block sends (Table 12.5): a DATA copy, a REDUCE result, or an ATTEND record chunk (R347). -/
structure StreamOut where
  utype : Nat
  hdr : StreamHdr
  status : Status := .ok
  detail : Nat := 0
  /-- slot number at its acceptance, for the demotion log (Table 6.11) -/
  accSlot : Nat := 0
  deriving DecidableEq, Repr

/-- What a queue descriptor points to (R138). -/
inductive QItem where
  | acc (aid : Nat)
  | rsp (req : Nat) (r : Rsp)
  | stream (u : StreamOut)
  | frame (f : Bytes)
  | twin (m : TwinMsg)
  | marker (mid : Nat)
  /-- one copy of a stored multicast unit (R141) -/
  | copy (mc : Nat)
  | gateway (h : GwHdr)
  deriving DecidableEq, Repr

/-- A queue descriptor (R138) with the cells or quanta its unit holds. -/
structure Desc where
  uid : Nat
  item : QItem
  pool : Pool
  /-- cells; for the response queue, quanta of 16 B (R132) -/
  cells : Nat
  bytes : Nat
  part : Nat := 0
  cls : Nat := 0
  poison : Bool := false
  cmark : Bool := false
  /-- coloured yellow: marked at half the threshold (Table 5.2) -/
  yellow : Bool := false
  /-- its request counts as outstanding until this leaves (R153) -/
  counted : Bool := false
  /-- absolute send slot of a plane-sourced unit (R199) -/
  slot : Option Nat := none
  deriving DecidableEq, Repr

/-- A stored multicast unit and its reference count (R141). -/
structure McUnit where
  mc : Nat
  item : QItem
  pool : Pool
  cells : Nat
  refs : Nat
  deriving DecidableEq, Repr

/-- What waits in a port's staging or in its part of Whey (R118, R119). -/
inductive StgItem where
  | req (req : Nat)
  /-- a stream unit: coloured yellow; its SHR cells already held from its grant (R206) -/
  | stream (u : StreamOut) (yellow held : Bool)
  /-- an Ethernet frame (`eth`), or one of a MSG unit with its requester and partition -/
  | frame (eth : Bool) (rid part : Nat) (cmark : Bool) (f : Bytes)
  /-- the payload of a request that has been answered from its header (R122) -/
  | dead
  deriving DecidableEq, Repr

/-- A unit in staging; FIFO 0 command, 1 stream, 2 message (R118). -/
structure StgUnit where
  uid : Nat
  fifo : Nat
  item : StgItem
  /-- 256 B units held -/
  units : Nat
  spilled : Bool := false
  since : Nat := 0
  /-- FT when it was staged -/
  ft : Nat := 0
  deriving DecidableEq, Repr

/-- A TWIN unit as it leaves: AES-256-GCM seals `msg` under the pair key with a message counter that is used once (R454); the model holds it opened. -/
structure TwinUnit where
  key : BitVec 256
  ctr : Nat
  msg : TwinMsg
  deriving DecidableEq, Repr

/-- What leaves a port on the wire. -/
inductive Wire where
  | acc (a : Acc)
  | rsp (r : Rsp)
  | stream (u : StreamOut)
  | frame (f : Bytes)
  | twin (u : TwinUnit)
  /-- what this plane shows its twin at twin-link training (R454) -/
  | ident (t : TwinId)
  | marker (mid : Nat)
  | item (i : LinkItem)
  /-- a flit of a Bamom port (Table 12.2), sent or resent -/
  | flit (b : Bytes)
  /-- CXL read data with its poison bit, or a write completion (R74) -/
  | cxlData (data : Bytes) (poison : Bool)
  | cxlCmpl
  /-- credits of a CXL port withheld (`false`) or returned (R160) -/
  | cxlCredits (on : Bool)
  /-- a gateway frame with its EtherType (R385) -/
  | gateway (etype : Nat) (h : GwHdr)
  deriving DecidableEq, Repr

/-! ## Ports -/

/-- PRT_LINK.state (Table 12.13). -/
inductive LinkState where
  | disabled | training | up | down | failed
  deriving DecidableEq, Repr

/-- A window grant held by one end of a link (R205). -/
structure Grant where
  gid : Nat
  /-- bytes left -/
  left : Nat
  perSlot : Nat
  /-- absolute slot at which it lapses -/
  expiry : Nat
  /-- SHR cells reserved (R206); 0 for a grant received -/
  cells : Nat := 0
  /-- slot last used and the bytes used in it -/
  slot : Nat := 0
  inSlot : Nat := 0
  deriving DecidableEq, Repr

/-- PRT_CHK_LOG and PRT_CHK_ADDR (Table 1.10, R36). -/
structure ChkLog where
  valid : Bool := false
  status : Status := .ok
  step : Nat := 0
  rid : Nat := 0
  part : Nat := 0
  dpa : Bool := false
  opcode : Nat := 0
  addr : Nat := 0
  deriving DecidableEq, Repr

/-- What a flash tray reports of itself (Table 3.3, Table 12.9): channels, dies of a channel, blocks of a die, pages of a block, disturb_limit, and
its bad blocks. -/
structure Geom where
  chans : Nat := 0
  dies : Nat := 0
  blocks : Nat := 0
  upb : Nat := 1024
  limit : Nat := 0
  bad : List Nat := []
  deriving DecidableEq, Repr

/-- The live part of one port (chapters 4, 6 and 12). -/
structure Port where
  /-- requests received with the reissue bit; Table 12.4; 0 -/
  reissued : Nat := 0
  /-- PRT_LINK.state, 3 bits; R372, Table 12.13; 0 DISABLED -/
  link : LinkState := .disabled
  /-- PRT_LINK.width_now, 5 bits; Table 12.13; 0 -/
  widthNow : Nat := 0
  /-- PRT_LINK.rate_now, 4 bits; Table 12.13; 0 -/
  rateNow : Nat := 0
  /-- PRT_LINK.lane_mask, 16 bits; Table 12.13; 0 -/
  laneMask : Nat := 0
  /-- PRT_LINK_CTL.disable, 1 bit; Table 12.14; 0 -/
  disable : Bool := false
  /-- PRT_DOWN_LOG valid, cause, ft; Table 12.15; 0 -/
  downLog : Option (Nat × Nat) := none
  /-- training step in progress, 1-7, 0 none; R370; DESIGN CHOICE 0 (the spec gives none) -/
  trainStep : Nat := 0
  /-- training attempts failed; R370; 0 -/
  attempts : Nat := 0
  /-- generation being tried, 1 or 2; R370; DESIGN CHOICE 2 -/
  gen : Nat := 2
  /-- start of the step in progress, ns; R370; 0 -/
  stepAt : Nat := 0
  /-- T6 failed: no retry until retrain; R371; 0 -/
  capFailed : Bool := false
  /-- next fseq to send, 10 bits; R366, T7; 0 -/
  txSeq : Nat := 0
  /-- unacknowledged flits kept for resend, at most 512; R366; empty -/
  unacked : List (Nat × Bytes) := []
  /-- link items that wait for room among them, oldest first; R366; empty -/
  items : List LinkItem := []
  /-- resends of the oldest flit without ACK progress; R367; 0 -/
  resends : Nat := 0
  /-- time of the last ACK progress, ns; R366; 0 -/
  ackAt : Nat := 0
  /-- next fseq expected, 10 bits; R357; 0 -/
  rxExp : Nat := 0
  /-- flits received in order and not acknowledged; R366; 0 -/
  rxUnacked : Nat := 0
  /-- time of the last unacknowledged flit, ns; R366; 0 -/
  rxAt : Nat := 0
  /-- time of the last NAK sent, ns; R366; none -/
  nakAt : Option Nat := none
  /-- time of the last flit, NULL or not, ns; R372; 0 -/
  lastFlit : Nat := 0
  /-- unfinished bytes of the command and of the stream channel; R358; empty -/
  rxCmd : Bytes := []
  rxStm : Bytes := []
  /-- units that the last flit in order has completed; R357; empty -/
  rxUnits : List Bytes := []
  /-- REQ and MSG credits the far end holds (PRT_CREDIT), 12 bits each; R364; 0 -/
  farReq : Nat := 0
  farMsg : Nat := 0
  /-- CXL.mem request and data credits the host holds, at most 128 of each; R376, Table 12.10; 0 until its link is up -/
  cxlReq : Nat := 0
  cxlDat : Nat := 0
  /-- device identifier of the far end's CAP, 32 bits; Table 12.8; 0 -/
  farDev : Nat := 0
  /-- REQ and MSG credits this end holds, issued by the far end; R364; 0 -/
  ownReq : Nat := 0
  ownMsg : Nat := 0
  /-- grants issued to the far end; R205; none -/
  grantsOut : List Grant := []
  /-- the grant that this end's CAP offers while the port trains, with its SHR cells; R205, R206; none -/
  capGrant : Option Grant := none
  /-- grants received; R208; none -/
  grantsIn : List Grant := []
  /-- grants and credits withheld: stream policer red, CXL debt; R159, R160; 0 -/
  withheld : Bool := false
  /-- policers that coloured a stream unit of this port red and whose tp has not been positive since; R159; none -/
  redPols : List Nat := []
  /-- PRT_TOS tos_tx, asym_ps, delay_ps; Table 6.12; from image -/
  tosTx : Bool := false
  asymPs : Int := 0
  delayPs : Int := 0
  /-- t_tx of the last TOS received and its local arrival, FT ns; R368; none -/
  lastTos : Option (Nat × Nat) := none
  /-- picoseconds of the same two times, 10 bits each; R368, Table 12.7; 0 -/
  lastTosPs : Nat × Nat := (0, 0)
  /-- time of the last TOS received, and of the last delay measurement, ns; Table 6.2, R190; none -/
  tosRxAt : Option Nat := none
  delayAt : Option Nat := none
  /-- time of the last TOS sent, ns, for the 4,096 ns period; R190; 0 -/
  tosAt : Nat := 0
  /-- PRT_CHK_LOG, PRT_CHK_ADDR; Tables 1.8, 1.10; 0 -/
  chk : ChkLog := {}
  /-- PRT_MARK_THR thr0-thr6, 8 bits each; Table 4.10; from image -/
  markThr : List Nat := [0, 0, 0, 0, 0, 0, 0]
  /-- staging and Whey part, oldest first; R118, R119; empty -/
  stg : List StgUnit := []
  /-- class queues 0-7, oldest first; R138; empty -/
  q : List (List Desc) := [[], [], [], [], [], [], [], []]
  /-- response queue; R134, R138; empty -/
  rspQ : List Desc := []
  /-- control queue; R134, R138; empty -/
  ctlQ : List Desc := []
  /-- control units that wait for CTL cells, oldest first, with their bytes; Table 4.3; empty -/
  ctlWait : List (QItem × Nat) := []
  /-- control units sent and not yet accepted: number of the last flit, and CTL cells; Table 4.3; none -/
  ctlHeld : List (Nat × Nat) := []
  /-- PRT_RSP.used_quanta, 21 bits; R133; 0 -/
  rspUsed : Nat := 0
  /-- end of the unit being sent, ns; R198, R166; 0 -/
  busyUntil : Nat := 0
  /-- class queue being sent from until then; R166; none -/
  sendCls : Option Nat := none
  /-- requester lanes in electrical idle (Idle-low); Table 17.4; 0 -/
  idle : Bool := false
  /-- credits paced to half on a hot lane die; Table 17.5; 0 -/
  paced : Bool := false
  /-- geometry report of a flash tray; R94; none -/
  geom : Option Geom := none
  /-- the report has been asked for and admitted since the link last came up; R94, R396; 0 -/
  geomOk : Bool := false
  /-- bytes each class queue has sent, totals of telemetry; Table 16.6; 0 -/
  sentBytes : List Nat := [0, 0, 0, 0, 0, 0, 0, 0]
  /-- REQ and MSG credits this end offered at T6, 12 bits each; R364, R371; 0 -/
  offReq : Nat := 0
  offMsg : Nat := 0
  deriving DecidableEq, Repr

/-! ## Requests -/

/-- Where a request came from and where its answer goes. -/
inductive ReqSrc where
  | bamom
  /-- CXL.mem: `wr` a write, answered by a completion (R74) -/
  | cxl (wr : Bool)
  /-- the PROXY flit in `slot` of the request's partition (R232) -/
  | proxy (slot : Nat)
  /-- forwarded by the twin under R13 with its reference -/
  | twin (ref : Nat)
  /-- made for a gateway peer under an export record (R386) -/
  | gw
  /-- an engine access, or a line of one, of the flit in `slot` of the request's partition (R222) -/
  | eng (slot : Nat)
  /-- a line of a log-tap record or control page (R437, R438) -/
  | tap
  /-- a piece of a gateway block, read for a push or a line of one written by a pull (R385) -/
  | gwLoc (window block piece : Nat)
  /-- a sector of the row that a dataset load reads from its source (R109) -/
  | ds (target off : Nat)
  /-- a part of the unit that a plane-sourced stream reads for a send slot (R199) -/
  | strm (schedId slot off : Nat)
  deriving DecidableEq, Repr

/-- Where a request stands (R39, Table 2.4, R66). -/
inductive Phase where
  /-- in the command FIFO, at the head held by a limit or behind such a unit (R154) -/
  | fifo
  /-- waits for a line lock or a lock entry (R51) -/
  | lock
  /-- waits for its response reservation (R133) -/
  | rsp
  /-- waits in staging for SHR admission (R135) -/
  | admitting
  /-- queued on a tray port (R139) -/
  | queued
  /-- dispatched to the tray -/
  | exec
  /-- waits for a Firn sector fill (R84, R85) -/
  | fill
  /-- FLUSH_RANGE or PUBLISH waits for earlier writes (R64) -/
  | early
  /-- Table 2.4 step 2: the line is read -/
  | auRead
  /-- step 4: the entry is on its way to the twin -/
  | auMirror
  /-- step 5: the new image is being written -/
  | auWrite
  /-- step 7: answered; the lock is held until DONE is acknowledged -/
  | auDone
  /-- forwarded to the twin (R13) -/
  | fwd
  /-- a FENCE that waits for what it covers (R66) -/
  | fence
  /-- a failed CXL write whose completion waits for phase K1 (R75) -/
  | werr
  /-- a retry that joined its original (R56) -/
  | joined
  /-- answered; a tray access of it stays outstanding (R537) -/
  | late
  deriving DecidableEq, Repr

/-- One returned or outstanding piece of a request (R17): its place, and what came back. -/
structure Piece where
  port : Nat
  addr : Nat
  len : Nat
  /-- offset within the request -/
  off : Nat
  /-- fabric address of the piece -/
  faddr : Nat := 0
  done : Bool := false
  status : Status := .ok
  data : Bytes := []
  deriving DecidableEq, Repr

/-- A request in flight (R38). -/
structure Req where
  id : Nat
  hdr : ReqHdr
  kind : ReqKind
  src : ReqSrc
  /-- time of acceptance on the 1 ns counter (R38, R181), and in FT (R438) -/
  accAt : Nat
  accFt : Nat := 0
  phase : Phase
  /-- the range entry, its index and the tray role step 1 took (R32) -/
  view : Option (Nat × RangeEntry × Bool) := none
  /-- Firn generation of that range then (R32, R92) -/
  fgen : Nat := 0
  /-- the range entry of a PUBLISH's region, with its index (R63, R32) -/
  region : Option (Nat × RangeEntry) := none
  /-- counted in its requester's and partition's outstanding requests (R153) -/
  counted : Bool := false
  /-- passed every check of Table 1.6 and is write-class (R66) -/
  covered : Bool := false
  /-- start of the execution phase, once dispatched (R39) -/
  dispAt : Option Nat := none
  /-- response quanta reserved at its port (R133) -/
  quanta : Nat := 0
  pieces : List Piece := []
  /-- MAC lines of a sealed access (R463) -/
  macs : List Piece := []
  /-- second phase of a sealed store or of PUBLISH -/
  stage : Nat := 0
  /-- a PROXY FENCE covers the requests before this number only (R538) -/
  limit : Option Nat := none
  /-- computed result and new line image of a tagged request (Table 2.4 step 3) -/
  result : BitVec 128 := 0
  newLine : Bytes := []
  finalSt : Status := .ok
  /-- step 6 is past: the answer has been released -/
  released : Bool := false
  /-- ids a FENCE covers, or that a FLUSH_RANGE or PUBLISH waits for -/
  waits : List Nat := []
  /-- drain markers a FENCE waits for (R67) -/
  markers : List Nat := []
  /-- mirroring was on when it was classified (R77) -/
  mirrored : Bool := false
  /-- the twin has acknowledged its entry: step 4 is past (R59) -/
  mirAck : Bool := false
  yellow : Bool := false
  /-- it goes to the twin that serves its address (R13) -/
  fwd : Bool := false
  /-- DPA of a CXL.mem transaction (R29) -/
  dpa : Nat := 0
  /-- its port has gone down since it was accepted: its answer is discarded (R144) -/
  gone : Bool := false
  /-- counted as held by a limit at the head of its FIFO (R154) -/
  held : Bool := false
  deriving DecidableEq, Repr

/-- A drain marker on its way (R67, R424, R433). -/
structure Marker where
  mid : Nat
  port : Nat
  /-- 0 reroute (R67), 1 reactivation (R424), 2 resynchronisation (R433) -/
  why : Nat
  sentAt : Nat
  /-- accesses ahead of it on the old path -/
  behind : List Nat := []
  /-- requesters whose covered requests it stands behind (R66, R67) -/
  rids : List Nat := []
  deriving DecidableEq, Repr

/-- States of an idempotency entry (R56). -/
inductive IdemState where
  | running | notApplied | recorded
  deriving DecidableEq, Repr

/-- An idempotency entry (R55). -/
structure IdemEnt where
  rid : Nat
  tag : Nat
  part : Nat
  opcode : Nat
  addr : Nat
  state : IdemState
  status : Status := .ok
  result : BitVec 128 := 0
  /-- time of the answer, from which 256 us run -/
  ansAt : Option Nat := none
  /-- has the twin acknowledged it -/
  mirrored : Bool := false
  /-- requests that joined a running original -/
  joined : List Nat := []
  /-- what is sent to the twin at catch-up (R61) -/
  line : Nat := 0
  image : Bytes := []
  /-- it stores data that came marked as poisoned (R48) -/
  poison : Bool := false
  deriving DecidableEq, Repr

/-- A shadow entry held for the twin (R59). -/
structure ShadowEnt where
  ent : MirrorEnt
  storedAt : Nat
  /-- its 256 us have passed while PENDING: freed when it becomes DONE -/
  overdue : Bool := false
  deriving DecidableEq, Repr

/-- Who holds a line lock (R51, R287). -/
inductive LockOwner where
  | req (req : Nat)
  | piece (part slot : Nat)
  deriving DecidableEq, Repr

/-- The request path and the atomic unit (chapter 2). -/
structure Mem where
  /-- requests in flight, in order of acceptance; R38; none -/
  reqs : List Req := []
  /-- tray accesses queued or outstanding; R15, R537; none -/
  accs : List Acc := []
  /-- drain markers on their way; R67; none -/
  markers : List Marker := []
  /-- requester outstanding counts, 12 bits each; R153; 0 -/
  outReq : List (Nat × Nat) := []
  /-- partition outstanding counts, 16 bits each; R153; 0 -/
  outPart : List (Nat × Nat) := []
  /-- line-lock table: line (address / 64) and holder, at most 16,384; R51; empty -/
  locks : List (Nat × LockOwner) := []
  /-- AU_LOCK_PEAK; Table 2.10; 0 -/
  lockPeak : Nat := 0
  /-- idempotency table, at most 65,536; R55; empty -/
  idem : List IdemEnt := []
  /-- tag_hi of each requester whose tag_hi_valid is 1, 16 bits; R56, R57; none -/
  tagHi : List (Nat × Nat) := []
  /-- shadow table, at most 65,536; R59; empty -/
  shadow : List ShadowEnt := []
  /-- AU_CTL.mirror_en; Table 2.11; from image -/
  mirrorEn : Bool := false
  /-- AU_CTL.mirror_active; Table 2.11; 0 -/
  mirrorActive : Bool := false
  /-- catch-up entries the twin has not acknowledged, requester and tag; R61; none -/
  catchup : List (Nat × Nat) := []
  /-- mirroring never inactive since the last resynchronisation, but for completed catch-ups; R61; 0 -/
  mirrorSound : Bool := false
  /-- the twin has outlived a loss of the twin link, and no catch-up has been completed since (R61); the model's own; 0 -/
  mirrorGap : Bool := false
  /-- AU_MIRROR_RTT, ns; Table 2.10; 0 -/
  mirrorRtt : Nat := 0
  /-- requesters with a covered request that ended with a status other than OK since their partition became ACTIVE; R66, R68; none -/
  lost : List Nat := []
  /-- start of a step 4 round trip per request; Table 2.10; none -/
  mirrorAt : List (Nat × Nat) := []
  /-- GLB_LOAD_DEV: level, vat_pct, whey_pct, throttle; Table 2.12; 0 -/
  loadLevel : Nat := 0
  loadVatPct : Nat := 0
  loadWheyPct : Nat := 0
  loadThrottle : Bool := false
  /-- a window has completed since the last cold, warm or fabric reset; R72; 0 -/
  loadDone : Bool := false
  /-- running peaks of the window in progress: level, Vat percent, Whey percent, throttle; R72; 0 -/
  winLevel : Nat := 0
  winVat : Nat := 0
  winWhey : Nat := 0
  winThrottle : Bool := false
  /-- the window in progress: FT div 64,000 ns at its beginning; R72; 0 -/
  winIx : Nat := 0
  /-- tray ports reported as suspect; R39; none -/
  suspect : List Nat := []
  /-- BAD_KEY answers per partition in the window in progress; R455; none -/
  badKeyWin : List (Nat × Nat) := []
  /-- start of the BAD_KEY window, ns; R455; 0 -/
  badKeyAt : Nat := 0
  /-- calvings that answers of this step have triggered, cause and partition (the model's own); none -/
  calveDue : List (Nat × Nat) := []
  /-- per stripe (false even, true odd), FT of the last write-class access executed; R431; 0 -/
  lastWrite : List (Bool × Nat) := []
  deriving DecidableEq, Repr

/-! ## Stacks, Firn, flash -/

/-- What a stack line belongs to, which chooses its key (Table 15.4). -/
inductive StackRegion where
  /-- a Firn block of an owner partition -/
  | firn (owner : Nat)
  /-- engine spill, a side list, or scratch, of a partition -/
  | spill (part : Nat)
  | whey
  | control
  deriving DecidableEq, Repr

/-- A sector in the stacks as the AES engines keep it: ciphertext and one MAC for each line of it (R456). -/
structure StackSec where
  ct : Bytes
  macs : List Nat
  deriving DecidableEq, Repr

/-- A Firn block (R83, 64 KiB of plane-local offset). -/
structure FirnBlock where
  set : Nat
  /-- way of the set, 0 to 15 (R83) -/
  way : Nat := 0
  range : Nat
  odd : Bool
  gen : Nat
  block : Nat
  owner : Nat
  /-- valid sectors and their 4 KiB, encrypted under the owner's stack key (R456) -/
  secs : List (Nat × StackSec) := []
  pinned : Bool := false
  /-- allocation order: the smallest is the oldest -/
  age : Nat
  deriving DecidableEq, Repr

/-- A sector fill in progress (R85). -/
structure Fill where
  fid : Nat
  range : Nat
  odd : Bool
  gen : Nat
  /-- plane-local offset of the sector -/
  loc : Nat
  owner : Nat
  alloc : Bool
  pin : Bool
  /-- pieces still missing, then the bytes -/
  left : Nat
  data : List (Nat × Bytes) := []
  /-- MAC bytes of a sealed sector by offset, when the range is sealed (R463) -/
  macs : List (Nat × Bytes) := []
  failed : Option Status := none
  /-- pieces that failed: offset, bytes, of a MAC line, status (R86, R17) -/
  fails : List (Nat × Nat × Bool × Status) := []
  waiters : List Nat := []
  /-- a tray access of it has been sent: those that wait for it are in execution (R39) -/
  sent : Bool := false
  deriving DecidableEq, Repr

/-- A pin in progress or in force (R90). -/
structure Pin where
  range : Nat
  sess : Nat
  odd : Bool := false
  /-- plane-local offset of the next sector to fill, and the end of the stripe -/
  next : Nat := 0
  stop : Nat := 0
  /-- the fill in progress -/
  fid : Option Nat := none
  unpinned : Nat := 0
  done : Bool := false
  deriving DecidableEq, Repr

/-- The stacks and Firn (chapter 3). -/
structure Hbm where
  /-- HBM_CHAN_FAIL_LO/HI: channels out of service, 128 bits; Table 3.7; 0 -/
  chanFail : List Nat := []
  /-- Firn directory and data; R83; empty -/
  blocks : List FirnBlock := []
  /-- allocation clock for ages; R88; 0 -/
  clock : Nat := 0
  /-- miss table, at most 4,096 fills; R85; empty -/
  fills : List Fill := []
  /-- Firn generation of each range, 8 bits; R92; 0 -/
  gens : List (Nat × Nat) := []
  /-- ranges whose generation-wrap clear is running; R93; none -/
  sweeps : List Nat := []
  /-- pins; R90; none -/
  pins : List Pin := []
  /-- stacks reported as failed; R82; 0 -/
  failed : Bool := false
  /-- uncorrectable errors and MAC failures of the last second: channel and time, ns; R81, R457; none -/
  chanErrs : List (Nat × Nat) := []
  /-- stacks in self-refresh; Table 17.4; 0 -/
  selfRefresh : Bool := false
  deriving DecidableEq, Repr

/-- A relocation (Table 3.6): step 1 requested, 2 copying, 3 copied, 4 flipped, 5 erasing, 6 a program has failed (R105). -/
structure Reloc where
  port : Nat
  old : Nat
  lblock : Nat
  new : Nat := 0
  step : Nat := 1
  odd : Bool
  /-- range and group, for R104 and R106 -/
  range : Nat
  grp : Nat
  flipAt : Nat := 0
  /-- sectors copied -/
  pos : Nat := 0
  /-- old block's reads are diverted (R103) -/
  diverted : Bool := false
  deriving DecidableEq, Repr

/-- A stripe rebuild in progress (R98). -/
structure Rebuild where
  reb : Nat
  range : Nat
  /-- the range's entry and Firn generation when the read was dispatched (R32) -/
  entry : RangeEntry := {}
  gen : Nat := 0
  cols : List MapEnt := []
  odd : Bool
  grp : Nat
  u : Nat
  sector : Nat
  col : Nat
  /-- correct copies by column -/
  got : List (Nat × Bytes) := []
  bad : List Nat := []
  /-- the access the rebuilt sector answers; none for the other sectors of the unit -/
  acc : Option Acc
  /-- when the uncorrectable read came back, ns -/
  since : Nat := 0
  deriving DecidableEq, Repr

/-- A dataset load (R109). -/
structure DsLoad where
  target : Nat
  source : Nat
  sess : Nat
  /-- new map entries by port and logical block -/
  newMap : List (Nat × Nat × MapEnt) := []
  oldBlocks : List (Nat × Nat) := []
  odd : Bool := false
  /-- rows of the stripe, the row in hand, its data by offset, and reads or programs of it still out -/
  rows : Nat := 0
  row : Nat := 0
  buf : List (Nat × Bytes) := []
  left : Nat := 0
  /-- 0 between rows, 1 reading, 2 programming, 3 ready to flip -/
  stage : Nat := 0
  failed : Bool := false
  flipAt : Option Nat := none
  deriving DecidableEq, Repr

/-- A flash event (Table 3.9). -/
structure FtlEvent where
  kind : Nat
  member : Nat
  range : Nat
  odd : Bool
  unit : Nat
  deriving DecidableEq, Repr

/-- The flash translation layer (chapter 3). -/
structure Ftl where
  /-- map entries by port, role and logical block; Table 3.4; none -/
  map : List ((Nat × Bool × Nat) × MapEnt) := []
  /-- read counter of each physical block (port, block number), 32 bits, saturating; R100; 0 -/
  reads : List ((Nat × Nat) × Nat) := []
  /-- erase counter of each physical block; R107, R108; 0 -/
  erases : List ((Nat × Nat) × Nat) := []
  /-- blocks by port that are taken out of the pool: mapped, being written, or waiting to be erased; R107; none -/
  used : List (Nat × List Nat) := []
  /-- bad blocks by port; R94, R105; from geometry -/
  bad : List (Nat × List Nat) := []
  /-- relocations; R102; none -/
  relocs : List Reloc := []
  /-- rebuilds; R98; none -/
  rebuilds : List Rebuild := []
  /-- bad stripe rows: range, role, group, unit index; at most 4,096; R99; none -/
  badRows : List (Nat × Bool × Nat × Nat) := []
  /-- ranges answered POISON whole after the list is full; R99; none -/
  badRanges : List Nat := []
  /-- dataset loads; R109; none -/
  loads : List DsLoad := []
  /-- flash event queue, oldest first, at most 64; R116; empty -/
  events : List FtlEvent := []
  /-- the twin's copy of this role's counters was sent at, ns; R108; 0 -/
  syncAt : Nat := 0
  /-- the copy of the counters that the twin was last sent: port, block, reads, erases; R108; none -/
  synced : List (Nat × Nat × Nat × Nat) := []
  deriving DecidableEq, Repr

/-! ## Vat, traffic control -/

/-- The Vat and its pools (chapter 4). -/
structure Vat where
  /-- VAT_USE_SHR, cells, 20 bits; Table 4.5; 0 -/
  shr : Nat := 0
  /-- VAT_USE_RSP, quanta, 21 bits; Table 4.5; 0 -/
  rsp : Nat := 0
  /-- VAT_USE_SCH; Table 4.5; 0 -/
  sch : Nat := 0
  /-- VAT_USE_ENG; Table 4.5; 0 -/
  eng : Nat := 0
  /-- VAT_USE_CTL; Table 4.5; 0 -/
  ctl : Nat := 0
  /-- VAT_DESC_USED, at most 1,048,576; R138; 0 -/
  desc : Nat := 0
  /-- VAT_BANK_FAIL: banks out of service; R129; none -/
  bankFail : List Nat := []
  /-- Vat reported as failed; R130; 0 -/
  failed : Bool := false
  /-- stored multicast units; R141; none -/
  mcs : List McUnit := []
  deriving DecidableEq, Repr

/-- A policer's live state, milli-bytes (R158). -/
structure Pol where
  tc : Int := 0
  tp : Int := 0
  last : Nat := 0
  deriving DecidableEq, Repr

/-- A shaper's live credit, milli-bytes (R166). -/
structure Shp where
  credit : Int := 0
  deriving DecidableEq, Repr

/-- Traffic control (chapter 5). -/
structure Tmc where
  /-- TMC_IND_SEL.index, 13 bits; Table 5.6; 0 -/
  selIndex : Nat := 0
  /-- TMC_IND_SEL.table, 2 bits; Table 5.6; 0 -/
  selTable : Nat := 0
  /-- TMC_IND_SEL.error; Table 5.6; 0 -/
  selError : Bool := false
  /-- TMC_IND_D0, D1, D2; Table 5.5; 0 -/
  d0 : Word64 := 0
  d1 : Word64 := 0
  d2 : Word64 := 0
  /-- policer tokens; R158, R164; full buckets when the partition becomes ACTIVE -/
  pols : List (Nat × Pol) := []
  /-- shaper credits; R166; 0 -/
  shps : List (Nat × Shp) := []
  /-- policers, shapers, requester limits with their sub, and partition limits as Paste has written them beside the image; R399, R170; none -/
  livePol : List (Nat × PolicerRec) := []
  liveShp : List (Nat × ShaperRec) := []
  liveReq : List (Nat × Nat × Nat) := []
  livePart : List (Nat × Nat) := []
  deriving DecidableEq, Repr

/-! ## Fabric time and the scheduled plane -/

/-- Lock states (Table 6.3). -/
inductive FtState where
  | free | acquiring | locked | holdover
  deriving DecidableEq, Repr

/-- A plane-sourced stream (R199). -/
structure Stream where
  schedId : Nat
  startFrame : Nat
  /-- next unit to read -/
  next : Nat := 0
  stopping : Bool := false
  flow : FlowRec
  /-- last send slot a unit has been read for -/
  lastSlot : Option Nat := none
  deriving DecidableEq, Repr

/-- A unit of a plane-sourced stream that is being read (R199): its SCH cells are reserved. -/
structure StrmUnit where
  schedId : Nat
  slot : Nat
  cells : Nat
  dest : Nat
  part : Nat
  /-- parts that have come back, and how many are out -/
  buf : List (Nat × Bytes) := []
  left : Nat
  poison : Bool := false
  deriving DecidableEq, Repr

/-- FTM_DEMOTE_LOG (Table 6.11). -/
structure DemoteLog where
  valid : Bool := false
  reason : Nat := 0
  port : Nat := 0
  schedId : Nat := 0
  slot : Nat := 0
  rid : Nat := 0
  deriving DecidableEq, Repr

/-- Fabric time and schedules (chapter 6). -/
structure Ftm where
  /-- FT in ns with 40 fractional bits, 64 + 40 bits; R178, R179; 0 -/
  ftFix : Nat := 0
  /-- FTM_INCR: ns with 40 fractional bits; R179; nominal 1.6 ns -/
  incr : Nat := 1759218604442
  /-- phase of TCLK against the 1 ns counter, eighths; R179; DESIGN CHOICE 0 -/
  tclk : Nat := 0
  /-- FTM_STATUS.state, 3 bits; Table 6.9; FREE -/
  state : FtState := .free
  /-- FTM_STATUS.qualified; Table 6.9; 0 -/
  qualified : Bool := false
  /-- FTM_STATUS.sched_active; Table 6.9; 0 -/
  schedActive : Bool := false
  /-- first frame boundary at which the unit was LOCKED without interruption since; R188; 0 -/
  lockedFrom : Nat := 0
  /-- consecutive servo updates within 10 ns; Table 6.3; 0 -/
  good : Nat := 0
  /-- FTM_OFFSET, ns, signed; Table 6.7; 0 -/
  offset : Int := 0
  /-- time the source was lost, ns; R186; 0 -/
  lostAt : Nat := 0
  /-- FTM_CTL source, ref_port, ptp_domain, step_thr_ns; Table 6.8; from image -/
  source : Nat := 0
  refPort : Nat := 0
  ptpDomain : Nat := 0
  stepThr : Nat := 1000
  /-- FTM_PPS_CFG, 64 bits; Table 6.7; from image -/
  ppsEn : Bool := false
  ppsWidthUs : Nat := 0
  ppsDelayNs : Nat := 0
  /-- PPS_OUT level and its rise, FT ns; R189; 0 -/
  ppsOut : Bool := false
  ppsRise : Nat := 0
  /-- time of the last PPS edge, ns; Table 6.2; none -/
  ppsAt : Option Nat := none
  /-- time of the last Sync message of each management port, ns, and its path delay, ns; Table 6.2, R183; none, 0 -/
  syncAt : List (Nat × Nat) := []
  ptpDelay : List (Nat × Int) := []
  /-- seconds set for the next PPS edge; R182; none -/
  setSecs : Option Nat := none
  /-- FTM_SCHED active_bank, staged_valid, arm, late, act_frame; Table 6.10; 0 -/
  activeBank : Bool := false
  stagedValid : Bool := false
  arm : Bool := false
  late : Bool := false
  actFrame : Nat := 0
  /-- FTM_ACT_FRAME; Table 6.7; 0 -/
  actBegan : Nat := 0
  /-- the two banks; R196; empty -/
  active : SchedBank := {}
  staged : SchedBank := {}
  /-- w.sent of the open windows; R193; 0 -/
  sent : List (Nat × Nat) := []
  /-- plane-sourced streams; R199; none -/
  streams : List Stream := []
  /-- units of theirs being read; R199; none -/
  units : List StrmUnit := []
  /-- FTM_DEMOTE_LOG; Table 6.11; 0 -/
  demote : DemoteLog := {}
  deriving DecidableEq, Repr

/-! ## Engines -/

/-- A status line (Table 7.7); state 0 EMPTY, 1 RUNNING, 2 DONE, 3 DOWN. -/
structure SlotLine where
  state : Nat := 0
  record : BitVec 128 := 0
  result16 : BitVec 128 := 0
  cmplLost : Bool := false
  cookie : Nat := 0
  seq : Nat := 0
  refuseStatus : Status := .ok
  refuseCookie : Nat := 0
  deriving DecidableEq, Repr

/-- Contexts held: engine kind (0 RDU, 1 GTU, 2 FLU, 3 CTU), unit, number. -/
structure CtxHold where
  kind : Nat
  unit : Nat
  n : Nat
  deriving DecidableEq, Repr

/-- One access an engine op still has to issue (R222): fabric address, key, bytes, and what it does. -/
structure EngAcc where
  addr : Nat
  key : Word32
  len : Nat
  write : Bool := false
  data : Bytes := []
  poison : Bool := false
  /-- rights it needs (R23) -/
  need : Rights
  deriving DecidableEq, Repr

/-- An engine access, or a line of a write, that is outstanding: the request made for it, its place, the ENG cells held for its data. -/
structure EngOut where
  req : Nat
  /-- the access it is part of (R222) -/
  acc : Nat := 0
  addr : Nat
  len : Nat
  write : Bool
  cells : Nat := 0
  deriving DecidableEq, Repr

/-- How a flit ended (Table 7.6). -/
structure FlitEnd where
  status : Status
  detail : Nat := 0
  lo : Nat := 0
  hi : Nat := 0
  r16 : BitVec 128 := 0
  deriving DecidableEq, Repr

/-- An open sequence (R333). -/
structure Seq where
  unit : Nat
  part : Nat
  sid : Nat
  head : Nat
  hkv : Nat
  g : Nat
  kvFmt : Nat
  handle : Nat
  nEntries : Nat
  key0 : Word32
  key1 : Word32
  scale : BitVec 32
  openSlot : Nat
  attends : Nat := 0
  tokens : Nat := 0
  closing : Option Nat := none
  faulted : Bool := false
  deriving DecidableEq, Repr

/-- An accepted operation flit (R217 onward). -/
structure Flit where
  part : Nat
  slot : Nat
  rid : Nat
  port : Nat
  word : BitVec 512
  accAt : Nat
  /-- order of acceptance on this plane, for fence_before -/
  order : Nat
  /-- waits under fence_before (R215) -/
  waiting : Bool := false
  ctxs : List CtxHold := []
  /-- transient granules held (R221) -/
  granules : Nat := 0
  /-- bytes read so far: address of each piece, its bytes, poisoned or not -/
  cache : List (Nat × Bytes × Bool) := []
  /-- accesses not yet issued -/
  todo : List EngAcc := []
  /-- accesses issued -/
  out : List EngOut := []
  /-- set once the op has computed its end; the record follows when `todo` and `out` are empty -/
  fin : Option FlitEnd := none
  /-- the completion record's own write is out (R227) -/
  recordOut : Bool := false
  /-- op-private numbers; the first two are the result words an early end reports -/
  regs : List Nat := [0, 0]
  /-- 1: coloured red and waiting for the policer (R224); 2: waited, and may issue -/
  pol : Nat := 0
  /-- an access failed: status and detail -/
  failed : Option (Status × Nat) := none
  /-- resident handles the flit names (R226) -/
  names : List Nat := []
  /-- when a PROXY op started (R232), and the first request number not yet given then (R538) -/
  startAt : Nat := 0
  startId : Nat := 0
  /-- the completion record once it has been made (R227) -/
  record : Option Nat := none
  /-- the descriptor block has passed its checks (R281) -/
  chk : Bool := false
  /-- a SCATTER_ADD whose acceptance still waits for its descriptor block, which says how much scratch it needs (R217, R221) -/
  prov : Bool := false
  /-- the op has begun to run -/
  begun : Bool := false
  /-- accesses that write its output, once they wait to go -/
  planned : Nat := 0
  /-- the sequence of an ATTEND whose records are ready to be sent -/
  shown : Option Seq := none
  /-- the OP_FLIT whose answer waits for the op's first effect (R258, R333) -/
  answer : Option Nat := none
  deriving DecidableEq, Repr

/-- A resident scratch handle (R226): its granules, the bytes written (others zero), a poison mark (Table 14.2). -/
structure Handle where
  granules : Nat
  mem : List Host.Cell := []
  /-- after it held a filter or page entries its bytes are not stated, but for areas (offset, length) written since; the index of the free values -/
  junk : Option Nat := none
  written : List (Nat × Nat) := []
  poisoned : Bool := false
  /-- an SCR_FREE waits for it, slot -/
  freeing : Option Nat := none
  /-- bound to a collection's filter or to a sequence (R301, R333) -/
  boundColl : Option Nat := none
  boundSeq : Option Nat := none
  deriving DecidableEq, Repr

/-- A chunk slot of an armed group (R259). -/
structure ChunkSlot where
  open_ : Bool := false
  seq : Nat := 0
  /-- last sequence number ended here, -1 for none -/
  lastSeq : Int := -1
  /-- contributions by member port -/
  got : List (Nat × Bytes) := []
  poison : Bool := false
  detail : Nat := 0
  openedAt : Nat := 0
  /-- complete; its result waits for cells (R265) -/
  done : Bool := false
  /-- order of completion (R263) -/
  doneIx : Nat := 0
  deriving DecidableEq, Repr

/-- States of a reduction group (Table 8.17). -/
inductive GrpState where
  | idle | armed | draining | faulted
  deriving DecidableEq, Repr

/-- An armed reduction group (R258). -/
structure Group where
  state : GrpState := .idle
  part : Nat := 0
  members : List Nat := []
  tmpl : RGroupRec := {}
  word : BitVec 512 := 0
  window : Nat := 1
  seqBase : Nat := 0
  slots : List (Nat × ChunkSlot) := []
  armSlot : Nat := 0
  disarmSlot : Option Nat := none
  okCnt : Nat := 0
  poisonCnt : Nat := 0
  /-- status and detail of the ARM record, once the group ends early; it follows the last result (Table 8.7) -/
  endAs : Option (Status × Nat) := none
  deriving DecidableEq, Repr

/-- RDU_DISC_LOG (Table 8.18). -/
structure DiscLog where
  valid : Bool := false
  reason : Nat := 0
  port : Nat := 0
  group : Nat := 0
  seq : Nat := 0
  deriving DecidableEq, Repr

/-- A side-list entry (Table 10.7). -/
structure SideEnt where
  seq : Nat
  del : Bool
  id : Word64
  code : Bytes
  attr : Bytes
  deriving DecidableEq, Repr

/-- A collection defined on this plane (R301); state 1 DEFINED, 2 DROPPING. -/
structure Coll where
  state : Nat := 1
  part : Nat
  wc : Nat
  a8 : Nat
  filter : Nat
  main : Nat
  mainKey : Word32
  nPages : Nat
  capacity : Nat
  side : List SideEnt := []
  /-- last sequence number reserved, and published (R309, R310) -/
  reserved : Nat := 0
  published : Nat := 0
  gen : Nat := 0
  cut : Nat := 0
  lostSide : Bool := false
  /-- slot and acceptance order of a running COMPACT or COLL_REBASE (R314) -/
  compacting : Option (Nat × Nat) := none
  /-- flipped: entries up to this sequence are freed once these SCANs, by acceptance order, have ended (R316) -/
  flipped : Option (Nat × List Nat) := none
  /-- slot and acceptance order of the COLL_DROP (R302) -/
  dropped : Option (Nat × Nat) := none
  deriving DecidableEq, Repr

/-- Engine submission, contexts and scratch (chapter 7), and the engines' own state (chapters 8 to 11). -/
structure Eng where
  /-- aperture key of each partition; R213; none -/
  apKeys : List (Nat × Word32) := []
  /-- status lines by partition and slot; Table 7.7; EMPTY, all zero -/
  lines : List ((Nat × Nat) × SlotLine) := []
  /-- flits accepted and not ended; R217; none -/
  flits : List Flit := []
  /-- acceptance order; R215; 0 -/
  order : Nat := 0
  /-- resident handles by partition and number; R226; none -/
  handles : List ((Nat × Nat) × Handle) := []
  /-- granules freed and not yet zeroed; R226; 0 -/
  zeroing : Nat := 0
  /-- GLB_SCR_FREE: free granules counted, 12 bits; Table 7.13; 2,560 -/
  scrFree : Nat := 2560
  /-- units mapped out (RDU_UNIT_OUT, GTU_UNIT_OUT, FLU_UNIT_OUT, CTU_UNIT_OUT); R225; none -/
  unitsOut : List UnitId := []
  /-- units given to one partition alone, by engine kind and number; R220; none -/
  unitOwn : List ((Nat × Nat) × Nat) := []
  /-- GLB_OPF_SEL; Table 7.13; 0 -/
  opfSel : Nat := 0
  /-- armed groups by template index; R258; IDLE -/
  groups : List (Nat × Group) := []
  /-- RDU_GRP_SEL; Table 8.16; 0 -/
  grpSel : Nat := 0
  /-- RDU_DISC_LOG; Table 8.18; 0 -/
  disc : DiscLog := {}
  /-- collections by index; R301; FREE -/
  colls : List (Nat × Coll) := []
  /-- FLU_COLL_SEL; Table 10.13; 0 -/
  collSel : Nat := 0
  /-- open sequences by slot unit x 16 + slot; R325; FREE -/
  seqs : List (Nat × Seq) := []
  /-- CTU_SEQ_SEL; Table 11.8; 0 -/
  seqSel : Nat := 0
  /-- ACLK gated (Hold, Idle-low, Park): no context issues; Table 17.4; 0 -/
  aclkGated : Bool := false
  deriving DecidableEq, Repr

/-! ## Ethernet and gateway -/

/-- States of a gateway block (R382). -/
inductive GwState where
  | absent | fetching | clean | dirty | pushing | failed
  deriving DecidableEq, Repr

/-- A gateway block in transit or held (R382, R385). -/
structure GwBlock where
  state : GwState := .absent
  /-- pieces acknowledged or received -/
  pieces : List Nat := []
  /-- sends of each piece, and the time of its last one, ns -/
  sends : List (Nat × Nat) := []
  sentAt : List (Nat × Nat) := []
  deriving DecidableEq, Repr

/-- Layer-2 bridging and the gateway (chapter 12). -/
structure Eth where
  /-- learned addresses (VID, MAC): port and time learned; R380; empty -/
  macs : List ((Nat × Nat) × (Nat × Nat)) := []
  /-- blocks by window and number; R382; ABSENT -/
  blocks : List ((Nat × Nat) × GwBlock) := []
  /-- exported pulls and pushes in progress: request, header; R386; none -/
  exports : List (Nat × GwHdr) := []
  /-- next gateway sequence number; R385; 0 -/
  seq : Nat := 0
  /-- frames of the link aggregation and time protocols handed to Paste, with their uplink, newest first; R381, Table 4.3; none -/
  toPaste : List (Nat × Bytes) := []
  deriving DecidableEq, Repr

/-! ## Faults, twins, taps -/

/-- A fault event (Table 14.3). -/
structure FaultEv where
  kind : Nat
  unitKind : Nat
  unit : Nat
  op : Nat := 0
  part : Nat := 0
  tempQ : Nat := 0
  tempMaxQ : Nat := 0
  vddMv : Nat := 0
  throttled : Bool := false
  ctxBusy : Nat := 0
  issuePct : Nat := 0
  ft : Nat := 0
  deriving DecidableEq, Repr

/-- Faults and calving (chapter 14). -/
structure Flt where
  /-- fault event queue, oldest first, at most 256; R417; empty -/
  events : List FaultEv := []
  /-- GLB_FAULT_EVENT0-3 as latched by the last read of EVENT0; R417; 0 -/
  latched : Option FaultEv := none
  /-- words of GLB_FAULT_EVENT1-3 that reads have cleared since the latch; R7, Table 14.11; none -/
  cleared : List Nat := []
  /-- GLB_CALVE_LOG: cause, partition, FT at the trigger; Table 14.12; 0 -/
  calveLog : Option (Nat × Nat × Nat) := none
  /-- residue mismatches of each unit, times in ns; R415; none -/
  residues : List (UnitId × List Nat) := []
  /-- GLB_AU_LANES_OUT, 4 bits; Table 14.11; 0 -/
  lanesOut : List Nat := []
  /-- UCIe modules that have failed, by their octet's package number, until a cold reset; R355; none -/
  modulesOut : List Nat := []
  /-- table memory of a device record is lost: no partial segment until a fabric reset; Table 14.2; 0 -/
  tableLost : Bool := false
  /-- residue mismatches and canary failures of each unit, totals of telemetry; Table 16.6; 0 -/
  unitTot : List (UnitId × Nat × Nat) := []
  /-- the hottest die sensor has crossed a multiple of 5 C since the last canary set run; R414; 0 -/
  canaryDue : Bool := false
  /-- events that met a full queue; R417; 0 -/
  unqueued : Nat := 0
  deriving DecidableEq, Repr

/-- TWN_STATE.state (Table 14.13). -/
inductive TwnState where
  | none | paired | alone | adopting | adopted | resyncSrc | resyncDst | lost
  deriving DecidableEq, Repr

/-- The twin mirror unit (chapter 14). -/
structure Twn where
  /-- TWN_STATE.state, 3 bits; Table 14.13; NONE -/
  state : TwnState := .none
  /-- TWN_STATE.resync_pct; Table 14.13; 0 -/
  resyncPct : Nat := 0
  /-- this plane serves its own stripe; R13, R504; 0 until it takes it -/
  servesOwn : Bool := false
  /-- this plane serves its twin's stripe (twin_adopted); Table 1.9; 0 -/
  servesTwin : Bool := false
  /-- step S5 has begun: the survivor no longer admits the returning stripe's requests; R433; 0 -/
  yielding : Bool := false
  /-- GLB_DOMAIN.adoption_pending; Table 1.9; 0 -/
  adoptPending : Bool := false
  /-- start of the adoption, ns; R429; 0 -/
  adoptAt : Nat := 0
  /-- the twin's mirroring was sound when its FAILING notice came; R61; 0 -/
  adoptSound : Bool := false
  /-- epoch of the own stripe and the adoption epoch (TWN_EPOCH); R430; 0 -/
  epoch : Nat := 0
  adoptEpoch : Nat := 0
  /-- FT at which each was first served; R431; 0 -/
  ownFirst : Nat := 0
  adoptFirst : Nat := 0
  /-- highest epoch known of the pair's record; R430; 0 -/
  maxEpoch : Nat := 0
  /-- stripes under an invariant failure (false even, true odd); R432; none -/
  invalid : List Bool := []
  /-- TWN_INV_LOG: stripe and the two epochs; Table 14.11; 0 -/
  invLog : Option (Bool × Nat × Nat) := none
  /-- the twin's claims last received; R431; none -/
  peer : List Claim := []
  /-- the twin holds a claim: it is in service; R504; unknown -/
  twinInService : Option Bool := none
  /-- last unit sent on the twin link, ns; R427; 0 -/
  sentAt : Nat := 0
  /-- S2 has passed; R433; 0 -/
  s2ok : Bool := false
  /-- resynchronisation has stopped at S2, and this plane answers RETRY_LATER until S5 completes; R433; 0 -/
  returning : Bool := false
  /-- pair key, held from twin-link training until the link goes down; Table 15.3, R454; none -/
  pairKey : Option (BitVec 256) := none
  /-- counter of the next TWIN unit sealed under the pair key; R454; 0 -/
  msgCtr : Nat := 0
  /-- counter above the last one taken from the twin; R454; 0 -/
  rxCtr : Nat := 0
  deriving DecidableEq, Repr

/-- A log tap (Table 14.8, R438). -/
structure Tap where
  en : Bool := false
  cls : Nat := 0
  req : Bool := false
  stream : Bool := false
  msg : Bool := false
  error : Bool := false
  sizeLog2 : Nat := 0
  ring : Nat := 0
  key : Word32 := 0
  /-- control page of R438: next_seq, offset of the next record, wraps, dropped -/
  nextSeq : Nat := 0
  off : Nat := 4096
  wraps : Nat := 0
  dropped : Nat := 0
  /-- length of the run of drops before the next record -/
  gap : Nat := 0
  /-- records since the page was last written, and when -/
  since : Nat := 0
  pageAt : Nat := 0
  /-- GLB_TAP_GAPS -/
  gaps : Nat := 0
  deriving DecidableEq, Repr

/-! ## Images, Rind, Paste -/

/-- A segment being applied or waiting (R405, R407); phase 0 waiting, 1 validating, 2 phase 1, 3 phase 2 done. -/
structure Seg where
  img : Image
  phase : Nat := 0
  sess : Nat := 0
  /-- requests checked under the old view (R33) -/
  drain : List Nat := []
  /-- accesses whose answer the reactivation waits for (R424) -/
  oldAccs : List Nat := []
  /-- drain markers sent behind them, with the accesses each stands for (R424) -/
  marks : List (Nat × List Nat) := []
  /-- the twin has finished phase 2 (R406) -/
  twinDone : Bool := false
  /-- a partition it names has been calved before phase 2 (R408) -/
  calved : Bool := false
  deriving DecidableEq, Repr

/-- A key rotation whose drain runs (R33). -/
structure Rotation where
  range : Nat
  sess : Nat
  key : Word32
  drain : List Nat
  /-- the twin made it: this plane writes it too, and acknowledges it once its own requests are answered (R33, R35) -/
  peer : Bool := false
  /-- the twin has written the key and answered what it checked under the old one (R33, R35) -/
  twinOk : Bool := false
  deriving DecidableEq, Repr

/-- An upload in progress: IMAGE_PUT or FW_STAGE (R481, R482). -/
structure Upload where
  sess : Nat
  /-- 0 IMAGE_PUT, 1 FW_STAGE -/
  what : Nat
  /-- target of IMAGE_PUT, or 0 Rind, 1 Paste -/
  target : Nat
  total : Nat
  bytes : Bytes := []
  deriving DecidableEq, Repr

/-- SEC_IMG_RESULT (Table 13.14). -/
structure ImgResult where
  valid : Bool := false
  partialSeg : Bool := false
  cls : Nat := 0
  type : Nat := 0
  record : Nat := 0
  deriving DecidableEq, Repr

/-- A firmware slot (Table 16.7): its bytes, security version, signer (true: an owner key). -/
structure FwSlot where
  bytes : Bytes := []
  svn : Nat := 0
  owner : Bool := false
  valid : Bool := false
  deriving DecidableEq, Repr

/-- The non-volatile store: OTP and boot flash (R451, R488). Values at reset are those of a part as shipped. -/
structure Nv where
  /-- OTP ownership generation, 0-4,095; R451; DESIGN CHOICE 0 -/
  ownGen : Nat := 0
  /-- the generation recorded in the key store of the boot flash; R451; that of OTP -/
  storeGen : Nat := 0
  /-- OTP security-version floor of Rind; R443; DESIGN CHOICE 0 -/
  rindFloor : Nat := 0
  /-- floors of the Paste signers: Aeddun, owner; R445; DESIGN CHOICE 0 -/
  pasteFloor : Nat := 0
  pasteFloorOwner : Nat := 0
  /-- OTP count of cold resets in which a unit was mapped out, and fused-off units; R415; none -/
  mapOuts : List (UnitId × Nat) := []
  fusedOff : List UnitId := []
  /-- OWNED; R446; 0 (ships UNOWNED) -/
  owned : Bool := false
  /-- owner keys by key_id, 1-4 when OWNED; R448; none -/
  ownerKeys : List (Nat × Bytes) := []
  /-- management CA and revocation list; R446, R467; none -/
  mgmtCa : Bytes := []
  crl : List Nat := []
  /-- domain seal secret; R460; none -/
  sealSecret : Option (BitVec 256) := none
  /-- seal nonces by partition; R459; none -/
  nonces : List (Nat × BitVec 128) := []
  /-- highest serial applied; R392; 0 -/
  serialFloor : Nat := 0
  /-- boot image record: serial and digest; R503; none -/
  bootImage : Option (Nat × Bytes) := none
  /-- stored image slots A and B; Table 16.7; empty -/
  imgA : Bytes := []
  imgB : Bytes := []
  /-- firmware slots: Rind A, B, Paste A, B; Table 16.7; DESIGN CHOICE the A slots hold the shipped firmware, B empty -/
  rindA : FwSlot := { valid := true }
  rindB : FwSlot := {}
  pasteA : FwSlot := { valid := true }
  pasteB : FwSlot := {}
  /-- boot record: active slots (true B), trial, staged, boot attempts, booted flag; R488, R491; DESIGN CHOICE slot A, not TRIAL -/
  rindSlotB : Bool := false
  pasteSlotB : Bool := false
  rindTrial : Bool := false
  pasteTrial : Bool := false
  rindStaged : Bool := false
  pasteStaged : Bool := false
  rindBoots : Nat := 0
  rindBooted : Bool := true
  /-- event log ring, newest first; R488; empty -/
  log : List (Nat × Nat) := []
  deriving DecidableEq, Repr

/-- A Rind (SPDM) session (R467). -/
structure RindSess where
  sess : Nat
  /-- FINISH done -/
  ready : Bool := false
  claim : Bool := false
  cert : Nat := 0
  /-- serial numbers of the other certificates of its chain (R466) -/
  issuers : List Nat := []
  nonce : Option (BitVec 256) := none
  deriving DecidableEq, Repr

/-- Rind's volatile state (chapters 13 and 15). -/
structure Sec where
  /-- SEC_IMG_SERIAL; Table 13.12; 0 -/
  imgSerial : Nat := 0
  /-- SEC_IMG_BASE; Table 13.12; 0 -/
  imgBase : Nat := 0
  /-- SEC_IMG_DIGEST0-5, 48 bytes; Table 13.12; 0 -/
  imgDigest : Bytes := []
  /-- a full image has been applied since the last cold reset: fields with S access keep their values (R398); the model's own; 0 -/
  sLoaded : Bool := false
  /-- SEC_IMG_STATE.loaded, partials; Table 13.13; 0 -/
  loaded : Bool := false
  partials : Nat := 0
  /-- serials of the segments applied since the full image; R433; none -/
  segSerials : List Nat := []
  /-- SEC_IMG_RESULT; Table 13.14; 0 -/
  result : ImgResult := {}
  /-- segments, the first being applied, at most four waiting; R407; none -/
  segs : List Seg := []
  /-- the twin's validation results not yet used: serial, valid, digest; R406; none -/
  twinResults : List (Nat × Bool × Bytes) := []
  /-- key rotations draining; R33; none -/
  rots : List Rotation := []
  /-- keys revoked by calving, by range index; R402; none -/
  revoked : List Nat := []
  /-- GLB_TABLE_EPOCH, 64 bits; Table 1.8; 0 -/
  epoch : Word64 := 0
  /-- partition-table digest, the epoch it was computed at, table_pending; R471; none -/
  tblDigest : Bytes := []
  tblEpoch : Word64 := 0
  tblPending : Bool := false
  /-- SEC_BADKEY_ALERT0/1: alerted partitions; R455; none -/
  badkey : List Nat := []
  /-- stack key generation of each key slot in use (slot 2p, and 2p + 1 for sealing); R452, R453; none -/
  stackKeys : List (Nat × Nat) := []
  /-- transit and control key generations; Table 15.3; drawn at cold reset -/
  transitKey : Nat := 0
  controlKey : Nat := 0
  /-- Rind sessions, at most four; R467; none -/
  sessions : List RindSess := []
  /-- OWN_CLAIM strap at the last cold reset, from which SEC_OWN_STATE.claim_open reads; R446, Table 15.9; DESIGN CHOICE low -/
  strap : Bool := false
  /-- SEC_OWN_STATE.rind_svn, paste_svn, paste_owner; Table 15.9; from image -/
  rindSvn : Nat := 0
  pasteSvn : Nat := 0
  pasteOwner : Bool := false
  deriving DecidableEq, Repr

/-- Prosis statuses (Table 16.4). -/
inductive PStatus where
  | ok | unknown | badBody | notController | held | state | busy | denied | emergency | level | limit
  deriving DecidableEq, Repr

/-- Prosis events (R484). -/
inductive Ev where
  | fault (e : FaultEv)
  | flash (e : FtlEvent)
  | calved (cause : Nat) (parts : List Nat)
  | refused (serial : Nat) (partialSeg : Bool) (cls type record : Nat)
  | segDone (serial : Nat)
  | twin (what : Nat)
  | done (command : Nat) (st : PStatus) (value : Nat)
  | traySuspect (port : Nat)
  | trayDown (port : Nat) (parts : List Nat)
  | badkey (part : Nat)
  | noWindow (port dpa : Nat)
  | trainFail (port code : Nat)
  | badStripe (range : Nat) (odd : Bool) (grp unit : Nat)
  deriving DecidableEq, Repr

/-- What the management side sends: Prosis responses, events and samples (R478), SPDM and Rind answers, MCTP and PLDM answers, CXL.io answers. -/
inductive MgmtOut where
  | prosis (sess command : Nat) (st : PStatus) (body : List Nat)
  | event (sess seq : Nat) (e : Ev) (lost : Nat)
  | sample (sess subId epoch ft skipped : Nat) (body : List Nat)
  | rind (sess code : Nat) (ok : Bool) (body : Bytes)
  | rindErr (sess code err : Nat)
  /-- a key reported on a Rind session: a range's, or a partition's aperture key (R25, R213, R467) -/
  | rindKey (sess : Nat) (aperture : Bool) (index : Nat) (key : Word32)
  | spdm (sess code : Nat) (body : Bytes)
  | mctp (code : Nat) (body : Nat)
  | pldm (sensor value : Nat)
  | pldmSet (st : PStatus)
  | closed (sess : Nat)
  | cxlIo (port code value : Nat)
  /-- the instruction the TAP holds, and what IDCODE shifts out (R529) -/
  | tap (ir : Nat) (idcode : Option (BitVec 32))
  /-- both Rind slots have failed: reported by UART and I3C (R443) -/
  | noRind
  /-- what a read of a register returns, by the offset it was read at -/
  | reg (offset : Nat) (value : Word64)
  deriving DecidableEq, Repr

/-- A Prosis session (R466, R479). -/
structure Sess where
  sess : Nat
  helloOk : Bool := false
  levelRefused : Bool := false
  claim : Bool := false
  cert : Nat := 0
  /-- serial numbers of the other certificates of its chain (R466) -/
  issuers : List Nat := []
  /-- events put into its buffer (R484) -/
  told : Nat := 0
  /-- events dropped for it and not yet told (R484) -/
  lost : Nat := 0
  deriving DecidableEq, Repr

/-- A telemetry subscription (R485). -/
structure Sub where
  subId : Nat
  sess : Nat
  periodMs : Nat
  scope : Nat
  part : Nat
  groups : Nat
  skipped : Nat := 0
  deriving DecidableEq, Repr

/-- A background command (R482): its Prosis code, session, and the object it holds (0 range, 1 slot, 2 plane, 3 partition; number). -/
structure Bg where
  command : Nat
  sess : Nat
  obj : Nat
  num : Nat
  deriving DecidableEq, Repr

/-- Control states (Table 16.2). -/
inductive CtlState where
  | boot | held | run | draining | drained | parked
  deriving DecidableEq, Repr

/-- Paste and the management side (chapter 16). -/
structure Mgmt where
  /-- GLB_MGMT_STATE.state; Table 16.10; BOOT -/
  state : CtlState := .boot
  /-- GLB_MGMT_STATE.handshake_ok; Table 16.10; 0 -/
  handshake : Bool := false
  /-- GLB_MGMT_STATE.fm_level; Table 16.10; 0 -/
  fmLevel : Nat := 0
  /-- dev_level and min_minor of the running Paste; R479; 0x0104 and 0x02 -/
  devLevel : Nat := 0x0104
  minMinor : Nat := 0x02
  /-- a session has controlled since the last cold or warm reset: a later one needs take; R480; 0 -/
  hadController : Bool := false
  /-- controlling session; R480; none -/
  controller : Option Nat := none
  /-- open sessions, at most eight; R466; none -/
  sessions : List Sess := []
  /-- background commands; R482; none -/
  bgs : List Bg := []
  /-- uploads in progress; R482; none -/
  uploads : List Upload := []
  /-- next event sequence number; R484; 0 -/
  evSeq : Nat := 0
  /-- events held while no session can take them, oldest first, at most 4,096, and those dropped; R484; none -/
  held : List (Nat × Ev) := []
  heldLost : Nat := 0
  /-- subscriptions, at most 16; R485; none -/
  subs : List Sub := []
  nextSub : Nat := 0
  /-- Paste's running totals; R486; 0 -/
  totG : List (GCtr × Nat) := []
  totP : List ((Nat × PCtr) × Nat) := []
  /-- counter_epoch; R486; DESIGN CHOICE 0 -/
  ctrEpoch : Nat := 0
  /-- Paste is running; Table 15.7; 1 after boot -/
  pasteUp : Bool := true
  /-- GLB_CORES in_service, restarts, last_cause; Table 16.12; 0x3F, 0, 0 -/
  coresOut : List Nat := []
  restarts : Nat := 0
  lastCause : Nat := 0
  /-- restarts caused by each core, ns; R475; none -/
  coreRestarts : List (Nat × Nat) := []
  /-- last start of Paste, ns; R491; 0 -/
  pasteStartAt : Nat := 0
  /-- times of Paste restarts in TRIAL, ns; R491; none -/
  pasteStarts : List Nat := []
  /-- partition totals of telemetry: green, yellow, red bytes, flits completed, calvings, BAD_KEY answers; Table 16.6; 0 -/
  partTot : List ((Nat × Nat) × Nat) := []
  deriving DecidableEq, Repr

/-- Power, resets, sensors (chapters 17 and 18). -/
structure Pwr where
  /-- the package is powered and out of reset; R523; 1 after boot -/
  on : Bool := true
  /-- held in cold reset by a hardware trip or PWRGD low; R509, R523; 0 -/
  heldCold : Bool := false
  /-- held by a supply reset, a warm one, or with heldCold that of VDD_AON; R509; 0 -/
  heldWarm : Bool := false
  /-- no Rind image verifies: the part stays in reset; R443; 0 -/
  noRind : Bool := false
  /-- Rind image and security version that the CDI was computed from, none until the boot ROM has; R443; the shipped image's -/
  cdi : Option (Bytes × Nat) := some ([], 0)
  /-- UDS is locked from reading; R443; 1 once Rind runs -/
  udsLocked : Bool := true
  /-- GLB_PWR_STATE.pstate 0-3; Table 17.9; Run -/
  pstate : Nat := 0
  /-- control state Park was entered from is HELD; R508; 0 -/
  parkFromHeld : Bool := false
  /-- GLB_PWR_STATE.supply_thr, thermal_thr; Table 17.9; 0 -/
  supplyThr : Bool := false
  thermalThr : Bool := false
  /-- a thermal emergency is in effect (R512); Table 17.9; 0 -/
  thermEmerg : Bool := false
  /-- THERMTRIP_N driven low; R527; 0 -/
  thermtrip : Bool := false
  /-- GLB_RESET_CAUSE kind, cause, warm_count; Table 17.10; 0 -/
  resetKind : Nat := 0
  resetCause : Nat := 0
  warmCount : Nat := 0
  /-- GLB_PWR_EVENT kind, rail or sensor, value, ft; Table 17.11; 0 -/
  event : Option (Nat × Nat × Nat × Nat) := none
  /-- GLB_TEMP_SEL, 4 bits; Table 18.10; 0 -/
  tempSel : Nat := 0
  /-- sensor readings and maxima, 16 sensors, 0.25 C steps; Table 18.11; 0 -/
  temps : List Nat := []
  tempMax : List Nat := []
  /-- GLB_RAIL_SEL, 4 bits; Table 18.10; 0 -/
  railSel : Nat := 0
  /-- rail voltages, set points and currents, ten rails; Table 18.12; 0 -/
  mvs : List Nat := []
  setMv : List Nat := []
  /-- set point of VDD_CD, mV, the one before the last change, and the end of the 10 us after that change, ns; R520; 750, the boot set point, before B4, then the fused one -/
  vddSet : Nat := 750
  vddOld : Nat := 750
  vddUntil : Nat := 0
  currents : List Nat := []
  /-- no further set-point change until a cold reset; R520; 0 -/
  avsStopped : Bool := false
  /-- GLB_PKG_POWER now and peak, W; Table 18.10; 0 -/
  power : Nat := 0
  powerPeak : Nat := 0
  /-- TAP instruction in force; R529; DESIGN CHOICE BYPASS (the spec gives none) -/
  tapIr : Nat := 0
  deriving DecidableEq, Repr

/-- The whole block. -/
structure State where
  /-- commands waiting, first in first out; the model's own -/
  pending : List Instr
  /-- the free-running 1 ns counter (R158, R181); DESIGN CHOICE 0 -/
  now : Nat
  /-- next identifier for requests, accesses, units (the model's own); DESIGN CHOICE 0 -/
  nextId : Nat
  /-- index of the next free value (the model's own); DESIGN CHOICE 0 -/
  freeIx : Nat
  /-- structure in force: the image's tables with live changes (R388); empty -/
  img : ImgBody
  /-- partition states: 1 ACTIVE, 2 DOWN; ABSENT when unlisted (R20) -/
  pstate : List (Nat × Nat)
  /-- ports by number -/
  ports : List (Nat × Port)
  mem : Mem
  hbm : Hbm
  ftl : Ftl
  vat : Vat
  tmc : Tmc
  ftm : Ftm
  eng : Eng
  eth : Eth
  flt : Flt
  twn : Twn
  /-- log taps by partition (R435); disabled -/
  taps : List (Nat × Tap)
  /-- GLB_TAP_SEL, 7 bits; Table 14.11; 0 -/
  tapSel : Nat
  nv : Nv
  sec : Sec
  mgmt : Mgmt
  pwr : Pwr
  /-- device-wide RC counters, 64 bits each; 0 -/
  gctr : List (GCtr × Word64)
  /-- per-port RC counters, 64 bits each; 0 -/
  pctr : List ((Nat × PCtr) × Word64)
  /-- what has left each port, newest first (the model's record of the wires) -/
  wire : List (Nat × Wire)
  /-- what has left the management side, newest first -/
  out : List MgmtOut
  deriving DecidableEq, Repr

/-- The machine right after its first cold reset: a part as shipped, UNOWNED, no stored image, so the boot of R502 ends at step 3 of R503
with the control state BOOT; every register at its reset value, every table empty, FT zero and FREE (R180). -/
def State.reset : State where
  pending := []
  now := 0
  nextId := 0
  freeIx := 0
  img := {}
  pstate := []
  ports := []
  mem := {}
  hbm := {}
  ftl := {}
  vat := {}
  tmc := {}
  ftm := {}
  eng := {}
  eth := {}
  flt := {}
  twn := {}
  taps := []
  tapSel := 0
  nv := {}
  sec := {}
  mgmt := {}
  pwr := { vddSet := Config.fusedPoint }
  gctr := []
  pctr := []
  wire := []
  out := []

end Sys2Proof.Machine
end

