-- ==== Sys2Proof/Machine/Bits.lean ====
section
/-! DEFINITION. Bit fields, little-endian byte strings, association lists and sparse byte memories: the plain operations every other file uses. -/

namespace Sys2Proof.Machine

/-! ## Bit fields of numbers -/

/-- Bits [lo + w - 1 : lo] of `n`. -/
def bits (n lo w : Nat) : Nat := n / 2 ^ lo % 2 ^ w

/-- Bit `i` of `n`. -/
def bitAt (n i : Nat) : Bool := n / 2 ^ i % 2 == 1

/-- 1 for true. -/
def b2n (b : Bool) : Nat := if b then 1 else 0

/-- A two's complement field of `w` bits as an integer. -/
def signed (w n : Nat) : Int := if n % 2 ^ w ≥ 2 ^ (w - 1) then (n % 2 ^ w : Nat) - (2 : Int) ^ w else (n % 2 ^ w : Nat)

/-- An integer as a two's complement field of `w` bits. -/
def unsigned (w : Nat) (i : Int) : Nat := (i % (2 : Int) ^ w).toNat

/-- ceil(a / b). -/
def ceilDiv (a b : Nat) : Nat := (a + b - 1) / b

/-- Number of set bits among the low `w` bits. -/
def popBits (w n : Nat) : Nat := match w with
  | 0 => 0
  | w + 1 => b2n (bitAt n w) + popBits w n

/-- Members of a list as one bit each. -/
def bitSet (l : List Nat) : Nat := l.foldl (fun a i => a ||| 2 ^ i) 0

/-! ## Byte strings (little-endian, R6) -/

/-- The number a byte string holds, lowest byte first. -/
def leNat : Bytes → Nat
  | [] => 0
  | b :: t => b.toNat + 256 * leNat t

/-- The low `w` bytes of `n`, lowest first. -/
def natLe : Nat → Nat → Bytes
  | 0, _ => []
  | w + 1, n => BitVec.ofNat 8 n :: natLe w (n / 256)

/-- `len` bytes from offset `off`; missing bytes read as zero. -/
def slice (b : Bytes) (off len : Nat) : Bytes :=
  let t := (b.drop off).take len
  t ++ List.replicate (len - t.length) 0

/-- The little-endian field of `w` bytes at `off`. -/
def fieldAt (b : Bytes) (off w : Nat) : Nat := leNat (slice b off w)

/-- `base` with `d` written over it from offset `off` (inside `base`). -/
def overlay (base : Bytes) (off : Nat) (d : Bytes) : Bytes :=
  base.take off ++ d.take (base.length - off) ++ base.drop (off + d.length)

/-- The line `old` with the bytes of `new` whose mask bit is 1 (R46). -/
def maskMerge (old new : Bytes) (mask : Nat) : Bytes :=
  (List.range 64).map fun i => if bitAt mask i then new.getD i 0 else old.getD i 0

/-- `n` zero bytes. -/
def zeros (n : Nat) : Bytes := List.replicate n 0

/-- Any byte that is not zero. -/
def anyByte (b : Bytes) : Bool := b.any (· ≠ 0)

/-! ## Association lists -/

section Maps
variable {κ α : Type} [DecidableEq κ]

/-- The entry of key `k`. -/
def aget (m : List (κ × α)) (k : κ) : Option α :=
  match m with
  | [] => none
  | (k', v) :: t => if k' = k then some v else aget t k

/-- The entry of key `k`, or `d`. -/
def agetD (m : List (κ × α)) (k : κ) (d : α) : α := (aget m k).getD d

/-- `m` with `v` at key `k`. -/
def aset (m : List (κ × α)) (k : κ) (v : α) : List (κ × α) :=
  match m with
  | [] => [(k, v)]
  | (k', v') :: t => if k' = k then (k, v) :: t else (k', v') :: aset t k v

/-- `m` without key `k`. -/
def adel (m : List (κ × α)) (k : κ) : List (κ × α) := m.filter fun e => e.1 ≠ k

/-- `m` with the entry of `k`, `d` when absent, changed by `f`. -/
def amod (m : List (κ × α)) (k : κ) (d : α) (f : α → α) : List (κ × α) := aset m k (f (agetD m k d))

end Maps

/-- `l` with `x` added once. -/
def addOnce [DecidableEq α] (l : List α) (x : α) : List α := if x ∈ l then l else l ++ [x]

/-- `l` with the first element satisfying `p` changed by `f`. -/
def modFirst (p : α → Bool) (f : α → α) : List α → List α
  | [] => []
  | a :: t => if p a then f a :: t else a :: modFirst p f t

/-- `l` with the first element satisfying `p` removed. -/
def delFirst (p : α → Bool) : List α → List α
  | [] => []
  | a :: t => if p a then t else a :: delFirst p t

/-- `l` with every element satisfying `p` changed by `f`. -/
def modAll (p : α → Bool) (f : α → α) (l : List α) : List α := l.map fun a => if p a then f a else a

/-- Insert by key into an ascending list. -/
def insertBy (key : α → Nat) (x : α) : List α → List α
  | [] => [x]
  | a :: t => if key x < key a then x :: a :: t else a :: insertBy key x t

/-- Stable insertion sort by key. -/
def sortBy (key : α → Nat) (l : List α) : List α := l.foldl (fun acc x => insertBy key x acc) []

/-- The element with the smallest key, the first of equals. -/
def minBy (key : α → Nat) : List α → Option α
  | [] => none
  | a :: t => match minBy key t with
    | none => some a
    | some b => if key a ≤ key b then some a else some b

/-- The greatest of a list, 0 when empty. -/
def maxOf (l : List Nat) : Nat := l.foldl max 0

/-- The sum of a list. -/
def sumOf (l : List Nat) : Nat := l.foldl (· + ·) 0

/-! ## Sparse byte memories in canonical form: addresses rise strictly, and no listed byte is zero, since an unlisted one reads as zero -/

/-- The byte at `a`. -/
def cellGet (m : List Host.Cell) (a : Nat) : Byte :=
  match m with
  | [] => 0
  | (b, w) :: t => if b = a then w else cellGet t a

/-- `m` with byte `v` at `a`. -/
def cellPut (m : List Host.Cell) (a : Nat) (v : Byte) : List Host.Cell :=
  match m with
  | [] => if v = 0 then [] else [(a, v)]
  | (b, w) :: t =>
    if a < b then (if v = 0 then (b, w) :: t else (a, v) :: (b, w) :: t)
    else if a = b then (if v = 0 then t else (a, v) :: t)
    else (b, w) :: cellPut t a v

/-- `len` bytes from `a`. -/
def cellRead (m : List Host.Cell) (a : Nat) : Nat → Bytes
  | 0 => []
  | len + 1 => cellGet m a :: cellRead m (a + 1) len

/-- `m` with bytes `d` from `a` on. -/
def cellWrite (m : List Host.Cell) (a : Nat) : Bytes → List Host.Cell
  | [] => m
  | b :: t => cellWrite (cellPut m a b) (a + 1) t

/-- Every address of the list is above `lo`, rising, and no byte is zero. -/
def cellsAbove (lo : Nat) : List Host.Cell → Bool
  | [] => true
  | (a, v) :: t => decide (lo < a) && decide (v ≠ 0) && cellsAbove a t

/-- The canonical form. -/
def Memory.wf : List Host.Cell → Bool
  | [] => true
  | (a, v) :: t => decide (v ≠ 0) && cellsAbove a t

end Sys2Proof.Machine
end

