-- ==== Sys2Proof/Machine/Numeric.lean ====
section
/-! DEFINITION. The numbers of the engines: decoding and encoding of every format of Table 8.1, exact sums with one rounding (chapter 8),
merges of attention partials and of top-k lists, and the exponential of chapter 11. -/

namespace Sys2Proof.Machine

/-! ## Values and formats -/

/-- A decoded element: a finite number n x 2^e with its sign, an infinity, or NaN (R239). -/
inductive Val where
  | fin (neg : Bool) (n : Nat) (e : Int)
  | inf (neg : Bool)
  | nan
  deriving DecidableEq, Repr

/-- Special codes of a format: IEEE infinities and NaNs, the NaN of E4M3, or none. -/
inductive Spec where
  | ieee | e4m3 | noSpec
  deriving DecidableEq, Repr

/-- A binary float format: exponent bits, fraction bits, bias, special codes. -/
structure FFmt where
  eb : Nat
  mb : Nat
  bias : Int
  spec : Spec
  deriving DecidableEq, Repr

def fp64 : FFmt := ⟨11, 52, 1023, .ieee⟩
def fp32 : FFmt := ⟨8, 23, 127, .ieee⟩
def bf16 : FFmt := ⟨8, 7, 127, .ieee⟩
def fp16 : FFmt := ⟨5, 10, 15, .ieee⟩
def e4m3 : FFmt := ⟨4, 3, 7, .e4m3⟩
def e5m2 : FFmt := ⟨5, 2, 15, .ieee⟩
def e3m2 : FFmt := ⟨3, 2, 3, .noSpec⟩
def e2m3 : FFmt := ⟨2, 3, 1, .noSpec⟩
def e2m1 : FFmt := ⟨2, 1, 1, .noSpec⟩

/-- Width of an element in bits. -/
def FFmt.width (f : FFmt) : Nat := 1 + f.eb + f.mb

/-- Code of the largest finite magnitude. -/
def FFmt.maxCode (f : FFmt) : Nat := match f.spec with
  | .ieee => (2 ^ f.eb - 1) * 2 ^ f.mb - 1
  | .e4m3 => 0x7E
  | .noSpec => 2 ^ (f.eb + f.mb) - 1

/-- Code of infinity in an IEEE format. -/
def FFmt.infCode (f : FFmt) : Nat := (2 ^ f.eb - 1) * 2 ^ f.mb

/-- Canonical NaN (R246). -/
def FFmt.nanCode (f : FFmt) : Nat := match f.spec with
  | .e4m3 => 0x7F
  | _ => f.infCode + 2 ^ (f.mb - 1)

/-- An element code decoded (R239); subnormal inputs are kept. -/
def FFmt.decode (f : FFmt) (c : Nat) : Val :=
  let neg := bitAt c (f.eb + f.mb)
  let mag := c % 2 ^ (f.eb + f.mb)
  let x := mag / 2 ^ f.mb
  let m := mag % 2 ^ f.mb
  if f.spec = .ieee ∧ x = 2 ^ f.eb - 1 then (if m = 0 then .inf neg else .nan)
  else if f.spec = .e4m3 ∧ mag = 0x7F then .nan
  else if x = 0 then .fin neg m (1 - f.bias - f.mb)
  else .fin neg (2 ^ f.mb + m) (x - f.bias - f.mb)

/-- Rounding modes (R243). -/
inductive Rnd where
  | rne | rtz | sr
  deriving DecidableEq, Repr

/-- floor(log2 n) + e for a non-zero magnitude. -/
def log2Val (n : Nat) (e : Int) : Int := n.log2 + e

/-- The magnitude n x 2^e as a code, rounded once; codes above the largest finite one are an overflow (R243). `r` is the 32 random bits. -/
def FFmt.roundMag (f : FFmt) (n : Nat) (e : Int) (rnd : Rnd) (r : Nat) : Nat :=
  if n = 0 then 0
  else
    let emin := 1 - f.bias
    let x := max (log2Val n e) emin
    let q := x - f.mb
    let d := (q - e).toNat
    let m := if e ≥ q then n * 2 ^ (e - q).toNat else n / 2 ^ d
    let rem := if e ≥ q then 0 else n % 2 ^ d
    let up := match rnd with
      | .rne => decide (2 * rem > 2 ^ d ∨ (2 * rem = 2 ^ d ∧ m % 2 = 1 ∧ e < q))
      | .rtz => false
      | .sr => decide (e < q ∧ r < rem * 2 ^ 32 / 2 ^ d)
    let c := (x - emin).toNat * 2 ^ f.mb + (if up then m + 1 else m)
    if rnd = .rtz then min c f.maxCode
    else if rnd = .sr ∧ c > f.maxCode then f.maxCode + 1
    else c

/-- The sign bit of a format. -/
def FFmt.sign (f : FFmt) (neg : Bool) : Nat := if neg then 2 ^ (f.eb + f.mb) else 0

/-- Overflow, and an infinite result, of a float format (Table 8.2). -/
def FFmt.big (f : FFmt) (neg sat : Bool) : Nat :=
  if sat then f.sign neg + f.maxCode
  else match f.spec with
    | .ieee => f.sign neg + f.infCode
    | .e4m3 => f.nanCode
    | .noSpec => f.sign neg + f.maxCode

/-- A value encoded in a float format (R243 to R246). -/
def FFmt.encode (f : FFmt) (v : Val) (rnd : Rnd) (sat : Bool) (r : Nat) : Nat :=
  match v with
  | .nan => f.nanCode
  | .inf neg => f.big neg sat
  | .fin neg n e =>
    let c := f.roundMag n e rnd r
    if c > f.maxCode then f.big neg sat else f.sign neg + c

/-- round32: an exact value rounded once to FP32 by RNE (R252). -/
def round32 (v : Val) : Val := fp32.decode (fp32.encode v .rne false 0)

/-- An exact value rounded to binary64 by RNE (R342). -/
def round64 (v : Val) : Val := fp64.decode (fp64.encode v .rne false 0)

/-! ## Exact arithmetic -/

/-- The sign of a value. -/
def Val.neg? : Val → Bool
  | .fin s _ _ => s
  | .inf s => s
  | .nan => false

/-- The value with its sign turned. -/
def Val.negate : Val → Val
  | .fin s n e => .fin (!s) n e
  | .inf s => .inf (!s)
  | .nan => .nan

/-- Zero. -/
def Val.zero : Val := .fin false 0 0

/-- A finite value as an integer in units of 2^u, for u not above its exponent. -/
def scaledInt (neg : Bool) (n : Nat) (e u : Int) : Int :=
  let m : Int := (n * 2 ^ (e - u).toNat : Nat)
  if neg then -m else m

/-- The exact sum of two values; an exact zero is -0 only if both are -0 (R242). -/
def Val.add (a b : Val) : Val :=
  match a, b with
  | .nan, _ | _, .nan => .nan
  | .inf s, .inf t => if s = t then .inf s else .nan
  | .inf s, _ => .inf s
  | _, .inf t => .inf t
  | .fin s n e, .fin t m f =>
    let u := min e f
    let z := scaledInt s n e u + scaledInt t m f u
    if z = 0 then .fin (s && t && decide (n = 0 ∧ m = 0)) 0 0 else .fin (decide (z < 0)) z.natAbs u

/-- The exact product of two values. -/
def Val.mul (a b : Val) : Val :=
  match a, b with
  | .nan, _ | _, .nan => .nan
  | .inf s, .inf t => .inf (s != t)
  | .inf s, .fin t m _ => if m = 0 then .nan else .inf (s != t)
  | .fin s n _, .inf t => if n = 0 then .nan else .inf (s != t)
  | .fin s n e, .fin t m f => .fin (s != t) (n * m) (e + f)

/-- The quotient with enough bits that one rounding to FP32 is correct: 96 more bits than the divisor and a sticky bit. -/
def Val.div (a b : Val) : Val :=
  match a, b with
  | .nan, _ | _, .nan => .nan
  | .inf _, .inf _ => .nan
  | .inf s, .fin t _ _ => .inf (s != t)
  | .fin s _ _, .inf t => .fin (s != t) 0 0
  | .fin s n e, .fin t m f =>
    if m = 0 then (if n = 0 then .nan else .inf (s != t))
    else
      let k := 96 + m.log2
      let q := n * 2 ^ k / m
      let r := n * 2 ^ k % m
      .fin (s != t) (2 * q + b2n (r ≠ 0)) (e - f - k - 1)

/-- a < b among values, -0 below +0 (R250). -/
def Val.lt (a b : Val) : Bool :=
  match a, b with
  | .nan, _ | _, .nan => false
  | .inf s, .inf t => s && !t
  | .inf s, _ => s
  | _, .inf t => !t
  | .fin s n e, .fin t m f =>
    let u := min e f
    let x := scaledInt s n e u
    let y := scaledInt t m f u
    if x = 0 ∧ y = 0 then s && !t else decide (x < y)

/-- Equality of numbers: -0 equals +0, NaN equals nothing. -/
def Val.eqv (a b : Val) : Bool :=
  match a, b with
  | .nan, _ | _, .nan => false
  | .inf s, .inf t => s == t
  | .fin s n e, .fin t m f => decide (scaledInt s n e (min e f) = scaledInt t m f (min e f))
  | _, _ => false

/-- The value is NaN. -/
def Val.isNan : Val → Bool
  | .nan => true
  | _ => false

/-- The exact sum of one lane's operands (R240, R242); order does not matter. -/
def sumVals : List Val → Val
  | [] => .zero
  | [v] => v
  | v :: t => v.add (sumVals t)

/-- MAX or MIN of one lane (R250). -/
def pickVals (mx : Bool) : List Val → Val
  | [] => .zero
  | [v] => v
  | v :: t =>
    let w := pickVals mx t
    if v.isNan ∨ w.isNan then .nan else if (if mx then v.lt w else w.lt v) then w else v

/-! ## Stochastic rounding (R244) -/

/-- mix64. -/
def mix64 (x : Word64) : Word64 :=
  let x := x + 0x9E3779B97F4A7C15
  let x := (x ^^^ (x >>> 30)) * 0xBF58476D1CE4E5B9
  let x := (x ^^^ (x >>> 27)) * 0x94D049BB133111EB
  x ^^^ (x >>> 31)

/-- sr_bits. -/
def srBits (seed : Word64) (i : Nat) : Nat := (mix64 (seed ^^^ mix64 (BitVec.ofNat 64 i))).toNat / 2 ^ 32

/-! ## Formats of Table 8.1 -/

/-- Kinds of formats. -/
inductive FmtKind where
  | flt (f : FFmt)
  | mx (f : FFmt)
  | int (sgn : Bool) (bytes : Nat)
  | lse
  | topk (float : Bool)
  | bad
  deriving DecidableEq, Repr

/-- The format of a code (Table 8.1). -/
def fmtOf : Nat → FmtKind
  | 0x00 => .flt fp32 | 0x01 => .flt bf16 | 0x02 => .flt fp16 | 0x03 => .flt e4m3 | 0x04 => .flt e5m2
  | 0x08 => .mx e4m3 | 0x09 => .mx e5m2 | 0x0A => .mx e3m2 | 0x0B => .mx e2m3 | 0x0C => .mx e2m1
  | 0x10 => .int true 1 | 0x11 => .int true 2 | 0x12 => .int true 4 | 0x13 => .int true 8
  | 0x14 => .int false 1 | 0x15 => .int false 2 | 0x16 => .int false 4 | 0x17 => .int false 8
  | 0x20 => .lse | 0x21 => .topk false | 0x22 => .topk true
  | _ => .bad

/-- Float or MX. -/
def FmtKind.isFloat : FmtKind → Bool
  | .flt _ | .mx _ => true
  | _ => false

/-- Integer. -/
def FmtKind.isInt : FmtKind → Bool
  | .int _ _ => true
  | _ => false

/-- Elements per full chunk (Table 8.1). -/
def FmtKind.elems : FmtKind → Nat
  | .flt f => 4096 * 8 / f.width
  | .mx _ => 4096
  | .int _ b => 4096 / b
  | _ => 0

/-- Bytes of `n` elements; an MX format takes whole blocks (R238). -/
def FmtKind.sizeOf (k : FmtKind) (n : Nat) : Nat :=
  match k with
  | .flt f => n * f.width / 8
  | .mx f => n / 32 * (4 * f.width + 1)
  | .int _ b => n * b
  | _ => 0

/-- Elements in `b` bytes, when they are whole elements or whole blocks. -/
def FmtKind.count (k : FmtKind) (b : Nat) : Option Nat :=
  match k with
  | .flt f => if b % (f.width / 8) = 0 then some (b / (f.width / 8)) else none
  | .mx f => if b % (4 * f.width + 1) = 0 then some (b / (4 * f.width + 1) * 32) else none
  | .int _ w => if b % w = 0 then some (b / w) else none
  | _ => none

/-- Emax of an MX element format (R247). -/
def mxEmax (f : FFmt) : Int := if f = e4m3 then 8 else if f = e5m2 then 15 else if f = e3m2 then 4 else 2

/-- A value times 2^k. -/
def Val.scale (v : Val) (k : Int) : Val :=
  match v with
  | .fin s n e => .fin s n (e + k)
  | v => v

/-- The elements of one MX block: its data and its scale byte (R239). -/
def mxBlock (f : FFmt) (data : Bytes) (sc : Nat) : List Val :=
  let n := leNat data
  (List.range 32).map fun i =>
    if sc = 0xFF then .nan else (f.decode (bits n (f.width * i) f.width)).scale (sc - 127)

/-- The elements of a chunk or row of floats or MX blocks (R238, R239). -/
def decodeVals (k : FmtKind) (b : Bytes) : List Val :=
  match k with
  | .flt f =>
    let w := f.width / 8
    (List.range (b.length / w)).map fun i => f.decode (fieldAt b (i * w) w)
  | .mx f =>
    let nb := b.length / (4 * f.width + 1)
    ((List.range nb).map fun j => mxBlock f (slice b (j * (4 * f.width)) (4 * f.width)) (fieldAt b (nb * (4 * f.width) + j) 1)).flatten
  | _ => []

/-- The elements of integers. -/
def decodeInts (k : FmtKind) (b : Bytes) : List Int :=
  match k with
  | .int s w => (List.range (b.length / w)).map fun i => let n := fieldAt b (i * w) w; if s then signed (8 * w) n else n
  | _ => []

/-- floor(log2) of the largest magnitude of a block, none when every result is zero. -/
def blockLog (vs : List Val) : Option Int :=
  vs.foldl (fun a v => match v with
    | .fin _ n e => if n = 0 then a else some (match a with
      | some x => max x (log2Val n e)
      | none => log2Val n e)
    | _ => a) none

/-- One MX block encoded (R247): the element data and the scale byte. `rb` gives the random bits of an element of the block. -/
def encodeMxBlock (f : FFmt) (vs : List Val) (rnd : Rnd) (sat : Bool) (rb : Nat → Nat) : Bytes × Nat :=
  let isInf (v : Val) : Bool := match v with
    | .inf _ => true
    | _ => false
  if vs.any Val.isNan || (!sat && vs.any isInf) then (zeros (4 * f.width), 0xFF)
  else
    let big := f.decode f.maxCode
    let vs := vs.map fun v => match v with
      | .inf neg => (match big with
        | .fin _ n e => .fin neg n (e + 127)
        | v => v)
      | v => v
    let pack (cs : List Nat) : Bytes :=
      natLe (4 * f.width) (cs.foldr (fun c a => c + a * 2 ^ f.width) 0)
    match blockLog vs with
    | none => (pack (vs.map fun v => f.sign v.neg?), 0)
    | some l =>
      let x := max (-127) (min 127 (l - mxEmax f))
      let cs := vs.mapIdx fun i v => f.encode (v.scale (-x)) rnd true (rb i)
      (pack cs, (x + 127).toNat)

/-- Values encoded as a chunk or row of floats or MX blocks; `idx` is the elem_index of the first (R244). Elements after the last whole MX block, which an
input of another format can leave, are dropped: DESIGN CHOICE (assumption 61). -/
def encodeVals (k : FmtKind) (vs : List Val) (rnd : Rnd) (sat : Bool) (seed : Word64) (idx : Nat) : Bytes :=
  match k with
  | .flt f => (vs.mapIdx fun i v => natLe (f.width / 8) (f.encode v rnd sat (srBits seed (idx + i)))).flatten
  | .mx f =>
    let bs := (List.range (vs.length / 32)).map fun j =>
      encodeMxBlock f ((vs.drop (32 * j)).take 32) rnd sat fun i => srBits seed (idx + 32 * j + i)
    (bs.map (·.1)).flatten ++ bs.map fun b => BitVec.ofNat 8 b.2
  | _ => []

/-- An exact integer in an integer format: clamped or wrapped (R248). -/
def fitInt (s : Bool) (w : Nat) (sat : Bool) (v : Int) : Nat :=
  let lo : Int := if s then -(2 : Int) ^ (8 * w - 1) else 0
  let hi : Int := if s then (2 : Int) ^ (8 * w - 1) - 1 else (2 : Int) ^ (8 * w) - 1
  unsigned (8 * w) (if sat then max lo (min hi v) else v)

/-- Integers encoded. -/
def encodeInts (k : FmtKind) (vs : List Int) (sat : Bool) : Bytes :=
  match k with
  | .int s w => (vs.map fun v => natLe w (fitInt s w sat v)).flatten
  | _ => []

/-! ## The spec word (Table 8.10) -/

/-- Fields of the spec word. -/
structure SpecWord where
  op : Nat
  rnd : Nat
  sat : Bool
  norm : Bool
  inFmt : Nat
  outFmt : Nat
  head : Nat
  rsvd : Bool
  deriving DecidableEq, Repr

/-- A spec word decoded. -/
def specOf (n : Nat) : SpecWord :=
  { op := bits n 0 4, rnd := bits n 4 2, sat := bitAt n 6, norm := bitAt n 7, inFmt := bits n 8 6, outFmt := bits n 16 6,
    head := bits n 24 3, rsvd := decide (bits n 14 2 ≠ 0 ∨ bits n 22 2 ≠ 0 ∨ bits n 27 5 ≠ 0) }

/-- The rounding mode of a code; code 3 is reserved. -/
def rndOf : Nat → Rnd
  | 1 => .rtz
  | 2 => .sr
  | _ => .rne

/-- Head dimension d of a head code (Table 8.5). -/
def headDim : Nat → Nat
  | 0 => 64 | 1 => 96 | 2 => 128 | 3 => 192 | 4 => 256 | _ => 0

/-- Records per chunk (Table 8.5). -/
def headRecs : Nat → Nat
  | 0 => 15 | 1 => 10 | 2 => 7 | 3 => 5 | 4 => 3 | _ => 0

/-- Bytes of an LSE partial record (Table 8.4). -/
def lseBytes (h : Nat) : Nat := 16 + 4 * headDim h

/-- Integers of one signedness, the output as wide or wider. -/
def intWidens (a b : FmtKind) : Bool :=
  match a, b with
  | .int s w, .int t v => s == t && decide (w ≤ v)
  | _, _ => false

/-- The operator accepts the format pair (Table 8.3), the codes are defined, and the rounding code suits (R243, R244, R248, R249). Non-zero reserved bits
of the spec word refuse it too, unlike those of a body (assumption 7): DESIGN CHOICE (assumption 61). -/
def specOk (p : SpecWord) : Bool :=
  let a := fmtOf p.inFmt
  let b := fmtOf p.outFmt
  !p.rsvd && decide (p.rnd < 3) && (match p.op with
    | 0 => (a.isFloat && b.isFloat) || intWidens a b
    | 1 | 2 => (a.isFloat && b.isFloat) || (a.isInt && p.inFmt == p.outFmt)
    | 3 | 4 | 5 => a.isInt && p.inFmt == p.outFmt
    | 6 => decide (a = .lse ∧ b = .lse ∧ p.head ≤ 4 ∧ p.rnd = 0)
    | 7 => (match a with
      | .topk _ => p.inFmt == p.outFmt && decide (p.rnd = 0)
      | _ => false)
    | _ => false)
    && (if b.isInt then decide (p.rnd = 0) else true) && decide (b.sizeOf a.elems ≤ 16384)

/-! ## Reduction of one chunk -/

/-- The columns of equally long rows. -/
def columns (n : Nat) (rows : List (List α)) : List (List α) := (List.range n).map fun i => rows.filterMap fun r => r[i]?

/-- Operators on raw integer bits: 3 AND, 4 OR, 5 XOR. -/
def bitOp (op : Nat) (l : List Nat) : Nat :=
  match l with
  | [] => 0
  | a :: t => t.foldl (fun x y => if op = 3 then x &&& y else if op = 4 then x ||| y else x ^^^ y) a

/-- Integer operators: sum, maximum, minimum. -/
def intOp (op : Nat) (l : List Int) : Int :=
  match l with
  | [] => 0
  | a :: t => t.foldl (fun x y => if op = 0 then x + y else if op = 1 then max x y else min x y) a

/-- Operators 0 to 5 over the operands of one chunk, `idx` the elem_index of its first element (R240 to R250). -/
def reduceElems (p : SpecWord) (seed : Word64) (idx : Nat) (ins : List Bytes) : Bytes :=
  let a := fmtOf p.inFmt
  let b := fmtOf p.outFmt
  match a with
  | .int _ w =>
    if p.op ≥ 3 then
      let rows := ins.map fun x => (List.range (x.length / w)).map fun i => fieldAt x (i * w) w
      ((columns ((rows.headD []).length) rows).map fun c => natLe w (bitOp p.op c)).flatten
    else
      let rows := ins.map (decodeInts a)
      encodeInts b ((columns ((rows.headD []).length) rows).map (intOp p.op)) p.sat
  | _ =>
    let rows := ins.map (decodeVals a)
    let cs := columns ((rows.headD []).length) rows
    encodeVals b (cs.map fun c => if p.op = 0 then sumVals c else pickVals (p.op = 1) c) (rndOf p.rnd) p.sat seed idx

/-! ## The exponential (R342) -/

/-- n as a value. -/
def Val.ofNat (n : Nat) : Val := .fin false n 0

/-- 1/ln 2 and ln 2 in binary64. -/
def invLn2 : Val := fp64.decode 0x3FF71547652B82FE
def ln2 : Val := fp64.decode 0x3FE62E42FEFA39EF

/-- 1/k! in binary64. -/
def expCoeff : Nat → Val
  | 0 => fp64.decode 0x3FF0000000000000
  | 1 => fp64.decode 0x3FF0000000000000
  | 2 => fp64.decode 0x3FE0000000000000
  | 3 => fp64.decode 0x3FC5555555555555
  | 4 => fp64.decode 0x3FA5555555555555
  | 5 => fp64.decode 0x3F81111111111111
  | 6 => fp64.decode 0x3F56C16C16C16C17
  | _ => fp64.decode 0x3F2A01A01A01A01A

/-- The nearest integer, ties to even. -/
def nearestEven (v : Val) : Int :=
  match v with
  | .fin s n e =>
    let m : Nat := if e ≥ 0 then n * 2 ^ e.toNat
      else
        let d := (-e).toNat
        let q := n / 2 ^ d
        let r := n % 2 ^ d
        if 2 * r > 2 ^ d ∨ (2 * r = 2 ^ d ∧ q % 2 = 1) then q + 1 else q
    if s then -(m : Int) else m
  | _ => 0

/-- An integer as a value. -/
def Val.ofInt (i : Int) : Val := .fin (decide (i < 0)) i.natAbs 0

/-- ctu_exp (R342). -/
def ctuExp (x : Val) : Val :=
  if x.isNan then .nan
  else if !x.lt (.ofNat 89) then .inf false
  else if !(Val.ofInt (-104)).lt x then .zero
  else
    let t := round64 (x.mul invLn2)
    let n := nearestEven t
    let r := round64 (x.add (round64 ((Val.ofInt n).mul ln2)).negate)
    let p := [6, 5, 4, 3, 2, 1, 0].foldl (fun p k => round64 ((round64 (p.mul r)).add (expCoeff k))) (expCoeff 7)
    round32 (p.scale n)

/-! ## LSE partial records (R251 to R254) -/

/-- A partial record: m, l and o. -/
structure Lse where
  m : Val
  l : Val
  o : List Val
  deriving DecidableEq, Repr

/-- A record read from bytes. -/
def lseOf (h : Nat) (b : Bytes) : Lse :=
  let f (off : Nat) : Val := fp32.decode (fieldAt b off 4)
  { m := f 0, l := f 4, o := (List.range (headDim h)).map fun i => f (16 + 4 * i) }

/-- A record as bytes, its reserved bytes zero. -/
def packLse (r : Lse) : Bytes :=
  let w (v : Val) : Bytes := natLe 4 (fp32.encode v .rne false 0)
  w r.m ++ w r.l ++ zeros 8 ++ (r.o.map w).flatten

/-- nan_record. -/
def nanLse (h : Nat) : Lse := { m := .nan, l := .nan, o := List.replicate (headDim h) .nan }

/-- The empty record (R345). -/
def emptyLse (h : Nat) : Lse := { m := .inf true, l := .zero, o := List.replicate (headDim h) .zero }

/-- A field is NaN. -/
def Lse.hasNan (r : Lse) : Bool := r.m.isNan || r.l.isNan || r.o.any Val.isNan

/-- merge_lse (R252). -/
def mergeLse (h : Nat) (a b : Lse) : Lse :=
  if a.hasNan || b.hasNan || a.m == .inf false || b.m == .inf false then nanLse h
  else if a.m = .inf true then b
  else if b.m = .inf true then a
  else
    let m := if a.m.lt b.m then b.m else a.m
    let ea := ctuExp (round32 (a.m.add m.negate))
    let eb := ctuExp (round32 (b.m.add m.negate))
    let mix (x y : Val) : Val := round32 ((x.mul ea).add (y.mul eb))
    { m := m, l := mix a.l b.l, o := a.o.zipWith mix b.o }

/-- One level of the tree (R253): pairs merge, an odd last entry passes up. -/
def lseLevel (h : Nat) : List Lse → List Lse
  | a :: b :: t => mergeLse h a b :: lseLevel h t
  | l => l

/-- The root of the tree (R253). -/
def lseTree (h : Nat) : Nat → List Lse → Lse
  | 0, l => l.headD (emptyLse h)
  | _, [] => emptyLse h
  | _, [r] => r
  | n + 1, l => lseTree h n (lseLevel h l)

/-- norm (R254). -/
def normLse (r : Lse) : Lse :=
  match r.l with
  | .fin _ 0 _ => { r with o := r.o.map fun _ => .zero }
  | l => { r with o := r.o.map fun x => round32 (x.div l) }

/-- LSE_MERGE of one chunk: record by record over the members' chunks (R252 to R254). -/
def reduceLse (p : SpecWord) (ins : List Bytes) : Bytes :=
  let rb := lseBytes p.head
  let n := (ins.headD []).length / rb
  ((List.range n).map fun i =>
    let root := lseTree p.head 16 (ins.map fun b => lseOf p.head (slice b (i * rb) rb))
    packLse (if p.norm then normLse root else root)).flatten

/-! ## TOPK (R255, R256) -/

/-- A TOPK entry: key and id. -/
structure TopEnt where
  key : Nat
  id : Nat
  deriving DecidableEq, Repr

/-- The empty entry. -/
def TopEnt.empty : TopEnt := ⟨2 ^ 32 - 1, 2 ^ 64 - 1⟩

/-- Entries of a list in bytes. -/
def topOf (b : Bytes) : List TopEnt := (List.range (b.length / 16)).map fun i => ⟨fieldAt b (16 * i) 4, fieldAt b (16 * i + 8) 8⟩

/-- Entries as bytes. -/
def packTop (l : List TopEnt) : Bytes := (l.map fun e => natLe 4 e.key ++ zeros 4 ++ natLe 8 e.id).flatten

/-- Keys as FP32: -0 equals +0, NaN after +infinity. -/
def keyLt (float : Bool) (a b : Nat) : Bool :=
  if float then
    let x := fp32.decode a
    let y := fp32.decode b
    if x.isNan then false else if y.isNan then true else x.lt y && !x.eqv y
  else decide (a < b)

/-- The order of R255: empty last, then key, then id. -/
def topLt (float : Bool) (a b : TopEnt) : Bool :=
  if a = .empty then false
  else if b = .empty then true
  else if keyLt float a.key b.key then true
  else if keyLt float b.key a.key then false
  else decide (a.id < b.id)

/-- A list in ascending order. -/
def topSorted (float : Bool) : List TopEnt → Bool
  | a :: b :: t => !topLt float b a && topSorted float (b :: t)
  | _ => true

/-- Insert into an ordered list. -/
def topInsert (float : Bool) (x : TopEnt) : List TopEnt → List TopEnt
  | [] => [x]
  | a :: t => if topLt float x a then x :: a :: t else a :: topInsert float x t

/-- The first k of the union, padded with empty entries (R256). -/
def topMerge (float : Bool) (k : Nat) (ls : List (List TopEnt)) : List TopEnt :=
  let all := (ls.flatten.foldl (fun acc x => (topInsert float x acc).take k) []).filter (· ≠ .empty)
  all ++ List.replicate (k - all.length) .empty

/-- Whether the TOPK format's keys are FP32. -/
def topFloat (p : SpecWord) : Bool := match fmtOf p.inFmt with
  | .topk f => f
  | _ => false

/-! ## One chunk -/

/-- The result of a chunk over its operands in member or descriptor order, or detail 0x82 for an unordered TOPK list. `idx` is the elem_index
of its first element, `k` the TOPK entries. -/
def reduceChunk (p : SpecWord) (seed : Word64) (idx k : Nat) (ins : List Bytes) : Except Nat Bytes :=
  match p.op with
  | 6 => .ok (reduceLse p ins)
  | 7 =>
    let ls := ins.map topOf
    if ls.all (topSorted (topFloat p)) then .ok (packTop (topMerge (topFloat p) k ls)) else .error 0x82
  | _ => .ok (reduceElems p seed idx ins)

/-- Bytes of a full input chunk. -/
def chunkIn (p : SpecWord) : Nat :=
  match fmtOf p.inFmt with
  | .lse => lseBytes p.head * headRecs p.head
  | .topk _ => 16384
  | f => f.sizeOf f.elems

/-- Bytes of a full output chunk; TOPK gives k entries. -/
def chunkOut (p : SpecWord) (k : Nat) : Nat :=
  match fmtOf p.inFmt with
  | .lse => chunkIn p
  | .topk _ => 16 * k
  | f => (fmtOf p.outFmt).sizeOf f.elems

/-- A contribution's length is whole elements, blocks or records of at most a chunk, or a TOPK list of 1 to 1,024 entries (R262). -/
def lenOk (p : SpecWord) (n : Nat) : Bool :=
  decide (0 < n ∧ n ≤ chunkIn p) && match fmtOf p.inFmt with
    | .lse => decide (n % lseBytes p.head = 0)
    | .topk _ => decide (n % 16 = 0)
    | f => (f.count n).isSome

/-- Bytes the result of an input of `n` bytes takes. -/
def outLen (p : SpecWord) (k n : Nat) : Nat :=
  match fmtOf p.inFmt with
  | .lse => n
  | .topk _ => 16 * k
  | f => (fmtOf p.outFmt).sizeOf ((f.count n).getD 0)

end Sys2Proof.Machine
end

