-- ==== Sys2Proof/Machine/Operands.lean ====
section
/-! DEFINITION. Address arithmetic: which plane, which tray port and which place on it (chapters 1 and 3), alignment, and the forms of
memory requests. -/

namespace Sys2Proof.Machine

/-- 2 MiB. -/
def mib2 : Nat := 2097152

/-- fold16 of R10: the three 16-bit parts of a 48-bit value. -/
def fold16 (x : Nat) : Nat := bits x 0 16 ^^^ bits x 16 16 ^^^ bits x 32 16

/-- select_plane: serving plane and plane-local page number (R10). -/
def selectPlane (addr p : Nat) : Nat × Nat :=
  let q := addr / 4096
  let r := q % p
  let g := q / p
  ((r + fold16 g) % p, g)

/-- plane_local_offset (R15). -/
def planeLocal (addr : Nat) (e : RangeEntry) (p : Nat) : Nat :=
  if e.pinned then addr - e.base * mib2
  else ((selectPlane addr p).2 - e.base * 512 / p) * 4096 + addr % 4096

/-- The interleave granule in bytes (Table 1.3). -/
def gsize (e : RangeEntry) : Nat := 256 * 2 ^ e.granule

/-- Start of the extent of a role on each member tray, in bytes (R16). -/
def extentBase (e : RangeEntry) (odd : Bool) : Nat := (if odd then e.offOdd else e.offEven) * mib2

/-- Tray port and tray address of plane-local offset `loc` (select_port of R15). -/
def portOfLoc (loc : Nat) (e : RangeEntry) (iset : List Nat) (odd : Bool) : Nat × Nat :=
  let w := iset.length
  let b := loc / gsize e
  let k := (b % w + fold16 (b / w)) % w
  (iset.getD k 0, extentBase e odd + b / w * gsize e + loc % gsize e)

/-- select_port (R15). -/
def selectPort (addr : Nat) (e : RangeEntry) (iset : List Nat) (p : Nat) (odd : Bool) : Nat × Nat :=
  portOfLoc (planeLocal addr e p) e iset odd

/-- Pages of a range that one plane holds (size_extent of R16). -/
def stripePages (e : RangeEntry) (p : Nat) : Nat :=
  if e.pinned then e.size * 512
  else (e.base * 512 + e.size * 512 - 1) / p - e.base * 512 / p + 1

/-- size_extent (R16). -/
def sizeExtent (e : RangeEntry) (members p : Nat) : Nat :=
  ceilDiv (ceilDiv (stripePages e p * 4096) (gsize e)) members * gsize e

/-- Length of the MAC extent of a sealed range (R462). -/
def macExtent (e : RangeEntry) (members p : Nat) : Nat :=
  ceilDiv (sizeExtent e members p) (8 * mib2) * mib2

/-- Tray address of the 8 MAC bytes of the line at tray address `a` (R462). -/
def macAddr (e : RangeEntry) (members p : Nat) (odd : Bool) (a : Nat) : Nat :=
  extentBase e odd + sizeExtent e members p + (a / 64 * 64 - extentBase e odd) / 8

/-- One tray access per granule of `len` bytes at plane-local offset `loc` (R17): port, tray address, length, offset in the access. -/
def splitLoc (e : RangeEntry) (iset : List Nat) (odd : Bool) (loc off : Nat) : Nat → Nat → List (Nat × Nat × Nat × Nat)
  | 0, _ => []
  | _, 0 => []
  | fuel + 1, len =>
    let n := min len (gsize e - loc % gsize e)
    let pa := portOfLoc loc e iset odd
    (pa.1, pa.2, n, off) :: splitLoc e iset odd (loc + n) (off + n) fuel (len - n)

/-- The pieces of an access at a fabric address (R17). -/
def splitAddr (e : RangeEntry) (iset : List Nat) (p : Nat) (odd : Bool) (addr len : Nat) : List (Nat × Nat × Nat × Nat) :=
  splitLoc e iset odd (planeLocal addr e p) 0 (len / 256 + 2) len

/-- The first byte at or after `addr` among `n` pages that `plane` serves. -/
def firstServed (plane p : Nat) : Nat → Nat → Option Nat
  | 0, _ => none
  | n + 1, addr => if (selectPlane addr p).1 = plane then some addr else firstServed plane p n ((addr / 4096 + 1) * 4096)

/-- The last byte at or before `addr` among `n` pages that `plane` serves. -/
def lastServed (plane p : Nat) : Nat → Nat → Option Nat
  | 0, _ => none
  | n + 1, addr => if (selectPlane addr p).1 = plane then some addr else lastServed plane p n (addr / 4096 * 4096 - 1)

/-- Plane-local offsets of the first and last byte of [addr, addr + len) that `plane` serves (R64). -/
def stripeSpan (e : RangeEntry) (p plane addr len : Nat) : Option (Nat × Nat) :=
  if e.pinned then (if e.pinnedPlane = plane then some (planeLocal addr e p, planeLocal (addr + len - 1) e p) else none)
  else
    let n := min (2 * p) ((addr + len - 1) / 4096 - addr / 4096 + 1)
    match firstServed plane p n addr, lastServed plane p n (addr + len - 1) with
    | some a, some b => if a < addr + len ∧ addr ≤ b then some (planeLocal a e p, planeLocal b e p) else none
    | _, _ => none

/-- Tray ports and the one span each flushes for stripe offsets `lo` to `hi` (R64): whole interleave rows. -/
def flushSpans (e : RangeEntry) (iset : List Nat) (odd : Bool) (lo hi : Nat) : List (Nat × Nat × Nat) :=
  let w := iset.length
  let bf := lo / gsize e
  let bl := hi / gsize e
  let ports := if bl - bf + 1 ≥ 2 * w then iset
    else ((List.range (bl - bf + 1)).map fun i => (portOfLoc ((bf + i) * gsize e) e iset odd).1).eraseDups
  ports.map fun q => (q, extentBase e odd + bf / w * gsize e, (bl / w - bf / w + 1) * gsize e)

/-! ## Flash (R96) -/

/-- The columns of unit `u` that hold data, ascending (R96). -/
def dataCols (u : Nat) : List Nat := (List.range 10).filter fun c => c ≠ u % 10 ∧ c ≠ (u + 1) % 10

/-- locate_flash (R96) at logical offset `d`. -/
def locateFlash (d members upb : Nat) : FlashLoc :=
  let g := members / 10
  let row := d / 131072
  let o := d % 131072
  let u := row / g
  let col := (dataCols u).getD (o / 16384) 0
  { grp := row % g, u := u, col := col, member := row % g * 10 + col, lblock := u / upb, page := u % upb,
    sector := o % 16384 / 4096, byte := o % 4096 }

/-- Logical offset of plane-local offset `loc` (R96). -/
def flashOff (e : RangeEntry) (odd : Bool) (loc : Nat) : Nat := extentBase e odd + loc

/-- The block number that names a physical block on a port: channel, die, block packed as in R375. -/
def pblockOf (m : MapEnt) : Nat := m.block + 65536 * (m.die + 256 * m.chan)

/-- A map entry that points at physical block `n`. -/
def mapEntOf (n : Nat) : MapEnt := { block := n % 65536, die := n / 65536 % 256, chan := n / 16777216 % 64, valid := true }

/-- The address field of a flash command (R375). -/
def flashCmdAddr (block page sector : Nat) : Nat := sector % 4 * 4096 + page % 4096 * 16384 + block % 65536 * 67108864

/-- A map entry in the eight bytes of Table 3.4. -/
def packMap (m : MapEnt) : Nat :=
  m.block % 65536 + m.die % 256 * 2 ^ 16 + m.chan % 64 * 2 ^ 24 + b2n m.valid * 2 ^ 30 + b2n m.relocating * 2 ^ 31
    + m.newBlock % 65536 * 2 ^ 32 + m.newDie % 256 * 2 ^ 48 + m.newChan % 64 * 2 ^ 56

/-- The map entry of eight bytes (Table 3.4). -/
def unpackMap (n : Nat) : MapEnt :=
  { block := bits n 0 16, die := bits n 16 8, chan := bits n 24 6, valid := bitAt n 30, relocating := bitAt n 31,
    newBlock := bits n 32 16, newDie := bits n 48 8, newChan := bits n 56 6 }

/-! ## The operation aperture (R210) -/

/-- First byte of aperture space. -/
def apBase : Nat := 0xFFFFFFF800000

/-- The address lies in aperture space. -/
def inAperture (addr : Nat) : Bool := decide (apBase ≤ addr)

/-- Partition whose aperture an aperture address lies in. -/
def apPart (addr : Nat) : Nat := (addr - apBase) / 65536

/-- Offset within the aperture. -/
def apOff (addr : Nat) : Nat := addr % 65536

/-! ## Requests -/

/-- Opcode of Table 2.2. -/
def atCode : AtOp → Nat
  | .add => 0x20 | .and => 0x21 | .or => 0x22 | .xor => 0x23 | .swap => 0x24
  | .min => 0x25 | .max => 0x26 | .umin => 0x27 | .umax => 0x28

/-- Opcode of a request (Table 2.2). -/
def kindCode : ReqKind → Nat
  | .loadLine => 0x01 | .loadStream _ => 0x02 | .storeLine _ => 0x10 | .storeMasked _ _ => 0x11 | .storeGuarded _ => 0x12
  | .atomic op _ => atCode op | .cas64 _ _ => 0x2C | .cas128 _ _ => 0x2D | .flushRange _ => 0x30 | .fence => 0x31
  | .publish .. => 0x32 | .opFlit _ => 0x40 | .unknown n => n

/-- Tagged requests of Table 2.2. -/
def kindTagged : ReqKind → Bool
  | .storeGuarded _ | .atomic _ _ | .cas64 _ _ | .cas128 _ _ | .publish .. => true
  | _ => false

/-- Write-class requests, which a FENCE covers (R66). -/
def kindWrite : ReqKind → Bool
  | .storeLine _ | .storeMasked _ _ | .storeGuarded _ | .atomic _ _ | .cas64 _ _ | .cas128 _ _ | .flushRange _ | .publish .. => true
  | _ => false

/-- Requests that read their range: loads. -/
def kindLoad : ReqKind → Bool
  | .loadLine | .loadStream _ => true
  | _ => false

/-- Bytes of the access at the header address that steps 4 and 5 check. -/
def kindLen : ReqKind → Nat
  | .loadStream n => n
  | .flushRange n => n
  | .atomic _ _ | .cas64 _ _ | .publish .. => 8
  | .cas128 _ _ => 16
  | _ => 64

/-- Response quanta of the full answer (R132): header and data in 16-byte quanta. -/
def kindQuanta : ReqKind → Nat
  | .loadLine => 5
  | .loadStream n => ceilDiv (16 + n) 16
  | .cas128 _ _ => 2
  | _ => 1

/-- Bytes a request is charged at step 8 (R157). -/
def kindCharge : ReqKind → Nat
  | .loadStream n => max 64 n
  | _ => 64

/-- Payload bytes that follow the 32-byte header (Table 2.2). -/
def kindPayload : ReqKind → Nat
  | .storeLine _ | .storeGuarded _ | .opFlit _ => 64
  | .storeMasked _ _ => 72
  | .atomic _ _ | .flushRange _ => 8
  | .cas64 _ _ => 16
  | .cas128 _ _ | .publish .. => 32
  | _ => 0

/-- Region or range operands aligned to 64 B and a non-zero multiple of 64 B long (R63). -/
def regionOk (base len : Nat) : Bool := base % 64 = 0 && len % 64 = 0 && len ≠ 0

/-- The guard word of a line (R62). -/
def guardWord (line : Bytes) : Word64 := BitVec.ofNat 64 (fieldAt line 0 8)

/-- Step 3 of Table 1.6 for a request outside aperture space (R27, R62, R63, R212). -/
def step3Ok (addr cls : Nat) (k : ReqKind) : Bool :=
  decide (cls < 7) && match k with
  | .loadLine | .storeLine _ | .storeMasked _ _ => decide (addr % 64 = 0)
  | .storeGuarded d => decide (addr % 64 = 0) && decide (guardWord d ≠ 0)
  | .loadStream n => decide (8 ≤ n ∧ n ≤ 4096 ∧ n % 8 = 0 ∧ addr % 8 = 0 ∧ addr % 4096 + n ≤ 4096)
  | .atomic _ _ | .cas64 _ _ => decide (addr % 8 = 0)
  | .cas128 _ _ => decide (addr % 16 = 0)
  | .flushRange n => regionOk addr n
  | .fence => true
  | .publish rb rl _ _ => decide (addr % 8 = 0) && regionOk rb rl
  | .opFlit _ | .unknown _ => false

/-- Step 3 for aperture space (R212, Table 7.1): OP_FLIT to a slot, loads of a status line. -/
def apStep3Ok (addr cls : Nat) (k : ReqKind) : Bool :=
  decide (cls < 7) && match k with
  | .opFlit _ => decide (apOff addr < 0x8000) && decide (addr % 64 = 0)
  | .loadLine => decide (0x8000 ≤ apOff addr) && decide (addr % 64 = 0)
  | .loadStream n => decide (0x8000 ≤ apOff addr) && decide (8 ≤ n ∧ n % 8 = 0 ∧ addr % 8 = 0 ∧ addr % 64 + n ≤ 64)
  | _ => false

/-- Completion status code (Table 2.7). -/
def statusCode : Status → Nat
  | .ok => 0 | .poison => 1 | .noAccess => 2 | .badKey => 3 | .staleTag => 4 | .fenceIncomplete => 5 | .versionConflict => 6
  | .partitionDown => 7 | .engineBusy => 8 | .unsupported => 9 | .targetLost => 0xA | .retryLater => 0xB

/-- The status a code of Table 2.7 names. -/
def statusOf : Nat → Status
  | 1 => .poison | 2 => .noAccess | 3 => .badKey | 4 => .staleTag | 5 => .fenceIncomplete | 6 => .versionConflict
  | 7 => .partitionDown | 8 => .engineBusy | 9 => .unsupported | 0xA => .targetLost | 0xB => .retryLater
  | _ => .ok

/-- The read-modify-write operations on 64-bit words (Table 2.2). -/
def atApply (op : AtOp) (old opa : Word64) : Word64 :=
  match op with
  | .add => old + opa
  | .and => old &&& opa
  | .or => old ||| opa
  | .xor => old ^^^ opa
  | .swap => opa
  | .min => if opa.toInt < old.toInt then opa else old
  | .max => if opa.toInt > old.toInt then opa else old
  | .umin => if opa.toNat < old.toNat then opa else old
  | .umax => if opa.toNat > old.toNat then opa else old

/-- The 16-byte response header (Table 2.3) and the data after it. -/
def packRsp (r : Rsp) : Bytes :=
  natLe 4 (r.opcode % 256 + statusCode r.status * 256 + r.load % 16 * 4096 + r.tag % 65536 * 65536)
    ++ natLe 4 (r.rid % 4096 + r.part % 128 * 4096 + b2n (r.data ≠ [] && !r.streamed) * 2 ^ 19)
    ++ natLe 8 r.result.toNat ++ (if r.streamed then [] else r.data)

/-- The 32-byte request header (Table 12.4). -/
def packReqHdr (h : ReqHdr) (opcode len : Nat) : Bytes :=
  natLe 4 (opcode % 256 + h.rid % 4096 * 2 ^ 8 + h.part % 128 * 2 ^ 20 + h.cls % 8 * 2 ^ 27 + b2n h.cmark * 2 ^ 30 + b2n h.poison * 2 ^ 31)
    ++ natLe 4 (h.tag % 65536 + len % 8192 * 2 ^ 16 + b2n h.reissue * 2 ^ 29)
    ++ natLe 8 (h.addr % 2 ^ 52) ++ natLe 4 h.key.toNat ++ zeros 12

/-- The payload Table 2.2 gives for a request. -/
def packPayload : ReqKind → Bytes
  | .loadLine | .loadStream _ | .fence | .unknown _ => []
  | .storeLine d | .storeGuarded d => slice d 0 64
  | .storeMasked d m => slice d 0 64 ++ natLe 8 m.toNat
  | .atomic _ a => natLe 8 a.toNat
  | .cas64 a b => natLe 8 a.toNat ++ natLe 8 b.toNat
  | .cas128 a b => natLe 16 a.toNat ++ natLe 16 b.toNat
  | .flushRange n => natLe 8 n
  | .publish rb rl e n => natLe 8 rb ++ natLe 8 rl ++ natLe 8 e.toNat ++ natLe 8 n.toNat
  | .opFlit f => natLe 64 f.toNat

/-- A request unit (R359). -/
def packReq (h : ReqHdr) (k : ReqKind) : Bytes :=
  packReqHdr h (kindCode k) (match k with | .loadStream n => n | _ => 0) ++ packPayload k

/-- Fabric address of plane-local offset `loc` on `plane`: the inverse of plane_local_offset (R10, R15). -/
def fabricOf (e : RangeEntry) (p plane loc : Nat) : Nat :=
  if e.pinned then e.base * mib2 + loc
  else
    let g := e.base * 512 / p + loc / 4096
    (g * p + (plane + p - fold16 g % p) % p) * 4096 + loc % 4096

end Sys2Proof.Machine
end

