-- ==== Sys2Proof/Machine/Ops.lean ====
section
/-! DEFINITION. The shared operations over the state: what the image says, ports and queues, pools, counters, reports, the LOAD field, tray
accesses, answers. Families of commands call these. -/

namespace Sys2Proof.Machine

/-- The three outcomes of a step, for this machine. -/
abbrev Outcome := Host.Outcome State Fault Refusal

/-! ## What is powered, what the image says -/

/-- The package is powered and not held in a reset (R509, R523, R443). -/
def live (s : State) : Bool := s.pwr.on && !s.pwr.heldCold && !s.pwr.heldWarm && !s.pwr.noRind

/-- What Paste alone does, a write or a read of its registers: nothing while no Paste runs (Table 15.1, R173, R387). -/
def byPaste (f : State → State) (s : State) : State := if s.mgmt.pasteUp then f s else s

/-- The DEVICE record in force. -/
def dev (s : State) : DeviceRec := s.img.device.getD {}

/-- P, the plane count of the domain (R10). -/
def planes (s : State) : Nat := max 1 (dev s).planes

/-- This plane's number. -/
def ownPlane (s : State) : Nat := (dev s).planeIndex

/-- The other plane of the pair. -/
def twinPlane (s : State) : Nat := if ownPlane s % 2 = 0 then ownPlane s + 1 else ownPlane s - 1

/-- This plane's role is odd (R10). -/
def ownOdd (s : State) : Bool := ownPlane s % 2 == 1

/-- The PORT record of a port. -/
def portRec (s : State) (p : Nat) : PortRec := agetD s.img.ports p {}

/-- The live part of a port. -/
def port (s : State) (p : Nat) : Port := agetD s.ports p {}

/-- `s` with port `p` changed by `f`. -/
def setPort (p : Nat) (f : Port → Port) (s : State) : State := { s with ports := amod s.ports p {} f }

/-- The port is UP. -/
def portUp (s : State) (p : Nat) : Bool := decide ((port s p).link = .up)

/-- The port has a protocol and role (Table 12.12). -/
def portIs (s : State) (p proto role : Nat) : Bool :=
  (aget s.img.ports p).isSome && (portRec s p).protocol == proto && (portRec s p).role == role

/-- The twin link's port, when the image gives this plane a twin. -/
def twinPort (s : State) : Option Nat := if (dev s).twinPresent then some (dev s).twinPort else none

/-- The twin is reachable: its link is UP (R427). -/
def twinUp (s : State) : Bool := match twinPort s with
  | some p => portUp s p
  | none => false

/-- The stripes this plane serves, with epoch and the FT of first service (R430). -/
def ownClaims (s : State) : List Claim :=
  (if s.twn.servesOwn then [{ oddStripe := ownOdd s, epoch := s.twn.epoch, ftFirst := s.twn.ownFirst }] else []) ++
  (if s.twn.servesTwin then [{ oddStripe := !ownOdd s, epoch := s.twn.adoptEpoch, ftFirst := s.twn.adoptFirst }] else [])

/-- State of a partition: 0 ABSENT, 1 ACTIVE, 2 DOWN (R20). -/
def partState (s : State) (p : Nat) : Nat := agetD s.pstate p 0

/-- The partition is ACTIVE. -/
def partActive (s : State) (p : Nat) : Bool := partState s p == 1

/-- The PARTITION record. -/
def partRec (s : State) (p : Nat) : PartRec := agetD s.img.parts p {}

/-- The requester record. -/
def reqRec (s : State) (rid : Nat) : ReqRec := agetD s.img.reqs rid {}

/-- Limits and sub as Paste has set them, or as the image has them (R399, R172). -/
def reqLimitOf (s : State) (rid : Nat) : Nat := ((aget s.tmc.liveReq rid).map (·.1)).getD (reqRec s rid).reqLimit
def subOf (s : State) (rid : Nat) : Nat := ((aget s.tmc.liveReq rid).map (·.2)).getD (reqRec s rid).sub
def partLimitOf (s : State) (p : Nat) : Nat := (aget s.tmc.livePart p).getD (partRec s p).partLimit

/-- The members of an interleave set. -/
def isetOf (s : State) (i : Nat) : List Nat := agetD s.img.isets i []

/-- The range entry of an index. -/
def rangeOf (s : State) (i : Nat) : RangeEntry := agetD s.img.ranges i {}

/-- Partitions that are ACTIVE, ascending. -/
def activeParts (s : State) : List Nat := (List.range 128).filter (partActive s)

/-- A range entry covers [addr, addr + len). -/
def covers (e : RangeEntry) (addr len : Nat) : Bool :=
  e.valid && decide (e.base * mib2 ≤ addr) && decide (addr + len ≤ (e.base + e.size) * mib2)

/-- The one valid range entry that covers the whole access, with its index (step 4). -/
def findRange (s : State) (addr len : Nat) : Option (Nat × RangeEntry) := s.img.ranges.find? fun e => covers e.2 addr len

/-- Rights a partition holds on a range (R22). -/
def rightsFor (e : RangeEntry) (p : Nat) : Rights := if e.owner = p then e.ownerRights else e.otherRights

/-- Plane that serves an address of a range (R10). -/
def servingPlane (s : State) (e : RangeEntry) (addr : Nat) : Nat :=
  if e.pinned then e.pinnedPlane else (selectPlane addr (planes s)).1

/-! ## Identifiers, free values, time -/

/-- The next identifier, taken. -/
def takeId (s : State) : Nat × State := (s.nextId, { s with nextId := s.nextId + 1 })

/-- A free value, taken: nothing constrains it. -/
def takeFree (s : State) : Nat × State := (Config.freeNat s.freeIx, { s with freeIx := s.freeIx + 1 })

/-- A free bit: something the spec leaves open. -/
def freeBit (s : State) : Bool × State := let r := takeFree s; (r.1 % 2 == 1, r.2)

/-- A random draw of Rind, taken (R452). -/
def takeDraw (s : State) : Nat × State := (Config.draw s.freeIx, { s with freeIx := s.freeIx + 1 })

/-- A random non-zero 32-bit key (R25, R213): a draw brought into 1 to 2^32 - 1. -/
def takeKey (s : State) : Word32 × State :=
  let d := takeDraw s
  (BitVec.ofNat 32 (d.1 % (2 ^ 32 - 1) + 1), d.2)

/-- FT in whole nanoseconds (R178, R179). -/
def ft (s : State) : Nat := s.ftm.ftFix / 2 ^ 40 % 2 ^ 64

/-- Picoseconds of FT below its nanoseconds (Table 12.7). -/
def ftPs (s : State) : Nat := s.ftm.ftFix % 2 ^ 40 * 1000 / 2 ^ 40

/-- Absolute slot number (Table 6.1). -/
def ftSlot (s : State) : Nat := ft s / 256

/-- Frame number (Table 6.1). -/
def ftFrame (s : State) : Nat := ft s / 2 ^ 24

/-- A frame in FT nanoseconds (R178). -/
def frameNs : Nat := 2 ^ 24

/-- `s` with the time unit changed. -/
def setFtm (f : Ftm → Ftm) (s : State) : State := { s with ftm := f s.ftm }

/-- The unit enters a lock state (Table 6.3): leaving LOCKED or HOLDOVER for ACQUIRING or FREE suspends the scheduled plane at once (R188), and
LOCKED counts its frames from the next frame boundary. -/
def enterFt (x : FtState) (s : State) : State :=
  setFtm (fun m => { m with
    state := x
    schedActive := if x = .acquiring ∨ x = .free then false else m.schedActive
    lockedFrom := if x = .locked ∧ m.state ≠ .locked then ceilDiv (ft s) frameNs else m.lockedFrom
    good := if x = .locked then m.good else 0 }) s

/-- The source is no longer qualified: LOCKED goes to HOLDOVER, ACQUIRING to FREE (Table 6.3). -/
def disqualify (s : State) : State :=
  let s := setFtm (fun m => { m with qualified := false }) s
  match s.ftm.state with
  | .locked => enterFt .holdover (setFtm (fun m => { m with lostAt := s.now }) s)
  | .acquiring => enterFt .free s
  | _ => s

/-! ## Counters -/

/-- A device-wide RC counter raised by `n`. -/
def bumpG (c : GCtr) (n : Nat) (s : State) : State :=
  if n = 0 then s else { s with gctr := amod s.gctr c 0 (· + BitVec.ofNat 64 n) }

/-- A port's RC counter raised by `n`. -/
def bumpP (p : Nat) (c : PCtr) (n : Nat) (s : State) : State :=
  if n = 0 then s else { s with pctr := amod s.pctr (p, c) 0 (· + BitVec.ofNat 64 n) }

/-- A partition total of telemetry raised by `n` (Table 16.6): 0 green, 1 yellow, 2 red bytes, 3 flits, 4 calvings, 5 BAD_KEY answers. -/
def bumpPart (part what n : Nat) (s : State) : State :=
  { s with mgmt := { s.mgmt with partTot := amod s.mgmt.partTot (part, what) 0 (· + n) } }

/-! ## Reports -/

/-- A message leaves the management side. -/
def tell (m : MgmtOut) (s : State) : State := { s with out := m :: s.out }

/-- Sessions that take events: an accepted HELLO, not a claim session (R484, R447). -/
def eventSessions (s : State) : List Sess := s.mgmt.sessions.filter fun x => x.helloOk && !x.claim

/-- An event goes to every session that takes events, in one sequence, or waits in the plane buffer of 4,096 (R484). While Paste is not
running nothing is sent or held (R501). -/
def emit (e : Ev) (s : State) : State :=
  if !s.mgmt.pasteUp then s
  else
    let n := s.mgmt.evSeq
    let ss := eventSessions s
    let full (x : Sess) : Bool := decide (4096 ≤ x.told) && Config.bufferFull x.sess n
    let s := { s with mgmt := { s.mgmt with evSeq := n + 1 } }
    if ss = [] then
      if s.mgmt.held.length < 4096 then { s with mgmt := { s.mgmt with held := s.mgmt.held ++ [(n, e)] } }
      else bumpG .eventLost 1 { s with mgmt := { s.mgmt with heldLost := s.mgmt.heldLost + 1 } }
    else ss.foldl (fun s x => if full x then bumpG .eventLost 1 s else tell (.event x.sess n e x.lost) s)
      { s with mgmt := { s.mgmt with sessions := s.mgmt.sessions.map fun x =>
        if !x.helloOk ∨ x.claim then x else if full x then { x with lost := x.lost + 1 } else { x with lost := 0, told := x.told + 1 } } }

/-- A sensor's reading, in quarter degrees. -/
def tempOf (s : State) (i : Nat) : Nat := s.pwr.temps.getD i 0

/-- The hottest sensor in quarter degrees, and the same as 16 bits of a register (Tables 14.3, 17.9). -/
def hottestQ (s : State) : Int := (List.range 16).foldl (fun (a : Int) i => max a (signed 16 (tempOf s i))) (-32768)
def hottest (s : State) : Nat := unsigned 16 (hottestQ s)

/-- The core die's sensor nearest a unit: the spec maps no unit to a sensor, so one reading is taken (assumption 30). -/
def nearestSensor (unitKind unit : Nat) : Nat := Config.freeNat (unitKind * 4096 + unit) % 16

/-- Contexts held on a unit (Table 14.3). -/
def ctxOnUnit (s : State) (kind unit : Nat) : Nat :=
  sumOf (s.eng.flits.map fun f => sumOf ((f.ctxs.filter fun c => c.kind = kind ∧ c.unit = unit).map (·.n)))

/-- A fault event is queued with its context (R417) and reported (R484). -/
def faultEvent (kind unitKind unit op part : Nat) (s : State) : State :=
  let (pct, s) := takeFree s
  let e : FaultEv := {
    kind := kind, unitKind := unitKind, unit := unit, op := op, part := part,
    tempQ := tempOf s (nearestSensor unitKind unit), tempMaxQ := hottest s, vddMv := s.pwr.mvs.getD 0 0,
    throttled := s.pwr.supplyThr || s.pwr.thermalThr, ctxBusy := ctxOnUnit s unitKind unit, issuePct := pct % 101, ft := ft s }
  let s := { s with flt := if s.flt.events.length < 256 then { s.flt with events := s.flt.events ++ [e] }
    else { s.flt with unqueued := s.flt.unqueued + 1 } }
  emit (.fault e) s

/-- An event of the twin is queued (R417, Table 14.3) and reported (R484), by the code of TWN_STATE or 8 for an invariant failure, 9 for a mismatch at S2, 10
for an abandoned drain. What its record's unit fields hold the spec does not say: zeros, and the code as op (assumption 57). -/
def twinEvent (n : Nat) (s : State) : State := emit (.twin n) (faultEvent 7 0 0 n 0 s)

/-- A flash event is queued, at most 64 (R116), and reported (R484). -/
def flashEvent (kind member range : Nat) (odd : Bool) (unit : Nat) (s : State) : State :=
  let e : FtlEvent := { kind := kind, member := member, range := range, odd := odd, unit := unit }
  let s := if s.ftl.events.length < 64 then { s with ftl := { s.ftl with events := s.ftl.events ++ [e] } } else s
  emit (.flash e) s

/-! ## The LOAD field (R72) -/

/-- Cells of the banks in service (R125, R129). -/
def vatCells (s : State) : Nat := 8192 * (64 - s.vat.bankFail.length)

/-- Cells in use or reserved in all five pools (R72). -/
def vatUsed (s : State) : Nat := s.vat.shr + s.vat.sch + s.vat.eng + s.vat.ctl + ceilDiv s.vat.rsp 16

/-- Bytes a port holds in Whey. -/
def wheyOf (q : Port) : Nat := 256 * sumOf ((q.stg.filter (·.spilled)).map (·.units))

/-- Bytes held in Whey. -/
def wheyUsed (s : State) : Nat := sumOf (s.ports.map fun e => wheyOf e.2)

/-- Bytes of the Whey carve. -/
def wheyCarve (s : State) : Nat := (dev s).wheyGib * 2 ^ 30

/-- A supply or thermal throttle is active. -/
def throttled (s : State) : Bool := s.pwr.supplyThr || s.pwr.thermalThr

/-- Device level of the present state (Table 2.6). -/
def levelNow (s : State) : Nat :=
  if 4 * wheyUsed s > wheyCarve s ∨ throttled s then 3
  else if 4 * vatUsed s ≥ 3 * vatCells s ∨ wheyUsed s > 0 then 2
  else if 2 * vatUsed s ≥ vatCells s then 1 else 0

/-- The device state is tracked continuously: the running worst of the window in progress (R72). -/
def track (s : State) : State :=
  { s with mem := { s.mem with
      winLevel := max s.mem.winLevel (levelNow s)
      winVat := max s.mem.winVat (vatUsed s * 100 / max 1 (vatCells s))
      winWhey := max s.mem.winWhey (wheyUsed s * 100 / max 1 (wheyCarve s))
      winThrottle := s.mem.winThrottle || throttled s } }

/-- Bits [1:0] of LOAD: the last completed window, or the worst since tracking began (R72). -/
def deviceLevel (s : State) : Nat := if s.mem.loadDone then s.mem.loadLevel else s.mem.winLevel

/-- A partition's own level for `n` outstanding requests (Table 2.6). -/
def ownLevel (s : State) (part n : Nat) : Nat := min 3 (4 * n / max 1 (partLimitOf s part))

/-- The LOAD field of an answer to `part`; `self` is 1 when the request answered is itself outstanding (R72). -/
def loadField (s : State) (part self : Nat) : Nat := 4 * ownLevel s part (agetD s.mem.outPart part 0 - self) + deviceLevel s

/-! ## Running a command -/

/-- What a command leaves, of `t` that its effect made of `s`: the device state is tracked, and neither the queue nor the 1 ns counter is a
command's to change. -/
def afterCmd (s t : State) : State := { track t with pending := s.pending, now := s.now }

/-- A command's effect on a package that is powered and out of reset; nothing otherwise. -/
def run (f : State → State) (s : State) : Outcome := .next (afterCmd s (if live s then f s else s))

/-! ## Pools and queues -/

/-- Cells of the SHR pool: the remainder (Table 4.3), less the banks out of service (R129). -/
def shrCells (s : State) : Nat := vatCells s - (dev s).rspCells - (dev s).schCells - (dev s).engCells - 8192

/-- Free SHR cells. -/
def shrFree (s : State) : Nat := shrCells s - s.vat.shr

/-- Cells of a pool. -/
def poolCells (s : State) : Pool → Nat
  | .rsp => (dev s).rspCells | .sch => (dev s).schCells | .eng => (dev s).engCells | .ctl => 8192 | .shr => shrCells s

/-- Use of a pool raised by `n` cells (quanta for RSP). -/
def poolTake (p : Pool) (n : Nat) (s : State) : State :=
  match p with
  | .rsp => { s with vat := { s.vat with rsp := s.vat.rsp + n } }
  | .sch => { s with vat := { s.vat with sch := s.vat.sch + n } }
  | .eng => { s with vat := { s.vat with eng := s.vat.eng + n } }
  | .ctl => { s with vat := { s.vat with ctl := s.vat.ctl + n } }
  | .shr => { s with vat := { s.vat with shr := s.vat.shr + n } }

/-- Use of a pool lowered by `n`. -/
def poolGive (p : Pool) (n : Nat) (s : State) : State :=
  match p with
  | .rsp => { s with vat := { s.vat with rsp := s.vat.rsp - n } }
  | .sch => { s with vat := { s.vat with sch := s.vat.sch - n } }
  | .eng => { s with vat := { s.vat with eng := s.vat.eng - n } }
  | .ctl => { s with vat := { s.vat with ctl := s.vat.ctl - n } }
  | .shr => { s with vat := { s.vat with shr := s.vat.shr - n } }

/-- Class queue `c` of a port. -/
def queue (q : Port) (c : Nat) : List Desc := q.q.getD c []

/-- Depth of a queue in cells (R135, R143). -/
def depth (l : List Desc) : Nat := sumOf (l.map (·.cells))

/-- A port with class queue `c` replaced. -/
def setQueue (c : Nat) (l : List Desc) (q : Port) : Port := { q with q := q.q.set c l }

/-- Admission code of a class: the fraction alpha_k in 64ths of the free cells (R135). -/
def alpha64 (s : State) (cls : Nat) : Nat := 2 ^ ((dev s).alpha.getD cls 6)

/-- A unit of `cells` may enter class queue `cls` of port `p` (R135); a yellow one under half alpha (Table 5.2). -/
def admits (s : State) (p cls cells : Nat) (yellow : Bool) : Bool :=
  decide ((depth (queue (port s p) cls) + cells) * 64 * (if yellow then 2 else 1) ≤ alpha64 s cls * shrFree s)
    && decide (cells ≤ shrFree s) && decide (s.vat.desc < 1048576)

/-- A descriptor taken from the store (R138). -/
def descTake (s : State) : State := { s with vat := { s.vat with desc := s.vat.desc + 1 } }

/-- `n` descriptors given back. -/
def descGive (n : Nat) (s : State) : State := { s with vat := { s.vat with desc := s.vat.desc - n } }

/-- A unit joins class queue `c` of port `p`; its cells are already counted. -/
def enqueue (p c : Nat) (d : Desc) (s : State) : State :=
  descTake (setPort p (fun q => setQueue c (queue q c ++ [d]) q) s)

/-- A unit joins the control queue of port `p` with its CTL cells. -/
def ctlPut (p : Nat) (it : QItem) (bytes : Nat) (s : State) : State :=
  let (n, s) := takeId s
  let d : Desc := { uid := n, item := it, pool := .ctl, cells := ceilDiv bytes 256, bytes := bytes }
  poolTake .ctl d.cells (descTake (setPort p (fun q => { q with ctlQ := q.ctlQ ++ [d] }) s))

/-- A control unit joins the control queue when the CTL pool has its cells, and waits for them otherwise (Table 4.3). -/
def enqueueCtl (p : Nat) (it : QItem) (bytes : Nat) (s : State) : State :=
  if (port s p).ctlWait = [] ∧ s.vat.ctl + ceilDiv bytes 256 ≤ 8192 then ctlPut p it bytes s
  else setPort p (fun q => { q with ctlWait := q.ctlWait ++ [(it, bytes)] }) s

/-- Control units that wait for CTL cells join their queue in order. -/
def wakeCtl (p : Nat) (s : State) : State :=
  let w := (port s p).ctlWait
  if w = [] then s
  else w.foldl (fun s x => enqueueCtl p x.1 x.2 s) (setPort p (fun q => { q with ctlWait := [] }) s)

/-- Cells of control units that the twin has accepted, their last flits being acknowledged, return to the CTL pool (Table 4.3). -/
def ctlFree (p : Nat) (s : State) : State :=
  let q := port s p
  let held (x : Nat × Nat) : Bool := q.unacked.any fun f => f.1 == x.1
  let gone := q.ctlHeld.filter fun x => !held x
  if gone = [] then s
  else wakeCtl p (poolGive .ctl (sumOf (gone.map (·.2))) (setPort p (fun q => { q with ctlHeld := q.ctlHeld.filter held }) s))

/-- A message to the twin over the twin link; nothing when the twin is unreachable. A TWIN unit's size is internal to the pair (R354): one
cell each (assumption 12). -/
def sendTwin (m : TwinMsg) (s : State) : State :=
  match twinPort s with
  | some p => if portUp s p then enqueueCtl p (.twin m) 256 { s with twn := { s.twn with sentAt := s.now } } else s
  | none => s

/-- Something leaves a port. -/
def wireOut (p : Nat) (w : Wire) (s : State) : State := { s with wire := (p, w) :: s.wire }

/-- Application cores in service (Table 16.12). -/
def coresUp (s : State) : Nat := 6 - s.mgmt.coresOut.length

/-! ## The pair key (R454, Table 15.3) -/

/-- The running Rind image and the running Paste image, when Paste runs. -/
def rindImage (s : State) : Bytes := (if s.nv.rindSlotB then s.nv.rindB else s.nv.rindA).bytes
def pasteImage (s : State) : Bytes := (if s.nv.pasteSlotB then s.nv.pasteB else s.nv.pasteA).bytes

/-- The CDI of the running Rind (R443). -/
def cdiOf (s : State) : Bytes := match s.pwr.cdi with
  | some (b, v) => Config.cdi b v
  | none => []

/-- Certificate slot 0 (Table 15.2): product CA, DeviceID and alias. -/
def chainOf (s : State) : Bytes := Config.certChain ++ Config.aliasCert (cdiOf s)

/-- What this plane shows its twin. -/
def twinSelf (s : State) : TwinId := { chain := chainOf s, owners := s.nv.ownerKeys }

/-- The checks of R454: the twin's alias chain leads to the Aeddun root, and both parts run under the same owner key set, in whatever order it is held. -/
def twinIdOk (s : State) (t : TwinId) : Bool :=
  Config.aliasOk t.chain && (t.owners.all fun k => decide (k ∈ s.nv.ownerKeys)) && s.nv.ownerKeys.all fun k => decide (k ∈ t.owners)

/-- A message of the pair as it leaves, sealed under the pair key with the next message counter. -/
def sealTwin (m : TwinMsg) (s : State) : Wire := .twin { key := s.twn.pairKey.getD 0, ctr := s.twn.msgCtr, msg := m }

/-- The message counter moves on: each is used once (R454). -/
def nextCtr (s : State) : State := { s with twn := { s.twn with msgCtr := s.twn.msgCtr + 1 } }

/-! ## Rates and caps -/

/-- A lane rate in quarters of a Gb/s or GT/s (Table 12.12). -/
def laneRate : Nat → Nat
  | 0 => 10 | 1 => 20 | 2 => 32 | 3 => 64 | 4 => 128 | 5 => 256 | 6 => 425 | _ => 850

/-- Lanes and rate in use: those trained, or those configured while the port is not UP. -/
def lanesNow (s : State) (p : Nat) : Nat × Nat :=
  let q := port s p
  if q.link = .up then (q.widthNow, q.rateNow) else ((portRec s p).width, (portRec s p).maxRate)

/-- Payload rate of a port in bits per 2 us of 16-byte quanta, times 8,704: rate x 125 / 136 (R132, chapter 12). -/
def quantaScaled (s : State) (p : Nat) : Nat := let l := lanesNow s p; laneRate l.2 * l.1 * 31250

/-- Payload rate in MB/s, rounded down: rate x 125 / 136 / 8 bits (R132). -/
def payloadMB (s : State) (p : Nat) : Nat := let l := lanesNow s p; laneRate l.2 * l.1 * 125000 / (4 * 136 * 8)

/-- Set bits among 2^d bits. -/
def popTree : Nat → Nat → Nat
  | 0, n => n % 2
  | d + 1, n => if n = 0 then 0 else popTree d (n % 2 ^ 2 ^ d) + popTree d (n / 2 ^ 2 ^ d)

/-- Egress slots a port gives class 7 (R194). -/
def egressSlots (s : State) (p : Nat) : Nat := popTree 16 (agetD s.ftm.active.maps p 0)

/-- rsp_cap of a port in quanta (R132): zero for TRAY and UPLINK. -/
def rspCap (s : State) (p : Nat) : Nat :=
  if (portRec s p).role = 1 ∨ (portRec s p).role = 3 then 0
  else quantaScaled s p * (65536 - egressSlots s p) / (8704 * 65536)

/-! ## Outstanding counts (R153) -/

/-- A request of `rid` in `part` becomes outstanding. -/
def outInc (rid part : Nat) (s : State) : State :=
  { s with mem := { s.mem with outReq := amod s.mem.outReq rid 0 (· + 1), outPart := amod s.mem.outPart part 0 (· + 1) } }

/-- Its response has been sent. -/
def outDec (rid part : Nat) (s : State) : State :=
  { s with mem := { s.mem with outReq := amod s.mem.outReq rid 0 (· - 1), outPart := amod s.mem.outPart part 0 (· - 1) } }

/-! ## Checks of flits and frames -/

/-- Eight steps of a reflected CRC register. -/
def crcBits (poly : Nat) : Nat → Nat → Nat
  | 0, c => c
  | n + 1, c => crcBits poly n (if c % 2 = 1 then c / 2 ^^^ poly else c / 2)

/-- A reflected CRC-32 with initial value and final XOR all ones. -/
def crc32 (poly : Nat) (b : Bytes) : Nat := b.foldl (fun c x => crcBits poly 8 (c ^^^ x.toNat)) 0xFFFFFFFF ^^^ 0xFFFFFFFF

/-- CRC-32C, polynomial 0x1EDC6F41 (R356). -/
def crc32c (b : Bytes) : Nat := crc32 0x82F63B78 b

/-- The Ethernet frame check sequence, the CRC-32 of IEEE 802.3. -/
def fcs (b : Bytes) : Bytes := natLe 4 (crc32 0xEDB88320 b)

/-! ## Flits (R356, R358, R366) -/

/-- A flit of Table 12.2. -/
def packFlit (fseq : Nat) (stream : Bool) (body : Bytes) : Bytes :=
  let b := natLe 2 (fseq % 1024 + 1024 * b2n stream) ++ slice body 0 250
  b ++ natLe 4 (crc32c b)

/-- The bodies a unit takes: each unit begins a flit body, and what the last leaves free is padding. -/
def bodies : Nat → Bytes → List Bytes
  | 0, _ => []
  | n + 1, b => if b = [] then [] else b.take 250 :: bodies n (b.drop 250)

/-- A NULL flit (Table 12.2): the bit, no sequence number, a body of padding. -/
def nullFlit : Bytes := let b := natLe 2 0x800 ++ zeros 250; b ++ natLe 4 (crc32c b)

/-- Flits numbered from `n`. -/
def numberFlits (stream : Bool) : Nat → List Bytes → List (Nat × Bytes)
  | _, [] => []
  | n, b :: t => (n % 1024, packFlit n stream b) :: numberFlits stream ((n + 1) % 1024) t

/-- A Bamom port keeps at most 512 unacknowledged flits (R366): `n` more are within them. -/
def flitsFit (s : State) (p n : Nat) : Bool := (portRec s p).protocol != 1 || decide ((port s p).unacked.length + n ≤ 512)

/-- FEC codewords that a port has corrected, and could not correct, since the last unit of it that the model sees: two free numbers, as no command of the
table tells of a codeword (assumption 50). -/
def fecSeen (p : Nat) (s : State) : State :=
  let (a, s) := takeFree s
  let (b, s) := takeFree s
  bumpP p .fecUnc b (bumpP p .fecCorr a s)

/-- A unit leaves a port: it is recorded on the wire, and a Bamom port keeps its flits until they are acknowledged (R366). -/
def sendUnit (p : Nat) (stream : Bool) (bytes : Bytes) (w : Wire) (s : State) : State :=
  let s := wireOut p w s
  if (portRec s p).protocol = 1 then
    let fl := numberFlits stream (port s p).txSeq (bodies (bytes.length / 250 + 1) bytes)
    setPort p (fun q => { q with
      unacked := q.unacked ++ fl, txSeq := (q.txSeq + fl.length) % 1024, ackAt := if q.unacked = [] then s.now else q.ackAt }) s
  else s

/-- A link item's bytes (Table 12.7). -/
def packItem : LinkItem → Bytes
  | .ack f => natLe 8 (0xF0 + f % 1024 * 256)
  | .nak f => natLe 8 (0xF1 + f % 1024 * 256)
  | .credit r m => natLe 8 (0xF2 + r % 4096 * 2 ^ 8 + m % 4096 * 2 ^ 20)
  | .tos ev tp t e1p e1 e2p e2 =>
    natLe 8 (0xF3 + b2n ev * 256 + (tp % 1024 + e1p % 1024 * 2 ^ 10 + e2p % 1024 * 2 ^ 20) * 2 ^ 32) ++ natLe 8 t ++ natLe 8 e1 ++ natLe 8 e2
  | .grant a ps x => natLe 8 (0xF4 + a % 2 ^ 24 * 2 ^ 32) ++ natLe 8 (ps % 65536 + x % 65536 * 65536)
  | .cap role gen width req msg kib dev _ =>
    natLe 8 (0xF5 + role % 4 * 2 ^ 8 + gen % 4 * 2 ^ 10 + width % 32 * 2 ^ 12 + (req % 4096 + msg % 4096 * 2 ^ 12) * 2 ^ 32)
      ++ natLe 4 (kib % 2048) ++ natLe 4 dev ++ zeros 48
  | .down c => natLe 8 (0xF6 + c % 16 * 256)
  | .narrow m f => natLe 8 (0xF7 + m % 65536 * 256 + f % 1024 * 2 ^ 32)

/-- A link item leaves a port, or waits behind those that wait for room among its 512 flits. -/
def sendItem (p : Nat) (i : LinkItem) (s : State) : State :=
  if (port s p).items = [] ∧ flitsFit s p 1 then sendUnit p false (packItem i) (.item i) s
  else setPort p (fun q => { q with items := q.items ++ [i] }) s

/-- Link items that wait leave as far as there is room, oldest first. -/
def sendItems (p : Nat) (is : List LinkItem) (s : State) : State :=
  is.foldl (fun s i => sendItem p i s) (setPort p (fun q => { q with items := [] }) s)

/-! ## Requests and answers -/

/-- A request in flight. -/
def findReq (s : State) (id : Nat) : Option Req := s.mem.reqs.find? fun r => r.id = id

/-- `s` with the request's record changed. -/
def setReq (id : Nat) (f : Req → Req) (s : State) : State :=
  { s with mem := { s.mem with reqs := modFirst (fun r => r.id = id) f s.mem.reqs } }

/-- `s` without the request's record. -/
def dropReq (id : Nat) (s : State) : State :=
  { s with mem := { s.mem with reqs := s.mem.reqs.filter fun r => r.id ≠ id } }

/-- The request's port, for its answer and its staging. -/
def holdsStaging (r : Req) : Bool := match r.src with
  | .bamom | .cxl _ => true
  | _ => false

/-- Units of 256 B held in a port's staging. -/
def stgUsed (q : Port) : Nat := sumOf ((q.stg.filter fun u => !u.spilled).map (·.units))

/-- A FIFO has units in Whey. -/
def fifoSpilled (q : Port) (fifo : Nat) : Bool := q.stg.any fun u => u.fifo == fifo && u.spilled

/-- A port's share of Whey in bytes (R120): its quota, or an equal share of the carve. -/
def wheyQuota (s : State) (p : Nat) : Nat :=
  if (portRec s p).wheyMib = 0 then wheyCarve s / max 1 (s.img.ports.filter fun e => decide (e.2.protocol ≠ 0)).length else (portRec s p).wheyMib * 2 ^ 20

/-- REQ and MSG credits a requester port's far end is owed: those offered, less those it holds and those its staged units take. -/
def owed (q : Port) : Nat × Nat :=
  let held (f : Nat) : Nat := sumOf ((q.stg.filter fun u => u.fifo == f).map (·.units))
  (q.offReq - q.farReq - held 0, q.offMsg - q.farMsg - held 2)

/-- 256-byte units that staging and a port's share of Whey can still take beside the credits the far end holds (R120). -/
def creditRoom (s : State) (p : Nat) : Nat :=
  let q := port s p
  (1024 - stgUsed q) + (min (wheyQuota s p - wheyOf q) (wheyCarve s - wheyUsed s)) / 256 - q.farReq - q.farMsg

/-- Credits a freed staging unit returns, with those owed from before (R364): as many as staging and Whey can take (R120), and none while the power state
withholds them (Table 17.4). -/
def returnCredits (p : Nat) (req msgs : Nat) (s : State) : State :=
  let q := port s p
  let r := min (max req (owed q).1) (creditRoom s p)
  let m := min (max msgs (owed q).2) (creditRoom s p - r)
  if portIs s p 1 0 && q.link = .up && !q.idle && decide (s.pwr.pstate = 0) && decide (0 < r + m) then
    sendItem p (.credit r m) (setPort p (fun q => { q with farReq := q.farReq + r, farMsg := q.farMsg + m }) s)
  else s

/-- A table of the image with the records that Paste has written over it (R399). -/
def liveOver {α : Type} (live img : List (Nat × α)) : List (Nat × α) := live ++ img.filter fun e => (aget live e.1).isNone

/-- The policers and the shapers that hold now. -/
def policersNow (s : State) : List (Nat × PolicerRec) := liveOver s.tmc.livePol s.img.policers
def shapersNow (s : State) : List (Nat × ShaperRec) := liveOver s.tmc.liveShp s.img.shapers
def shaperNow (s : State) (i : Nat) : ShaperRec := agetD (shapersNow s) i {}

/-- A policer's index (R156). -/
def polIndex (part cls sub : Nat) : Nat := part * 64 + cls * 8 + sub

/-- A policer whose tp is below zero stands behind some window of a CXL port (R160). -/
def cxlDebt (s : State) (p : Nat) : Bool :=
  s.img.windows.any fun w => w.2.valid && w.2.port == p &&
    (let r := reqRec s w.2.rid
     decide ((agetD s.tmc.pols (polIndex r.part (portRec s p).cxlClass (subOf s w.2.rid)) {}).tp < 0))

/-- A CXL port returns no request credits: it is in debt (R160), or neither staging nor its share of Whey takes another unit (R120). -/
def cxlShut (s : State) (p : Nat) : Bool :=
  cxlDebt s p || (decide (1024 ≤ stgUsed (port s p)) && decide (min (wheyQuota s p - wheyOf (port s p)) (wheyCarve s - wheyUsed s) < 256))

/-- The CXL.mem transactions that a host port's staging holds: all of them, and the writes with their data. -/
def cxlStaged (s : State) (p : Nat) : Nat × Nat :=
  let us := (port s p).stg.filter fun u => u.fifo == 0
  let write (u : StgUnit) : Bool := match u.item with
    | .req id => (findReq s id).any fun r => !kindLoad r.kind
    | _ => true
  (us.length, (us.filter write).length)

/-- A host port gives back the credits of the transactions that have left its staging (Table 12.10), the request credits only while it withholds none
(R160, R120, Table 17.4). -/
def cxlReturn (p : Nat) (s : State) : State :=
  if portIs s p 2 0 && portUp s p then
    let n := cxlStaged s p
    setPort p (fun q => { q with
      cxlReq := if q.withheld ∨ q.idle ∨ s.pwr.pstate ≠ 0 then q.cxlReq else 128 - n.1
      cxlDat := 128 - n.2 }) s
  else s

/-- The credits of a CXL port are withheld, or flow again. -/
def cxlCredits (p : Nat) (s : State) : State :=
  let x := cxlShut s p
  if (portRec s p).protocol = 2 ∧ x ≠ (port s p).withheld then
    let s := setPort p (fun q => { q with withheld := x }) s
    cxlReturn p (if portUp s p then wireOut p (.cxlCredits (!x)) s else s)
  else cxlReturn p s

/-- The staging unit of a request is freed. -/
def freeStaging (p id : Nat) (s : State) : State :=
  match (port s p).stg.find? fun u => u.item = .req id with
  | none => s
  | some u => cxlCredits p (returnCredits p u.units 0 (setPort p (fun q => { q with stg := q.stg.filter fun x => x.item ≠ .req id }) s))

/-- A response that a port discards (R144): its quanta are released, and its request is no longer outstanding. -/
def loseRsp (p res : Nat) (counted : Bool) (rid part : Nat) (s : State) : State :=
  let s := poolGive .rsp res (setPort p (fun q => { q with rspUsed := q.rspUsed - res }) s)
  if counted then outDec rid part s else s

/-- A response joins the response queue of port `p` (R133, R134); `res` quanta are already reserved for it. A port that is down takes none:
the response is discarded (R144). -/
def queueRsp (p id res : Nat) (counted : Bool) (r : Rsp) (s : State) : State :=
  let need := max res (ceilDiv (16 + r.data.length) 16)
  if portUp s p then
    let (n, s) := takeId s
    let d : Desc := { uid := n, item := .rsp id r, pool := .rsp, cells := need, bytes := 16 + r.data.length, part := r.part, counted := counted }
    let s := poolTake .rsp (need - res) s
    descTake (setPort p (fun q => { q with rspQ := q.rspQ ++ [d], rspUsed := q.rspUsed + (need - res) }) s)
  else loseRsp p res counted r.rid r.part s

/-- The status line of a slot. -/
def lineAt (s : State) (part slot : Nat) : SlotLine := agetD s.eng.lines (part, slot) {}

/-- The 64 bytes of a status line (Table 7.7). -/
def packLine (l : SlotLine) : Bytes :=
  natLe 16 l.record.toNat ++ natLe 16 l.result16.toNat ++ natLe 4 (l.state % 4 + 4 * b2n l.cmplLost)
    ++ natLe 4 (l.cookie % 65536 + l.seq % 65536 * 65536)
    ++ natLe 4 (statusCode l.refuseStatus + l.refuseCookie % 65536 * 65536) ++ zeros 20

/-- An operation flit's end is known; ENGINE_COMPLETION writes its record (R227). -/
def endFlit (part slot : Nat) (e : FlitEnd) (s : State) : State :=
  { s with eng := { s.eng with flits := modFirst (fun f => f.part = part ∧ f.slot = slot) (fun f =>
      if f.fin.isSome then f else { f with fin := some e, todo := [], pol := 0 }) s.eng.flits } }

/-- The answer to a forwarded request joins the twin link's response queue (R13, R132). -/
def queueTwinRsp (ref res : Nat) (r : Rsp) (s : State) : State :=
  match twinPort s with
  | none => s
  | some p =>
    let need := max res (ceilDiv (16 + r.data.length) 16)
    if portUp s p then
      let (n, s) := takeId s
      let d : Desc := { uid := n, item := .twin (.fwdRsp ref r), pool := .rsp, cells := need, bytes := 16 + r.data.length, part := r.part }
      let s := poolTake .rsp (need - res) { s with twn := { s.twn with sentAt := s.now } }
      descTake (setPort p (fun q => { q with rspQ := q.rspQ ++ [d], rspUsed := q.rspUsed + (need - res) }) s)
    else loseRsp p res false r.rid r.part s

/-- An engine access has come back: its bytes wait for the context, a write is done, or the flit learns of the failure (R222). -/
def engBack (part slot req : Nat) (st : Status) (data : Bytes) (s : State) : State :=
  match s.eng.flits.find? fun f => f.part = part ∧ f.slot = slot with
  | none => s
  | some f => match f.out.find? fun o => o.req = req with
    | none => s
    | some o =>
      let bad : Option (Status × Nat) :=
        if st = .ok ∨ (st = .poison ∧ !o.write) then f.failed
        else if st = .poison then some (.poison, 0x0B) else some (.targetLost, 0x0D)
      let g := { f with
        out := f.out.filter fun o => o.req ≠ req
        cache := if o.write then f.cache else f.cache ++ [(o.addr, if st = .ok then data else zeros o.len, decide (st ≠ .ok))]
        failed := bad }
      poolGive .eng o.cells
        { s with eng := { s.eng with flits := modFirst (fun f => f.part = part ∧ f.slot = slot) (fun _ => g) s.eng.flits } }

/-! ### Gateway frames (R382 to R386) -/

/-- A gateway frame leaves by one uplink of the link aggregation group (R381, R385); it waits in that port's class 0 queue, or is dropped when that does not
take it (R135, assumption 14). -/
def sendGw (h : GwHdr) (s : State) : State :=
  let ups := (s.img.ports.map (·.1)).filter fun p => portIs s p 3 3 && portUp s p
  match ups[Config.lagHash ((natLe 6 h.peerMac).reverse ++ (natLe 6 Config.gwMac).reverse ++ natLe 2 h.vid) % max 1 ups.length]? with
  | none => s
  | some p =>
    let (n, s) := takeId s
    let len := max 64 (54 + h.data.length)
    if !admits s p 0 (ceilDiv len 256) false then bumpP p .dropAdmit 1 s
    else enqueue p 0 { uid := n, item := .gateway h, pool := .shr, cells := ceilDiv len 256, bytes := len } (poolTake .shr (ceilDiv len 256) s)

/-- A gateway block. -/
def gwBlockAt (s : State) (w b : Nat) : GwBlock := agetD s.eth.blocks (w, b) {}

/-- `s` with a gateway block changed. -/
def setGwBlock (w b : Nat) (f : GwBlock → GwBlock) (s : State) : State :=
  { s with eth := { s.eth with blocks := amod s.eth.blocks (w, b) {} f } }

/-- A gateway frame for piece `p` of a local block, with the next sequence number. -/
def gwSend (w b p op : Nat) (data : Bytes) (s : State) : State :=
  let g := agetD s.img.gwWins w {}
  let s := setGwBlock w b (fun x => { x with sends := amod x.sends p 0 (· + 1), sentAt := aset x.sentAt p s.now }) s
  sendGw {
    op := op, peerMac := g.peerMac, peerDomain := g.peerDomain, window := w, block := b, piece := p, seq := s.eth.seq, ok := true,
    addr := g.remoteBase * mib2 + b * 65536 + p * 4096, key := g.remoteKey, data := data, vid := g.vid }
    { s with eth := { s.eth with seq := s.eth.seq + 1 } }

/-- A block whose pieces cannot be moved becomes FAILED (R385). -/
def gwBlockFail (w b : Nat) (s : State) : State :=
  bumpG .gwFail 1 (setGwBlock w b (fun x => { x with state := .failed, pieces := [], sends := [] }) s)

/-- A local access of a block has ended: a push sends the piece it read, a pull counts the piece written when its last line is, and the
block is CLEAN and counted as pulled once every piece has been. -/
def gwLocal (r : Req) (w b p : Nat) (st : Status) (data : Bytes) (s : State) : State :=
  let x := gwBlockAt s w b
  if st ≠ .ok then (if x.state = .fetching ∨ x.state = .pushing then gwBlockFail w b s else s)
  else if kindLoad r.kind then (if x.state = .pushing then gwSend w b p 1 data s else s)
  else if x.state = .fetching ∧ ¬s.mem.reqs.any (fun q => decide (q.src = r.src) && !q.released) then
    let ps := addOnce x.pieces p
    if ps.length = 16 then bumpG .gwPull 1 (setGwBlock w b (fun x => { x with pieces := ps, state := .clean }) s)
    else setGwBlock w b (fun x => { x with pieces := ps }) s
  else s

/-- A request made for a gateway peer has been answered (R386): a pull returns its piece, a push is acknowledged when every store of it has
completed OK. -/
def gwAnswer (r : Req) (st : Status) (data : Bytes) (s : State) : State :=
  match s.eth.exports.find? fun e => e.1 = r.id with
  | none => s
  | some (_, h) =>
    let s := { s with eth := { s.eth with exports := s.eth.exports.filter fun e => e.1 ≠ r.id } }
    if h.op = 0 then sendGw { h with op := 2, ok := decide (st = .ok), data := data } s
    else if st ≠ .ok then { s with eth := { s.eth with exports := s.eth.exports.filter fun e => e.2 ≠ h } }
    else if s.eth.exports.any (fun e => e.2 = h) then s
    else sendGw { h with op := 3, ok := true, data := [] } s

/-- A sector of the row that a dataset load reads has come back (R109). -/
def dsBack (target off : Nat) (st : Status) (data : Bytes) (s : State) : State :=
  { s with ftl := { s.ftl with loads := modFirst (fun l => l.target = target) (fun l => { l with
      buf := l.buf ++ [(off, data)], left := l.left - 1, failed := l.failed || decide (st ≠ .ok) }) s.ftl.loads } }

/-- A part of a stream's unit has come back (R199); one that cannot be read is POISON for every member (R115). -/
def strmBack (schedId slot off : Nat) (st : Status) (data : Bytes) (s : State) : State :=
  { s with ftm := { s.ftm with units := modFirst (fun u => u.schedId = schedId ∧ u.slot = slot) (fun u => { u with
      buf := u.buf ++ [(off, data)], left := u.left - 1, poison := u.poison || decide (st ≠ .ok) }) s.ftm.units } }

/-- What an answer of `r` looks like on the wire. -/
def rspOf (s : State) (r : Req) (st : Status) (res : Word64) (data : Bytes) : Rsp :=
  { opcode := kindCode r.kind, status := st, load := loadField s r.hdr.part (b2n r.counted), tag := r.hdr.tag, rid := r.hdr.rid,
    part := r.hdr.part, result := res, data := data,
    streamed := match r.kind with
      | .loadStream _ => data ≠ []
      | _ => false }

/-- The answer goes to the port the request came in by, which discards it when it has gone down since (R144). -/
def portAnswer (r : Req) (x : Rsp) (s : State) : State :=
  if r.gone then loseRsp r.hdr.port r.quanta r.counted r.hdr.rid r.hdr.part s else queueRsp r.hdr.port r.id r.quanta r.counted x s

/-- A failed CXL write that calves its partition: every write but those to aperture space and those in no window (R75, R233). -/
def cxlFails (r : Req) (wr : Bool) (st : Status) : Bool := wr && decide (st ≠ .ok) && !inAperture r.hdr.addr

/-- The detail code a PROXY flit ends with (Table 7.8): a source line that was POISON, a tray access that ended TARGET_LOST. -/
def proxyDetail (st : Status) : Nat :=
  match st with
  | .poison => 0x0B
  | .targetLost => 0x0D
  | _ => 0

/-- The answer of a request goes where the request came from (R43, R74, R232, R13). -/
def sendAnswer (r : Req) (st : Status) (res : Word64) (data : Bytes) (s : State) : State :=
  match r.src with
  | .bamom => portAnswer r (rspOf s r st res data) s
  | .cxl wr =>
    let s := if wr && decide (st ≠ .ok) then bumpP r.hdr.port .cxlWerr 1 s else s
    if cxlFails r wr st then
      { setReq r.id (fun r => { r with phase := .werr }) s with
        mem := { (setReq r.id (fun r => { r with phase := .werr }) s).mem with calveDue := s.mem.calveDue ++ [(11, r.hdr.part)] } }
    else portAnswer r (rspOf s r st res data) s
  | .proxy slot => endFlit r.hdr.part slot {
      status := st, detail := proxyDetail st, lo := res.toNat % 2 ^ 32, hi := res.toNat / 2 ^ 32,
      r16 := match r.kind with
        | .cas128 _ _ => BitVec.ofNat 128 (leNat data)
        | _ => 0 } s
  | .twin ref =>
    if r.gone then (match twinPort s with
      | some p => loseRsp p r.quanta false r.hdr.rid r.hdr.part s
      | none => s)
    else queueTwinRsp ref r.quanta (rspOf s r st res data) s
  | .gw => gwAnswer r st data s
  | .tap => s
  | .gwLoc w b p => gwLocal r w b p st data s
  | .eng slot => engBack r.hdr.part slot r.id st data s
  | .ds target off => dsBack target off st data s
  | .strm i t off => strmBack i t off st data s

/-- A covered request has completed: the FENCEs and the flushes that wait for it learn of it (R66, R68, R64). -/
def noteDone (id : Nat) (st : Status) (s : State) : State :=
  let lost := match findReq s id with
    | some r => if r.covered ∧ st ≠ .ok then addOnce s.mem.lost r.hdr.rid else s.mem.lost
    | none => s.mem.lost
  { s with mem := { s.mem with lost := lost, reqs := s.mem.reqs.map fun f =>
      if id ∈ f.waits then
        { f with waits := f.waits.filter (· ≠ id)
                 finalSt := if f.phase = .fence ∧ st ≠ .ok then .fenceIncomplete else f.finalSt }
      else f } }

/-- The line of an address (R9). -/
def lineOf (addr : Nat) : Nat := addr / 64

/-- Locks of a request released (R51 step 8, R537). -/
def unlock (id : Nat) (s : State) : State :=
  { s with mem := { s.mem with locks := s.mem.locks.filter fun l => l.2 ≠ .req id } }

/-- An access belongs to a request. -/
def accOf (id : Nat) (a : Acc) : Bool := match a.owner with
  | .req r _ | .reqMac r _ => decide (r = id)
  | _ => false

/-- An answered request leaves once no tray access of it is outstanding; until then its lock stays (R537). -/
def retire (id : Nat) (s : State) : State :=
  if s.mem.accs.any (accOf id) then
    { setReq id (fun r => { r with phase := .late }) s with
      mem := { (setReq id (fun r => { r with phase := .late }) s).mem with
        accs := modAll (accOf id) (fun a => { a with state := .late }) s.mem.accs } }
  else dropReq id (unlock id s)

/-- The request is answered with a status, a result word and data; what waits for it learns of it. -/
def finish (id : Nat) (st : Status) (res : Word64) (data : Bytes) (s : State) : State :=
  match findReq s id with
  | none => s
  | some r =>
    if r.released then s
    else
      let s := setReq id (fun r => { r with released := true, finalSt := st }) s
      let s := if holdsStaging r then freeStaging r.hdr.port id s else s
      noteDone id st (sendAnswer r st res data s)

/-- Answer and leave, except a failed CXL write, which waits for K1 (R75) while what its tray still answers is discarded (R537). -/
def finishRetire (id : Nat) (st : Status) (res : Word64) (data : Bytes) (s : State) : State :=
  let s := finish id st res data s
  match findReq s id with
  | some r =>
    if r.phase = .werr then
      { s with mem := { s.mem with accs := modAll (fun a => accOf id a && decide (a.state = .sent)) (fun a => { a with state := .late }) s.mem.accs } }
    else retire id s
  | none => s

/-! ## Tray accesses -/

/-- `s` without an access. -/
def dropAcc (aid : Nat) (s : State) : State := { s with mem := { s.mem with accs := s.mem.accs.filter fun a => a.aid ≠ aid } }

/-- An access in flight. -/
def findAcc (s : State) (aid : Nat) : Option Acc := s.mem.accs.find? fun a => a.aid = aid

/-- An earlier access of the same requester to the same line still waits on the port in another class: queued, or not admitted yet (R49, R139). -/
def lineHeld (s : State) (a : Acc) : Bool :=
  s.mem.accs.any fun b => (decide (b.state = .queued) || decide (b.state = .held)) && b.port = a.port && b.rid = a.rid && b.cls ≠ a.cls && decide (b.aid < a.aid)
    && decide (b.addr / 64 ≤ (a.addr + a.len - 1) / 64) && decide (a.addr / 64 ≤ (b.addr + b.len - 1) / 64)

/-- Pool an access's cells come from (Table 4.3). -/
def accPool (a : Acc) : Pool := if a.eng then .eng else .shr

/-- Bytes an access takes on the wire: header and payload. -/
def accBytes (a : Acc) : Nat := 32 + a.data.length + (if a.kind = .storeMasked then 8 else 0)

/-- The access must not go over the twin link: it came over it (R145). -/
def fromTwin (s : State) (a : Acc) : Bool := match a.owner with
  | .req r _ | .reqMac r _ => match findReq s r with
    | some q => match q.src with
      | .twin _ => true
      | _ => false
    | none => false
  | _ => false

/-- Port and class queue an access takes: its tray port, or the twin link when that port is down and the twin may take it (R145). -/
def accPath (s : State) (a : Acc) : Option (Nat × Bool) :=
  if portUp s a.port then some (a.port, false)
  else if twinUp s && !fromTwin s a then (twinPort s).map fun p => (p, true) else none

/-- The physical block a flash command names (R375). -/
def accBlock (a : Acc) : Nat := a.addr / 67108864 % 65536 + 65536 * (a.fkey / 256 % 256 + 256 * (a.fkey % 64))

/-- A sector read that goes to its tray is counted for its physical block, 32 bits, saturating (R100). -/
def countRead (a : Acc) (s : State) : State :=
  if a.kind = .flRead then
    { s with ftl := { s.ftl with reads := amod s.ftl.reads (a.port, accBlock a) 0 (fun n => min (n + 1) (2 ^ 32 - 1)) } }
  else s

/-- A tray access joins a class queue: of its tray port (R139), or of the twin link, from which it goes to the tray's other port (R145). -/
def accEnqueue (a : Acc) (p : Nat) (viaTwin : Bool) (s : State) : State :=
  let n := ceilDiv (accBytes a) 256
  let s := if lineHeld s a then bumpP a.port .lineHold 1 s else s
  let s := { s with mem := { s.mem with accs := s.mem.accs ++ [{ a with state := .queued, viaTwin := viaTwin }] } }
  let d : Desc := { uid := a.aid, item := .acc a.aid, pool := accPool a, cells := n, bytes := accBytes a, part := a.part, cls := a.cls, poison := a.poison }
  enqueue p a.cls d (poolTake d.pool n s)

/-- The class queue takes the access now (R135): ENG cells are reserved beforehand (R137), and accesses held earlier for the queue go first. -/
def accAdmits (s : State) (a : Acc) (p : Nat) : Bool :=
  a.eng || (admits s p a.cls (ceilDiv (accBytes a) 256) false
    && !s.mem.accs.any fun b => b.state = .held && decide (b.cls = a.cls) && decide (b.port = a.port) && decide (b.aid < a.aid))

/-- A tray access goes to its class queue, or is held until the queue takes it (R135, R139, R145). The flag tells whether any path remains. The access's
identifier is taken here. -/
def issue (a : Acc) (s : State) : Bool × State :=
  let (n, s) := takeId s
  let a := { a with aid := n }
  match accPath s a with
  | none => (false, s)
  | some (p, t) =>
    if accAdmits s a p then (true, accEnqueue a p t s)
    else (true, { s with mem := { s.mem with accs := s.mem.accs ++ [{ a with state := .held }] } })

/-- Accesses that are held enter their class queues in their order, as the queues take them (R135). -/
def wakeHeld (s : State) : State :=
  (s.mem.accs.filter fun a => a.state = .held).foldl (fun s a => match accPath s a with
    | none => s
    | some (p, t) => if accAdmits s a p then accEnqueue a p t (dropAcc a.aid s) else s) s

/-- Issue several accesses; the flag tells whether every one found a path. -/
def issueAll : List Acc → State → Bool × State
  | [], s => (true, s)
  | a :: t, s =>
    let r := issue a s
    let r2 := issueAll t r.2
    (r.1 && r2.1, r2.2)

end Sys2Proof.Machine
end

