-- ==== Sys2Proof/Machine/Check.lean ====
section
/-! DEFINITION. The checks of Table 1.6 in their order (chapter 1), the policers (chapter 5), and what a failed check leaves behind. -/

namespace Sys2Proof.Machine

/-! ## Step 5: who serves a stripe (R12, R13, R427 to R434, R504) -/

/-- What step 5 decides for an address of a plane. -/
inductive Serve where
  | here | forward | retry | lost | no
  deriving DecidableEq, Repr

/-- The twin's last claims name the stripe (R430). -/
def peerClaims (s : State) (odd : Bool) : Bool := s.twn.peer.any fun c => c.oddStripe == odd

/-- The plane serves neither stripe of its pair: it has not yet learned of its twin, and has made no partition ACTIVE, or it has not yet
resynchronised with it (R433, R504). A plane that drains or has drained is not such a plane. -/
def starting (s : State) : Bool :=
  (dev s).twinPresent && !s.twn.servesOwn && !s.twn.servesTwin && (s.twn.returning ||
    (!(decide (s.mgmt.state = .draining) || decide (s.mgmt.state = .drained))
      && (decide (s.twn.state = .resyncDst) || (decide (s.twn.state = .alone) && (activeParts s).isEmpty))))

/-- A starting plane that has learned that its twin serves: it returns (R433). -/
def returning (s : State) : Bool := starting s && (s.twn.returning || decide (s.twn.state = .resyncDst) || decide (s.twn.twinInService = some true))

/-- Who serves the stripe of `plane`. -/
def serve (s : State) (plane : Nat) : Serve :=
  if plane = ownPlane s then
    if s.twn.state = .lost then .lost
    else if starting s ∨ s.twn.state = .resyncDst ∨ ownOdd s ∈ s.twn.invalid then .retry
    else if s.twn.servesOwn then .here
    else if twinUp s && peerClaims s (ownOdd s) then .forward else .retry
  else if (dev s).twinPresent && plane == twinPlane s then
    if s.twn.state = .lost then .lost
    else if starting s ∨ s.twn.state = .resyncDst ∨ (!ownOdd s) ∈ s.twn.invalid then .retry
    else if s.twn.servesTwin then if s.twn.yielding then .retry else .here
    else if s.twn.adoptPending then .retry
    else if twinUp s then .forward else .retry
  else .no

/-- Step 5 for a FLUSH_RANGE: one byte served is enough (R63). -/
def serveFlush (s : State) (e : RangeEntry) (addr len : Nat) : Serve :=
  if e.pinned then serve s e.pinnedPlane
  else
    let hit (pl : Nat) : Bool := (stripeSpan e (planes s) pl addr len).isSome
    let own := if hit (ownPlane s) then serve s (ownPlane s) else .no
    let twin := if hit (twinPlane s) then serve s (twinPlane s) else .no
    if own = .here ∨ twin = .here then .here
    else if own = .no then twin else own

/-! ## Policers (R156 to R163) -/

/-- Colours of a unit (R158). -/
inductive Colour where
  | green | yellow | red
  deriving DecidableEq, Repr

/-- A policer's tokens brought up to date at `now` (R158). -/
def refill (r : PolicerRec) (p : Pol) (now : Nat) : Pol :=
  let dt : Int := (now - p.last : Nat)
  { tc := min (p.tc + r.cir * dt) (r.cbs * 256000), tp := min (p.tp + r.pir * dt) (r.pbs * 256000), last := now }

/-- police (R158): the colour of a unit of `b` bytes and the policer after it. -/
def police (r : PolicerRec) (p : Pol) (b : Nat) (preYellow : Bool) (now : Nat) : Colour × Pol :=
  let p := refill r p now
  let bm : Int := (b * 1000 : Nat)
  if !r.en then (.green, p)
  else if p.tp < bm then (.red, p)
  else if preYellow ∨ p.tc < bm then (.yellow, { p with tp := p.tp - bm })
  else (.green, { p with tp := p.tp - bm, tc := p.tc - bm })

/-- A unit is charged to a policer; a policer without a record is disabled. -/
def charge (i b : Nat) (preYellow : Bool) (s : State) : Colour × State :=
  match aget (policersNow s) i with
  | none => (.green, s)
  | some r =>
    let c := police r (agetD s.tmc.pols i {}) b preYellow s.now
    (c.1, { s with tmc := { s.tmc with pols := aset s.tmc.pols i c.2 } })

/-- Yellow and red units are counted (Table 5.5), bytes by colour for telemetry. -/
def countColour (c : Colour) (part b : Nat) (s : State) : State :=
  match c with
  | .green => bumpPart part 0 b s
  | .yellow => bumpPart part 1 b (bumpG .polYel 1 s)
  | .red => bumpPart part 2 b (bumpG .polRed 1 s)

/-- Every CXL port whose windows charge a policer in debt withholds its credits (R160). -/
def cxlHold (s : State) : State := (s.ports.map (·.1)).foldl (fun s p => if cxlDebt s p then cxlCredits p s else s) s

/-- Step 8 for a memory request: its colour, and the state after the charge. A CXL unit that would be red takes its tokens from tp, which may
go below zero, and counts as yellow (R159, R160). Its bytes are counted as red: DESIGN CHOICE (assumption 64). -/
def step8 (cxl : Bool) (h : ReqHdr) (k : ReqKind) (s : State) : Colour × State :=
  let b := kindCharge k
  let i := polIndex h.part h.cls (subOf s h.rid)
  let (c, s) := charge i b false s
  let s := countColour c h.part b s
  if cxl && decide (c = .red) then
    (.yellow, cxlHold
      { s with tmc := { s.tmc with pols := amod s.tmc.pols i {} (fun p => { p with tp := p.tp - (b * 1000 : Nat) }) } })
  else (c, s)

/-! ## The checks (Table 1.6) -/

/-- What the checks of steps 1 to 7 find: the view of R32 and whether the request goes to the twin, or the failure and its step. -/
inductive Verdict where
  | pass (view : Option (Nat × RangeEntry × Bool)) (fwd : Bool)
  | fail (st : Status) (step : Nat)
  deriving DecidableEq, Repr

/-- Rights of Table 1.4 for a request type; a STORE_GUARDED is a tagged request, which needs A too (R53, assumption 51). -/
def hasRights (k : ReqKind) (g : Rights) : Bool :=
  match k with
  | .loadLine | .loadStream _ | .flushRange _ => g.r
  | .storeLine _ | .storeMasked _ _ => g.w
  | .storeGuarded _ => g.w && g.a
  | .atomic _ _ | .cas64 _ _ | .cas128 _ _ | .publish .. => g.r && g.w && g.a
  | .fence | .opFlit _ | .unknown _ => true

/-- Steps 1 and 2. -/
def check12 (s : State) (h : ReqHdr) : Option (Status × Nat) :=
  let r := reqRec s h.rid
  if !(r.enabled && r.port == h.port && r.part == h.part) then some (.noAccess, 1)
  else if !partActive s h.part then some (.partitionDown, 2) else none

/-- Steps 3 to 7 for a request to aperture space (R212). -/
def checkAp (s : State) (h : ReqHdr) (k : ReqKind) : Verdict :=
  if !apStep3Ok h.addr h.cls k then .fail .unsupported 3
  else if apPart h.addr ≠ h.part then .fail .noAccess 4
  else if returning s then .fail .retryLater 5
  else if aget s.eng.apKeys h.part ≠ some h.key then .fail .badKey 6
  else .pass none false

/-- Steps 4 and 7 for the region of a PUBLISH (R63). -/
def regionCheck (s : State) (part : Nat) (k : ReqKind) : Option (Nat × RangeEntry) :=
  match k with
  | .publish rb rl _ _ => match findRange s rb rl with
    | some (i, e) => if e.owner = part ∨ e.shared then some (i, e) else none
    | none => none
  | _ => none

/-- The request is a PUBLISH. -/
def isPublish : ReqKind → Bool
  | .publish .. => true
  | _ => false

/-- Steps 3 to 7 of Table 1.6. -/
def check37 (s : State) (h : ReqHdr) (k : ReqKind) : Verdict :=
  if inAperture h.addr then checkAp s h k
  else if !step3Ok h.addr h.cls k then .fail .unsupported 3
  else if k = .fence then (if returning s then .fail .retryLater 5 else .pass none false)
  else match findRange s h.addr (kindLen k) with
    | none => .fail .noAccess 4
    | some (i, e) =>
      if !(e.owner = h.part || e.shared) then .fail .noAccess 4
      else if isPublish k && (regionCheck s h.part k).isNone then .fail .noAccess 4
      else
        let plane := servingPlane s e h.addr
        let sv := match k with
          | .flushRange n => serveFlush s e h.addr n
          | _ => serve s plane
        match sv with
        | .no => .fail .noAccess 5
        | .retry => if kindTagged k && decide (4 ≤ s.flt.lanesOut.length) then .fail .targetLost 5 else .fail .retryLater 5
        | .lost => .fail .targetLost 5
        | _ =>
          if h.key ≠ e.key ∨ e.key = 0 then .fail .badKey 6
          else if !hasRights k (rightsFor e h.part) then .fail .noAccess 7
          else if isPublish k && !((regionCheck s h.part k).any fun x => hasRights k (rightsFor x.2 h.part)) then .fail .noAccess 7
          else .pass (some (i, e, plane % 2 == 1)) (sv = .forward)

/-- A request that a starting plane answers RETRY_LATER at step 5 and not PARTITION_DOWN at step 2: every request of a returning plane (R433), and before
that every request for memory (R504). -/
def startHolds (s : State) (h : ReqHdr) (k : ReqKind) : Bool := returning s || (starting s && !inAperture h.addr && decide (k ≠ .fence))

/-- Steps 1 to 7 of Table 1.6. -/
def check17 (s : State) (h : ReqHdr) (k : ReqKind) : Verdict :=
  match check12 s h with
  | some (st, n) => if n = 2 ∧ startHolds s h k then check37 s h k else .fail st n
  | none => check37 s h k

/-! ## What a failed check leaves (R36, R37, R455) -/

/-- The port counter a failure counts in (Table 1.8). -/
def chkCounter (st : Status) : Option PCtr :=
  match st with
  | .noAccess => some .chkNoacc
  | .badKey => some .chkBadkey
  | .unsupported => some .chkUnsup
  | .partitionDown => some .chkDown
  | _ => none

/-- The check log captures the first failure since it was cleared (R36). -/
def chkCapture (p : Nat) (l : ChkLog) (s : State) : State :=
  if (port s p).chk.valid then s else setPort p (fun q => { q with chk := l }) s

/-- A BAD_KEY answer is counted in its partition's 1 ms window (R455). -/
def countBadKey (part : Nat) (s : State) : State :=
  let s := if s.now - s.mem.badKeyAt ≥ 1000000 then { s with mem := { s.mem with badKeyWin := [], badKeyAt := s.now } } else s
  bumpPart part 5 1 { s with mem := { s.mem with badKeyWin := amod s.mem.badKeyWin part 0 (· + 1) } }

/-- A failed check is counted and captured. -/
def chkFail (h : ReqHdr) (k : ReqKind) (st : Status) (step : Nat) (s : State) : State :=
  let s := match chkCounter st with
    | some c => bumpP h.port c 1 s
    | none => s
  let s := if st = .badKey then countBadKey h.part s else s
  chkCapture h.port {
    valid := true, status := st, step := step, rid := h.rid, part := h.part, opcode := kindCode k,
    addr := if k = .fence then 0 else h.addr } s

/-! ## Where engine accesses and frames ask the same -/

/-- Steps 4 to 7 for an engine access of `len` bytes inside one page (R223): the view, or the status, with 6 marking an address of another plane. -/
def checkEng (s : State) (part addr len : Nat) (key : Word32) (need : Rights → Bool) : Except (Status × Bool) (Nat × RangeEntry × Bool) :=
  match findRange s addr len with
  | none => .error (.noAccess, false)
  | some (i, e) =>
    if !(e.owner = part || e.shared) then .error (.noAccess, false)
    else
      let plane := servingPlane s e addr
      if serve s plane ≠ .here then .error (.noAccess, true)
      else if key ≠ e.key ∨ e.key = 0 then .error (.badKey, false)
      else if !need (rightsFor e part) then .error (.noAccess, false)
      else .ok (i, e, plane % 2 == 1)

end Sys2Proof.Machine
end

