-- ==== Sys2Proof/Machine/Firn.lean ====
section
/-! DEFINITION. Firn and the flash translation layer as other operations use them: lookups, allotments, victims, fills, stripe decoding,
sector reads and rebuilds (chapter 3), and the seal of tray lines (chapter 15). -/

namespace Sys2Proof.Machine

/-! ## Lines under AES-256-XTS (R456 to R463) -/

/-- A 64-byte line as one number. -/
def lineBits (b : Bytes) : BitVec 512 := BitVec.ofNat 512 (leNat b)

/-- A line encrypted under a key with a tweak, and the inverse. -/
def xtsEnc (k t : Nat) (b : Bytes) : Bytes := natLe 64 (Config.xts k t (lineBits b)).toNat
def xtsDec (k t : Nat) (b : Bytes) : Bytes := natLe 64 ((Config.xts k t).symm (lineBits b)).toNat

/-- The MAC of a stack line: over its stack address and its ciphertext (R456). -/
def stackMac (key addr : Nat) (ct : Bytes) : Nat := Config.mac64 key (natLe 8 addr ++ ct)

/-- `n` lines written to the stacks from stack address `addr` on (R456). -/
def stackLines (key : Nat) : Nat → Nat → Bytes → List (Bytes × Nat)
  | 0, _, _ => []
  | n + 1, addr, b =>
    let ct := xtsEnc key addr (slice b 0 64)
    (ct, stackMac key addr ct) :: stackLines key n (addr + 64) (b.drop 64)

/-- A sector of 4 KiB written to the stacks (R456). -/
def stackSeal (key addr : Nat) (b : Bytes) : StackSec :=
  let l := stackLines key 64 addr b
  { ct := l.flatMap (·.1), macs := l.map (·.2) }

/-- Lines read from the stacks: `none` when one fails its MAC (R457). -/
def stackOpen (key : Nat) : List Nat → Nat → Bytes → Option Bytes
  | [], _, _ => some []
  | m :: macs, addr, ct =>
    let c := ct.take 64
    if stackMac key addr c = m then (stackOpen key macs (addr + 64) (ct.drop 64)).map (xtsDec key addr c ++ ·) else none

/-- The stack key of a partition, in slot 2p (R453, Table 15.4). -/
def stackKey (s : State) (part : Nat) : Nat := agetD s.sec.stackKeys (2 * part) 0

/-- The key of a stack line, by the region it lies in (Table 15.4). -/
def regionKey (s : State) : StackRegion → Nat
  | .firn part | .spill part => stackKey s part
  | .whey => s.sec.transitKey
  | .control => s.sec.controlKey

/-- What 4 KiB are in the stacks at an address of a region, and what they read as there; `none` when a line fails its MAC (R456, R457). State holds the
Firn sectors so, and the other regions opened (assumption 60). -/
def stackWrite (s : State) (r : StackRegion) (addr : Nat) (b : Bytes) : StackSec := stackSeal (regionKey s r) addr b
def stackRead (s : State) (r : StackRegion) (addr : Nat) (x : StackSec) : Option Bytes := stackOpen (regionKey s r) x.macs addr x.ct

/-! ## Sealed lines (R459 to R463) -/

/-- The seal key of a partition (R459); 0 stands in the arguments where no secret or nonce is installed. -/
def sealKeyOf (s : State) (part : Nat) : Nat :=
  Config.sealKey ((s.nv.sealSecret.map (·.toNat)).getD 0) (dev s).domainId part (((aget s.nv.nonces part).map (·.toNat)).getD 0)

/-- Ciphertext of the line at fabric line number `line` owned by `part` (R461). -/
def sealLine (s : State) (part line : Nat) (b : Bytes) : Bytes := xtsEnc (sealKeyOf s part) line b

/-- The 8 MAC bytes of a ciphertext (R461). -/
def sealMac (s : State) (part line : Nat) (ct : Bytes) : Bytes :=
  natLe 8 (Config.mac64 (sealKeyOf s part) (natLe 8 line ++ natLe 1 part ++ ct))

/-- Lines of ciphertext from fabric line `line` with their MACs, opened; `none` when a MAC does not match. -/
def openLines (s : State) (part line : Nat) (ct macs : Bytes) : Nat → Option Bytes
  | 0 => some []
  | n + 1 =>
    let c := ct.take 64
    if sealMac s part line c = slice macs 0 8 then
      (openLines s part (line + 1) (ct.drop 64) (macs.drop 8) n).map (xtsDec (sealKeyOf s part) line c ++ ·)
    else none

/-! ## Firn (R83 to R93) -/

/-- Firn carve in GiB, less 3 GiB per channel out (R81). -/
def firnGib (s : State) : Nat := (dev s).firnGib - 3 * s.hbm.chanFail.length

/-- Usable Firn blocks (R83): 4,095 / 4,096 of the carve in 64 KiB blocks. -/
def firnBlocks (s : State) : Nat := firnGib s * 16380

/-- Sets of 16 ways (R83). -/
def firnSets (s : State) : Nat := firnBlocks s / 16

/-- The default share in GiB: an equal part of what the explicit allotments of these records leave of the carve, rounded down (R87). -/
def firnShare (carve : Nat) (parts : List (Nat × PartRec)) : Nat :=
  (carve - sumOf (parts.map fun e => e.2.firnGib.getD 0)) / max 1 (parts.filter fun e => e.2.firnGib.isNone).length

/-- Firn allotment of a partition in GiB (R87). -/
def firnAllot (s : State) (part : Nat) : Nat := (partRec s part).firnGib.getD (firnShare (dev s).firnGib s.img.parts)

/-- Blocks that count against a partition's allotment (R87). A block of a stale generation (R92) counts, and keeps its way, until it is evicted:
DESIGN CHOICE, the spec does not say (assumption 59). -/
def firnUse (s : State) (part : Nat) : Nat := (s.hbm.blocks.filter fun b => b.owner = part).length

/-- The partition's use is below its allotment. -/
def firnBelow (s : State) (part : Nat) : Bool := decide (firnUse s part < firnAllot s part * 16384)

/-- Firn generation of a range (R92). -/
def firnGen (s : State) (range : Nat) : Nat := agetD s.hbm.gens range 0

/-- The generation a view's range has (R32). -/
def viewGen (s : State) (v : Option (Nat × RangeEntry × Bool)) : Nat := ((v.map fun x => firnGen s x.1)).getD 0

/-- A block is the one of a range, role, generation and block number. -/
def isBlock (range : Nat) (odd : Bool) (gen block : Nat) (b : FirnBlock) : Bool :=
  b.range == range && b.odd == odd && b.gen == gen && b.block == block

/-- 4 KiB page of the Firn region that holds a sector: set, way, sector (R83). The order is DESIGN CHOICE (assumption 59). -/
def firnPage (set way sec : Nat) : Nat := (set * 16 + way) * 16 + sec

/-- Stack address of a sector, counted from the start of the Firn region. -/
def firnAddr (b : FirnBlock) (sec : Nat) : Nat := 4096 * firnPage b.set b.way sec

/-- Channels in service out of the 128, `out` being those that are not. -/
def healthyChans (out : List Nat) : List Nat := (List.range 128).filter (· ∉ out)

/-- The channel of a page: pages go over the healthy channels in turn (R80). -/
def pageChan (out : List Nat) (page : Nat) : Nat := (healthyChans out).getD (page % (healthyChans out).length) 128

/-- An uncorrectable error at a page of the Firn region counts for its channel, a MAC failure too (R81, R457); those of the last second are held. -/
def stackErr (page : Nat) (s : State) : State :=
  { s with hbm := { s.hbm with chanErrs := (s.hbm.chanErrs.filter fun e => decide (s.now < e.2 + 1000000000)) ++ [(pageChan s.hbm.chanFail page, s.now)] } }

/-- A block of another owner than the range's present one fails its MACs and is dropped (R457). -/
def firnScrub (range : Nat) (odd : Bool) (gen block owner : Nat) (s : State) : State :=
  match s.hbm.blocks.find? (isBlock range odd gen block) with
  | some b => if b.owner = owner then s
    else stackErr (firnPage b.set b.way 0)
      (bumpG .stackMacErr 1 { s with hbm := { s.hbm with blocks := s.hbm.blocks.filter fun b => !isBlock range odd gen block b } })
  | none => s

/-- The lowest way of a set that no block takes. -/
def freeWay (blocks : List FirnBlock) (set : Nat) : Nat :=
  ((List.range 16).find? fun w => blocks.all fun b => !(b.set == set && b.way == w)).getD 0

/-- The sector of Firn that holds plane-local offset `loc`, opened; `none` when it is not valid, or a line of it fails its MAC (R457). -/
def firnSector (s : State) (range : Nat) (odd : Bool) (gen loc : Nat) : Option Bytes :=
  (s.hbm.blocks.find? (isBlock range odd gen (loc / 65536))).bind fun b =>
    (aget b.secs (loc % 65536 / 4096)).bind (stackRead s (.firn b.owner) (firnAddr b (loc % 65536 / 4096)))

/-- The sector of Firn that holds `loc` is marked valid. -/
def firnValid (s : State) (range : Nat) (odd : Bool) (gen loc : Nat) : Bool :=
  (s.hbm.blocks.find? (isBlock range odd gen (loc / 65536))).any fun b => (aget b.secs (loc % 65536 / 4096)).isSome

/-- A sector of Firn is discarded, and its channel has an uncorrectable error more (R47, R81). -/
def firnDiscard (range : Nat) (odd : Bool) (gen loc : Nat) (s : State) : State :=
  let sec := loc % 65536 / 4096
  let drop (b : FirnBlock) : FirnBlock := { b with secs := adel b.secs sec }
  match s.hbm.blocks.find? (isBlock range odd gen (loc / 65536)) with
  | none => s
  | some b => stackErr (firnPage b.set b.way sec)
      { s with hbm := { s.hbm with blocks := modFirst (isBlock range odd gen (loc / 65536)) drop s.hbm.blocks } }

/-- Firn is looked in (R84), under a generation of the range (R32, R92). A valid sector whose line the stack's ECC cannot correct (what the stacks report of a line is a free bit), or that fails its
MAC (R457), is discarded, and the look misses (R47). -/
def firnLook (range : Nat) (odd : Bool) (gen loc : Nat) (s : State) : Option Bytes × State :=
  if firnValid s range odd gen loc then
    let (bad, s) := freeBit s
    if bad then (none, firnDiscard range odd gen loc s)
    else match firnSector s range odd gen loc with
      | some b => (some b, s)
      | none => (none, bumpG .stackMacErr 1 (firnDiscard range odd gen loc s))
  else (none, s)

/-- choose_victim (R88): `none` allocates nothing, `some none` takes an invalid way, `some (some age)` replaces the block of that age. -/
def chooseVictim (s : State) (set owner : Nat) : Option (Option Nat) :=
  let ways := s.hbm.blocks.filter fun b => b.set = set
  if ways.length < 16 then some none
  else
    let oldest (l : List FirnBlock) := (minBy (·.age) l).map (·.age)
    match oldest (ways.filter fun b => !b.pinned && !firnBelow s b.owner) with
    | some a => some (some a)
    | none =>
      if firnBelow s owner then none
      else (oldest (ways.filter fun b => !b.pinned && b.owner == owner)).map some

/-- A sector is written into Firn: into its block if it is there, else into a block allocated under R88. The flag tells whether it was. A block's age counts
from its allocation, and a hit does not renew it: DESIGN CHOICE (assumption 64). -/
def firnWrite (range : Nat) (odd : Bool) (gen owner loc : Nat) (data : Bytes) (pin : Bool) (s : State) : Bool × State :=
  let block := loc / 65536
  let sec := loc % 65536 / 4096
  let set := Config.firnSet range odd block (firnSets s)
  let pinOk := decide ((s.hbm.blocks.filter fun b => b.set = set ∧ b.pinned).length < 12)
  if s.hbm.blocks.any (isBlock range odd gen block) then
    let upd (b : FirnBlock) : FirnBlock :=
      { b with secs := aset b.secs sec (stackWrite s (.firn b.owner) (firnAddr b sec) data), pinned := b.pinned || (pin && pinOk) }
    (true, { s with hbm := { s.hbm with blocks := modFirst (isBlock range odd gen block) upd s.hbm.blocks } })
  else if firnAllot s owner = 0 ∨ firnSets s = 0 then (false, s)
  else match chooseVictim s set owner with
    | none => (false, s)
    | some v =>
      let rest := match v with
        | none => s.hbm.blocks
        | some a => s.hbm.blocks.filter fun b => !(b.set == set && b.age == a)
      let b : FirnBlock := {
        set := set, way := freeWay rest set, range := range, odd := odd, gen := gen, block := block, owner := owner,
        pinned := pin && pinOk, age := s.hbm.clock }
      let b := { b with secs := [(sec, stackWrite s (.firn owner) (firnAddr b sec) data)] }
      (true, { s with hbm := { s.hbm with blocks := rest ++ [b], clock := s.hbm.clock + 1 } })

/-- The pin of a range has ended: a fill of it in progress makes an ordinary block (R91). -/
def unpinFill (range : Nat) (f : Fill) : Fill := if f.range = range then { f with pin := false } else f

/-- The generation of a range moves on; when it would come back to 0 every directory entry of the range is cleared first and the sweep
runs (R92, R93). -/
def firnInvalidate (range : Nat) (s : State) : State :=
  let g := (firnGen s range + 1) % 256
  let s := { s with hbm := { s.hbm with gens := aset s.hbm.gens range g, pins := s.hbm.pins.filter fun p => p.range ≠ range, fills := s.hbm.fills.map (unpinFill range) } }
  let s := { s with hbm := { s.hbm with blocks := s.hbm.blocks.map fun b => if b.range = range then { b with pinned := false } else b } }
  if g = 0 then
    bumpG .firnSweep 1 { s with hbm := { s.hbm with
      blocks := s.hbm.blocks.filter fun b => b.range ≠ range, sweeps := addOnce s.hbm.sweeps range } }
  else s

/-! ## The field GF(2^8) of the stripe (chapter 3, Stripes and the map) -/

/-- Multiplication by g = 2 modulo 0x11D. -/
def gfDouble (a : Nat) : Nat := let d := a * 2; if d ≥ 256 then d ^^^ 0x11D else d

/-- Product in GF(2^8): `n` steps over the bits of `b`. -/
def gfMulN : Nat → Nat → Nat → Nat
  | 0, _, _ => 0
  | n + 1, a, b => (if b % 2 = 1 then a else 0) ^^^ gfMulN n (gfDouble a) (b / 2)

/-- Product in GF(2^8). -/
def gfMul (a b : Nat) : Nat := gfMulN 8 a b

/-- g^i. -/
def gfPow : Nat → Nat
  | 0 => 1
  | i + 1 => gfDouble (gfPow i)

/-- a^254, the inverse of a non-zero element. -/
def gfInv (a : Nat) : Nat :=
  let a2 := gfMul a a
  let a4 := gfMul a2 a2
  let a8 := gfMul a4 a4
  let a16 := gfMul a8 a8
  let a32 := gfMul a16 a16
  let a64 := gfMul a32 a32
  gfMul a2 (gfMul a4 (gfMul a8 (gfMul a16 (gfMul a32 (gfMul a64 (gfMul a64 a64))))))

/-- Byte strings added in the field. -/
def xorBytes (a b : Bytes) : Bytes := a.zipWith (· ^^^ ·) b

/-- A byte string multiplied by a field element. -/
def gfScale (k : Nat) (a : Bytes) : Bytes := a.map fun x => BitVec.ofNat 8 (gfMul k x.toNat)

/-- P of data units by index: their sum. -/
def parityP (n : Nat) (ds : List (Nat × Bytes)) : Bytes := ds.foldl (fun a d => xorBytes a d.2) (zeros n)

/-- Q of data units by index: the sum of g^i D_i. -/
def parityQ (n : Nat) (ds : List (Nat × Bytes)) : Bytes := ds.foldl (fun a d => xorBytes a (gfScale (gfPow d.1) d.2)) (zeros n)

/-- Every data unit of a stripe from the copies in hand: data by index, P and Q (the 8+2 code of chapter 3). -/
def stripeData (n : Nat) (ds : List (Nat × Bytes)) (p q : Option Bytes) : List (Nat × Bytes) :=
  match (List.range 8).filter fun i => (aget ds i).isNone, p, q with
  | [x], some p, _ => ds ++ [(x, xorBytes p (parityP n ds))]
  | [x], none, some q => ds ++ [(x, gfScale (gfInv (gfPow x)) (xorBytes q (parityQ n ds)))]
  | [x, y], some p, some q =>
    let a := xorBytes p (parityP n ds)
    let b := xorBytes q (parityQ n ds)
    let dx := gfScale (gfInv (gfPow x ^^^ gfPow y)) (xorBytes b (gfScale (gfPow y) a))
    ds ++ [(x, dx), (y, xorBytes a dx)]
  | _, _, _ => ds

/-- The column `c` of unit row `u` from eight or more correct columns (R98). -/
def decodeCol (u c : Nat) (got : List (Nat × Bytes)) : Bytes :=
  let cols := dataCols u
  let n := maxOf (got.map (·.2.length))
  let ds := ((List.range 8).filterMap fun i => (aget got (cols.getD i 0)).map fun b => (i, b))
  let all := stripeData n ds (aget got (u % 10)) (aget got ((u + 1) % 10))
  if c = u % 10 then parityP n all
  else if c = (u + 1) % 10 then parityQ n all
  else (aget all ((List.range 8).findIdx fun i => cols.getD i 0 == c)).getD []

/-! ## Flash reads (R96 to R103) -/

/-- What a read gave at once: bytes, poison, no path, or it waits for its tray. -/
inductive Got where
  | data (b : Bytes) | poison | lost | wait
  deriving DecidableEq, Repr

/-- Pages per erase block that a flash tray reported (R94). -/
def upbOf (s : State) (p : Nat) : Nat := match (port s p).geom with
  | some g => max 1 g.upb
  | none => 1024

/-- The geometry that the flash trays of an interleave set have reported: all report the same (R95). -/
def isetGeom (s : State) (iset : List Nat) : Option Geom := iset.findSome? fun p => (port s p).geom

/-- Its pages per erase block. -/
def isetUpb (s : State) (iset : List Nat) : Nat := ((isetGeom s iset).map fun g => max 1 g.upb).getD 1024

/-- A flash tray may be read: its report has been admitted since its link came up (R94, R396), or it is reached through its other port (R145). -/
def trayAdmitted (s : State) (p : Nat) : Bool := ((port s p).geom.isSome && (port s p).geomOk) || !portUp s p

/-- disturb_limit a flash tray reported (R94). -/
def disturbOf (s : State) (p : Nat) : Nat := match (port s p).geom with
  | some g => g.limit
  | none => 0

/-- The map entry of a logical block of a role on a port (Table 3.4). -/
def mapEnt (s : State) (p : Nat) (odd : Bool) (lblock : Nat) : MapEnt := agetD s.ftl.map (p, odd, lblock) {}

/-- A flash command goes to a tray port (R375). -/
def issueFlash (p pblock page sector : Nat) (kind : AccKind) (data : Bytes) (a : Acc) (s : State) : Bool × State :=
  issue { a with
    port := p, kind := kind, addr := flashCmdAddr (pblock % 65536) page sector, data := data,
    fkey := pblock / 16777216 % 64 + pblock / 65536 % 256 * 256 } s

/-- The stripe row of a location is held as bad (R99). -/
def rowBad (s : State) (range : Nat) (odd : Bool) (l : FlashLoc) : Bool :=
  decide (range ∈ s.ftl.badRanges) || decide ((range, odd, l.grp, l.u) ∈ s.ftl.badRows)

/-- Reads of a block are served by rebuild: its relocation has been diverted (R103). -/
def diverted (s : State) (p pblock : Nat) : Bool := s.ftl.relocs.any fun r => r.port == p && r.old == pblock && r.diverted

/-- The map entry of a column of the stripe a read was dispatched to: the present one, which a relocation may have moved, or, once the range has another
generation, the one its dispatch found (R98, R32, R106). -/
def colEnt (s : State) (f : FlashRef) (odd : Bool) (c : Nat) : MapEnt :=
  if firnGen s f.range = f.gen then mapEnt s ((isetOf s f.entry.iset).getD (f.loc.grp * 10 + c) 0) odd f.loc.lblock else f.cols.getD c {}

/-- One column of a rebuild is read, an engine's from ENG cells (R137), where its tray may be read (R94); a column never loaded is zeros at once, and one
whose block is diverted is not read (R103). -/
def rebuildCol (reb : Nat) (iset : List Nat) (f : FlashRef) (a : Acc) (s : State) (c : Nat) : State :=
  let l := f.loc
  let p := iset.getD (l.grp * 10 + c) 0
  let m := colEnt s f a.odd c
  let upd (f : Rebuild → Rebuild) (s : State) : State :=
    { s with ftl := { s.ftl with rebuilds := modFirst (fun r => r.reb = reb) f s.ftl.rebuilds } }
  if !m.valid then upd (fun r => { r with got := r.got ++ [(c, zeros 4096)] }) s
  else if diverted s p (pblockOf m) || !trayAdmitted s p then upd (fun r => { r with bad := r.bad ++ [c] }) s
  else
    let r := issueFlash p (pblockOf m) l.page l.sector .flRead [] { a with owner := .rebuild reb c } s
    if r.1 then r.2 else upd (fun r => { r with bad := r.bad ++ [c] }) r.2

/-- The same sector of the other nine columns is read (R98), where the read's dispatch found it. -/
def startRebuild (f : FlashRef) (a : Acc) (s : State) : State :=
  let (n, s) := takeId s
  let l := f.loc
  let iset := isetOf s f.entry.iset
  let r : Rebuild := {
    reb := n, range := f.range, entry := f.entry, gen := f.gen, cols := f.cols, odd := a.odd, grp := l.grp, u := l.u, sector := l.sector, col := l.col, bad := [l.col], acc := some a, since := s.now }
  let s := { s with ftl := { s.ftl with rebuilds := s.ftl.rebuilds ++ [r] } }
  ((List.range 10).filter (· ≠ l.col)).foldl (rebuildCol n iset f a) s

/-- The map entries of the ten columns of a location's stripe. -/
def flashCols (s : State) (iset : List Nat) (odd : Bool) (l : FlashLoc) : List MapEnt :=
  (List.range 10).map fun c => mapEnt s (iset.getD (l.grp * 10 + c) 0) odd l.lblock

/-- Where a tier 3 range holds plane-local offset `loc` (R96), in the view of its entry and generation (R32). -/
def flashRef (s : State) (range gen : Nat) (e : RangeEntry) (odd : Bool) (loc : Nat) : FlashRef :=
  let iset := isetOf s e.iset
  let l := locateFlash (flashOff e odd loc) iset.length (isetUpb s iset)
  { range := range, entry := e, gen := gen, loc := l, cols := flashCols s iset odd l }

/-- One sector of a tier 3 range is read for `a` (R96): zeros when never loaded (Table 3.4), POISON on a bad row (R99), by rebuild when
diverted (R103), else from its tray, which must have been admitted (R94). -/
def readFlash (range gen : Nat) (e : RangeEntry) (odd : Bool) (loc : Nat) (a : Acc) (s : State) : Got × State :=
  let f := flashRef s range gen e odd loc
  let p := (isetOf s e.iset).getD f.loc.member 0
  let m := mapEnt s p odd f.loc.lblock
  let a := { a with fl := some f, odd := odd }
  if rowBad s range odd f.loc then (.poison, s)
  else if (isetGeom s (isetOf s e.iset)).isNone ∨ !trayAdmitted s p then (.lost, s)
  else if !m.valid then (.data (zeros 4096), s)
  else if diverted s p (pblockOf m) then (.wait, bumpG .ftlDivert 1 (startRebuild f a s))
  else
    let r := issueFlash p (pblockOf m) f.loc.page f.loc.sector .flRead [] a s
    (if r.1 then .wait else .lost, r.2)

/-- A stripe row is marked bad and logged; a full list makes the range bad (R99). -/
def markRowBad (range : Nat) (odd : Bool) (grp u member : Nat) (s : State) : State :=
  let s := if s.ftl.badRows.length < 4096 then { s with ftl := { s.ftl with badRows := addOnce s.ftl.badRows (range, odd, grp, u) } }
    else { s with ftl := { s.ftl with badRanges := addOnce s.ftl.badRanges range } }
  emit (.badStripe range odd grp u) (flashEvent 1 member range odd u s)

/-! ## Fills (R84 to R86) -/

/-- The tray accesses of a sector fill (R84), and those of its MAC lines when the range is sealed (R463). -/
def fillAccs (s : State) (fid part cls : Nat) (eng : Bool) (e : RangeEntry) (odd : Bool) (loc : Nat) : List Acc :=
  let iset := isetOf s e.iset
  let base : Acc := { aid := 0, port := 0, kind := .load, addr := 0, owner := .fill fid, part := part, cls := cls, odd := odd, eng := eng }
  (splitLoc e iset odd loc 0 17 4096).flatMap fun x =>
    { base with port := x.1, addr := x.2.1, len := x.2.2.1, off := x.2.2.2 } ::
      (if e.sealed then
        [{ base with
            port := x.1, addr := macAddr e iset.length (planes s) odd x.2.1, len := x.2.2.1 / 8, off := x.2.2.2 / 8, isMac := true }]
       else [])

/-- Bytes of a fill in hand, in the order of the sector. -/
def fillBytes (f : Fill) : Bytes := f.data.foldl (fun b d => overlay b d.1 d.2) (zeros 4096)

/-- A fill by identifier. -/
def findFill (s : State) (fid : Nat) : Option Fill := s.hbm.fills.find? fun f => f.fid = fid

/-- `s` with a fill changed. -/
def setFill (fid : Nat) (f : Fill → Fill) (s : State) : State :=
  { s with hbm := { s.hbm with fills := modFirst (fun x => x.fid = fid) f s.hbm.fills } }

/-- `s` without a fill. -/
def dropFill (fid : Nat) (s : State) : State := { s with hbm := { s.hbm with fills := s.hbm.fills.filter fun x => x.fid ≠ fid } }

/-- Every byte [off, off + len) of a fill has arrived; MAC bytes, where the range is sealed, with the last piece. -/
def fillHas (f : Fill) (off len : Nat) : Bool :=
  (List.range (len / 64 + 1)).all fun i =>
    f.data.any fun d => decide (d.1 ≤ off + min (i * 64) (len - 1)) && decide (off + min (i * 64) (len - 1) < d.1 + d.2.length)

/-- Every byte [off, off + len) of a fill has come back, right or failed. -/
def fillDone (f : Fill) (off len : Nat) : Bool :=
  (List.range (len / 64 + 1)).all fun i =>
    let b := off + min (i * 64) (len - 1)
    (f.data.any fun d => decide (d.1 ≤ b) && decide (b < d.1 + d.2.length)) || f.fails.any fun x => decide (x.1 ≤ b) && decide (b < x.1 + x.2.1)

/-- The failing piece of [off, off + len) with the lowest address, and its status; of a line and its MAC, the line (R86, R17). -/
def fillFail (f : Fill) (off len : Nat) : Option (Nat × Status) :=
  (minBy (fun x => 2 * x.1 + b2n x.2.2.1) (f.fails.filter fun x => decide (x.1 < off + len) && decide (off < x.1 + x.2.1))).map fun x => (x.1, x.2.2.2)

/-- A piece of a fill has come back, or has failed. -/
def fillPiece (a : Acc) (st : Status) (data : Bytes) (f : Fill) : Fill :=
  { f with
    left := f.left - 1
    data := if st = .ok ∧ !a.isMac then f.data ++ [(a.off, data)] else f.data
    macs := if st = .ok ∧ a.isMac then f.macs ++ [(a.off, data)] else f.macs
    failed := if st = .ok then f.failed else f.failed.orElse fun _ => some st
    fails := if st = .ok then f.fails else f.fails ++ [if a.isMac then (8 * a.off, 8 * a.len, true, st) else (a.off, a.len, false, st)] }

/-- The plane of a role. -/
def rolePlane (s : State) (odd : Bool) : Nat := if odd = ownOdd s then ownPlane s else twinPlane s

/-- Bytes [off, off + len) of a fill, opened when the range is sealed; `none` when a MAC fails (R463). -/
def fillOpen (s : State) (f : Fill) (e : RangeEntry) (off len : Nat) : Option Bytes :=
  if f.macs = [] then some (slice (fillBytes f) off len)
  else
    let a := off / 64
    let n := (off + len + 63) / 64 - a
    let macs := f.macs.foldl (fun b d => overlay b d.1 d.2) (zeros 512)
    (openLines s f.owner (fabricOf e (planes s) (rolePlane s f.odd) f.loc / 64 + a) (slice (fillBytes f) (a * 64) (n * 64))
      (slice macs (a * 8) (n * 8)) n).map fun b => slice b (off % 64) len

/-- A tray access of a fill goes out; one without a path has failed by itself (R17, R86, R145). -/
def fillIssue (fid : Nat) (s : State) (a : Acc) : State :=
  let r := issue a s
  if r.1 then r.2 else setFill fid (fillPiece a .targetLost []) r.2

/-- A sector fill starts under a generation of its range: its entry in the miss table and its tray accesses, an engine's from the ENG pool (R137). -/
def startFill (range gen : Nat) (e : RangeEntry) (odd : Bool) (loc part cls : Nat) (alloc pin eng : Bool) (s : State) : Nat × State :=
  let (fid, s) := takeId s
  let sec := loc / 4096 * 4096
  let f : Fill := {
    fid := fid, range := range, odd := odd, gen := gen, loc := sec, owner := e.owner, alloc := alloc, pin := pin, left := 1 }
  if e.tier = 1 then
    let a : Acc := { aid := 0, port := 0, kind := .flRead, addr := 0, len := 4096, owner := .fill fid, part := part, cls := cls, odd := odd, eng := eng }
    let done (g : Fill → Fill) (s : State) : State := setFill fid (fun f => { g f with left := 0 }) s
    match readFlash range gen e odd sec a { s with hbm := { s.hbm with fills := s.hbm.fills ++ [f] } } with
    | (.wait, s) => (fid, s)
    | (.data b, s) => (fid, done (fun f => { f with data := [(0, b)] }) s)
    | (.poison, s) => (fid, done (fillPiece a .poison []) s)
    | (.lost, s) => (fid, done (fillPiece a .targetLost []) s)
  else
    let accs := fillAccs s fid part cls eng e odd sec
    (fid, accs.foldl (fillIssue fid) { s with hbm := { s.hbm with fills := s.hbm.fills ++ [{ f with left := accs.length }] } })

end Sys2Proof.Machine
end

