-- ==== Sys2Proof/Machine/Request.lean ====
section
/-! DEFINITION. A memory request from its acceptance to its answer (chapters 2, 4, 5 and 12): limits, checks, log taps, gateway windows, tags,
line locks, response reservations, admission, tray accesses, and what their answers lead to. -/

namespace Sys2Proof.Machine

/-! ## Pieces -/

/-- Every piece and MAC piece of a request has come back. -/
def piecesDone (r : Req) : Bool := r.pieces.all (·.done) && r.macs.all (·.done)

/-- Of two pieces, the one at the lower address; at one address the first. -/
def lowerPiece (a : Option Piece) (p : Piece) : Option Piece :=
  match a with
  | some q => if p.faddr < q.faddr then some p else some q
  | none => some p

/-- The first failing piece in address order (R17). -/
def firstBad (r : Req) : Option Piece := ((r.pieces ++ r.macs).filter fun p => p.status ≠ .ok).foldl lowerPiece none

/-- Its status. -/
def pieceStatus (r : Req) : Status := ((firstBad r).map (·.status)).getD .ok

/-- The bytes of the pieces, in order. -/
def joinPieces (l : List Piece) : Bytes := (l.map (·.data)).flatten

/-- A piece of a request comes back. -/
def setPiece (i : Nat) (mac : Bool) (st : Status) (data : Bytes) (r : Req) : Req :=
  let upd (l : List Piece) : List Piece := l.mapIdx fun j p => if j = i then { p with done := true, status := st, data := data } else p
  if mac then { r with macs := upd r.macs } else { r with pieces := upd r.pieces }

/-- A request's base access on its tray ports. -/
def baseAcc (r : Req) (odd : Bool) : Acc :=
  { aid := 0, port := 0, kind := .load, addr := 0, rid := r.hdr.rid, part := r.hdr.part, cls := min r.hdr.cls 6, poison := false,
    owner := .req r.id 0, writeClass := false, odd := odd,
    eng := match r.src with
      | .eng _ | .tap => true
      | _ => false }

/-- Requests that an access works for: its own, those that wait for its fill, and through a rebuild those of the access it makes good. -/
def servedBy (s : State) (a : Acc) : List Nat :=
  let of (o : AccOwner) : List Nat := match o with
    | .req id _ | .reqMac id _ => [id]
    | .fill fid => ((findFill s fid).map (·.waiters)).getD []
    | _ => []
  match a.owner with
  | .rebuild n _ => ((s.ftl.rebuilds.find? fun r => r.reb = n).bind fun r => r.acc.map fun b => of b.owner).getD []
  | o => of o

/-- A fill that an access belongs to, itself or through a rebuild. -/
def fillOf (s : State) (a : Acc) : Option Nat :=
  let of (o : AccOwner) : Option Nat := match o with
    | .fill fid => some fid
    | _ => none
  match a.owner with
  | .rebuild n _ => (s.ftl.rebuilds.find? fun r => r.reb = n).bind fun r => r.acc.bind fun b => of b.owner
  | o => of o

/-- An access is outstanding: the request's execution has begun (R39). -/
def beginExec (id : Nat) (s : State) : State :=
  match findReq s id with
  | none => s
  | some r =>
    let t := r.dispAt.getD s.now
    let s := setReq id (fun r => { r with dispAt := some t }) s
    { s with mem := { s.mem with accs := modAll (accOf id) (fun a => { a with execEnd := t + 11000 }) s.mem.accs } }

/-- Pieces and accesses of a read of [addr, addr + len): whole lines with their MACs when the range is sealed (R463). -/
def readPlan (s : State) (r : Req) (e : RangeEntry) (odd : Bool) (addr len : Nat) : List Piece × List Piece × List Acc :=
  let iset := isetOf s e.iset
  let a0 := if e.sealed then addr / 64 * 64 else addr
  let n := if e.sealed then (addr + len + 63) / 64 * 64 - a0 else len
  let xs := splitAddr e iset (planes s) odd a0 n
  let base := baseAcc r odd
  let ps := xs.map fun x => ({ port := x.1, addr := x.2.1, len := x.2.2.1, off := x.2.2.2, faddr := a0 + x.2.2.2 } : Piece)
  let ms := if e.sealed then
      ps.map fun p => { p with addr := macAddr e iset.length (planes s) odd p.addr, len := p.len / 8 }
    else []
  (ps, ms,
   (ps.mapIdx fun i p => { base with port := p.port, addr := p.addr, len := p.len, off := p.off, owner := .req r.id i }) ++
   (ms.mapIdx fun i p => { base with port := p.port, addr := p.addr, len := p.len, off := p.off, owner := .reqMac r.id i, isMac := true }))

/-- A line of a sealed read that lies before its first failing piece fails its MAC, and so fails first (R17, R463). -/
def macFirst (s : State) (r : Req) (e : RangeEntry) (addr : Nat) : Bool :=
  e.sealed && match firstBad r with
    | none => false
    | some p =>
      let before (l : List Piece) : Bytes := joinPieces (l.filter fun q => decide (q.faddr < p.faddr))
      let raw := before r.pieces
      (openLines s e.owner (addr / 64) raw (before r.macs) (raw.length / 64)).isNone

/-- The bytes a read has brought back, opened when the range is sealed; `none` when a MAC fails (R463). -/
def readBytes (s : State) (r : Req) (e : RangeEntry) (addr len : Nat) : Option Bytes :=
  let raw := joinPieces r.pieces
  if e.sealed then
    (openLines s e.owner (addr / 64) raw (joinPieces r.macs) (raw.length / 64)).map fun b => slice b (addr % 64) len
  else some (slice raw 0 len)

/-- The piece of a request that an access is for finds no path: it has failed TARGET_LOST (R145). -/
def losePiece (a : Acc) (s : State) : State :=
  match a.owner with
  | .req id i => setReq id (setPiece i false .targetLost []) s
  | .reqMac id i => setReq id (setPiece i true .targetLost []) s
  | _ => s

/-- Issue the accesses of a request; a piece without a path has failed, and the flag tells whether some access found one (R17, R145). -/
def issueFor (accs : List Acc) (s : State) : Bool × State :=
  accs.foldl (fun (x : Bool × State) a => let w := issue a x.2; (x.1 || w.1, if w.1 then w.2 else losePiece a w.2)) (false, s)

/-! ## Recording and answering tagged requests (R55, R56, R59) -/

/-- `s` with an idempotency entry changed. -/
def setIdem (rid tag : Nat) (f : IdemEnt → IdemEnt) (s : State) : State :=
  { s with mem := { s.mem with idem := modFirst (fun e => e.rid = rid ∧ e.tag = tag) f s.mem.idem } }

/-- The idempotency entry of a tag. -/
def findIdem (s : State) (rid tag : Nat) : Option IdemEnt := s.mem.idem.find? fun e => e.rid = rid ∧ e.tag = tag

/-- The result word of an answer (Table 2.3): old value or current word; CAS128 answers in its data. -/
def resWord (k : ReqKind) (res : BitVec 128) : Word64 :=
  match k with
  | .cas128 _ _ => 0
  | _ => res.setWidth 64

/-- The data of an answer: CAS128's old value (R43). -/
def resData (k : ReqKind) (st : Status) (res : BitVec 128) : Bytes :=
  match k with
  | .cas128 _ _ => if st = .ok then natLe 16 res.toNat else []
  | _ => []

/-- Mirroring toward the twin is on for this request (R59, R61): while mirror_en is 1, when it is active; after mirror_en was cleared, for a request that
went through its step 1 under the old setting (R77). -/
def mirrorsTo (s : State) (r : Req) : Bool := r.mirrored && (s.mem.mirrorActive || !s.mem.mirrorEn) && twinUp s && kindTagged r.kind

/-- An entry recorded without step 4, as a shadow entry of the twin: DONE. -/
def doneEnt (e : IdemEnt) : MirrorEnt :=
  { rid := e.rid, tag := e.tag, part := e.part, opcode := e.opcode, addr := e.addr, status := e.status, result := e.result, line := e.line,
    image := e.image, done := true, poison := e.poison }

/-- A record that the twin does not hold, because mirroring was not active when its request passed step 4, goes to the twin at once while mirroring is
active, and is acknowledged as a catch-up's is (R58, R61). -/
def lateMirror (rid tag : Nat) (s : State) : State :=
  match findIdem s rid tag with
  | some e =>
    if !e.mirrored && s.mem.mirrorActive && s.mem.mirrorEn && twinUp s then
      sendTwin (.mirror (doneEnt e) (ownClaims s)) { s with mem := { s.mem with catchup := addOnce s.mem.catchup (rid, tag) } }
    else s
  | none => s

/-- A tagged request's outcome is recorded under its tag; it and the retries that joined it are answered (R56, R59 step 6). -/
def recordAnswer (id : Nat) (st : Status) (res : BitVec 128) (s : State) : State :=
  match findReq s id with
  | none => s
  | some r =>
    let joined := (findIdem s r.hdr.rid r.hdr.tag).elim [] (·.joined)
    let s := if kindTagged r.kind then
        lateMirror r.hdr.rid r.hdr.tag (setIdem r.hdr.rid r.hdr.tag (fun e => { e with
          state := .recorded, status := st, result := res, ansAt := some s.now, mirrored := r.mirAck, joined := [] }) s)
      else s
    let s := finish id st (resWord r.kind res) (resData r.kind st res) s
    joined.foldl (fun s j => finishRetire j st (resWord r.kind res) (resData r.kind st res) s) s

/-- A tagged request answered RETRY_LATER before it was applied leaves its entry NOT_APPLIED (R52, R56). -/
def notApplied (r : Req) (s : State) : State :=
  if kindTagged r.kind ∧ r.phase ≠ .joined then
    setIdem r.hdr.rid r.hdr.tag (fun e => if e.state = .running then { e with state := .notApplied, ansAt := some s.now } else e) s
  else s

/-- Step 7 and 8 of Table 2.4: DONE is sent and the lock waits for its acknowledgement, or the lock is released at once. -/
def auRelease (id : Nat) (wrote : Bool) (s : State) : State :=
  match findReq s id with
  | none => s
  | some r =>
    if r.phase = .werr then s
    else if wrote && r.mirAck && twinUp s then
      sendTwin (.done r.hdr.rid r.hdr.tag) (setReq id (fun r => { r with phase := .auDone }) s)
    else retire id s

/-! ## Writes of one line -/

/-- The line of a request: fabric address of the line its header or target names. -/
def lineAddr (r : Req) : Nat := r.hdr.addr / 64 * 64

/-- One write of a whole line, sealed or plain (R44, R463); the flag tells whether a path remains. -/
def writeLine (id : Nat) (line : Bytes) (poison : Bool) (s : State) : Bool × State :=
  match findReq s id with
  | some r => match r.view with
    | some (_, e, odd) =>
      let x := selectPort (lineAddr r) e (isetOf s e.iset) (planes s) odd
      let ct := if e.sealed then sealLine s e.owner (lineOf (lineAddr r)) line else line
      let p : Piece := { port := x.1, addr := x.2, len := 64, off := 0, faddr := lineAddr r }
      let s := setReq id (fun r => { r with pieces := [p], macs := [], stage := 0, newLine := line }) s
      issueFor [{ baseAcc r odd with
        port := x.1, addr := x.2, kind := .store, data := ct, poison := poison, writeClass := true }] s
    | none => (false, s)
  | none => (false, s)

/-- The second write of a sealed line: its MAC as a STORE_MASKED of 8 bytes (R463). -/
def writeMac (id : Nat) (s : State) : Bool × State :=
  match findReq s id with
  | some r => match r.view with
    | some (_, e, odd) =>
      let iset := isetOf s e.iset
      let x := selectPort (lineAddr r) e iset (planes s) odd
      let m := macAddr e iset.length (planes s) odd x.2
      let mac := sealMac s e.owner (lineOf (lineAddr r)) (sealLine s e.owner (lineOf (lineAddr r)) r.newLine)
      let p : Piece := { port := x.1, addr := m / 64 * 64, len := 64, off := 0, faddr := lineAddr r }
      let s := setReq id (fun r => { r with pieces := [p], macs := [], stage := 1 }) s
      issueFor [{ baseAcc r odd with
        port := x.1, addr := m / 64 * 64, kind := .storeMasked, data := overlay (zeros 64) (m % 64) mac,
        mask := 0xFF * 2 ^ (m % 64), writeClass := true, isMac := true }] s
    | none => (false, s)
  | none => (false, s)

/-- The request is a store that carries poisoned data (R48). -/
def storesPoison (r : Req) : Bool := r.hdr.poison && match r.kind with
  | .storeLine _ | .storeMasked .. | .storeGuarded _ => true
  | _ => false

/-- The request is a masked store. -/
def isMasked : ReqKind → Bool
  | .storeMasked .. => true
  | _ => false

/-- The tray write of a read-modify-write (Table 2.4 step 5). -/
def auWrite (id : Nat) (s : State) : State :=
  match findReq s id with
  | none => s
  | some r =>
    let w := writeLine id r.newLine (storesPoison r) (setReq id (fun r => { r with phase := .auWrite }) s)
    if w.1 then w.2 else auRelease id false (recordAnswer id .targetLost 0 w.2)

/-! ## The atomic unit's operation (R51, R62, R70, Table 2.2) -/

/-- What an operation makes of a line: status, result, new line when it is to be written. -/
structure AuResult where
  st : Status
  res : BitVec 128
  line : Option Bytes
  deriving DecidableEq, Repr

/-- The operation on the line's current bytes; `off` is the target's byte within the line. -/
def auCompute (k : ReqKind) (off : Nat) (line : Bytes) : AuResult :=
  let w64 : Word64 := BitVec.ofNat 64 (fieldAt line off 8)
  let put (n : Nat) (v : Nat) : Option Bytes := some (overlay line off (natLe n v))
  match k with
  | .atomic op opa =>
    let new := atApply op w64 opa
    { st := .ok, res := w64.setWidth 128, line := if new = w64 then none else put 8 new.toNat }
  | .cas64 cmp swp =>
    { st := .ok, res := w64.setWidth 128, line := if w64 = cmp ∧ swp ≠ w64 then put 8 swp.toNat else none }
  | .cas128 cmp swp =>
    let w : BitVec 128 := BitVec.ofNat 128 (fieldAt line off 16)
    { st := .ok, res := w, line := if w = cmp ∧ swp ≠ w then put 16 swp.toNat else none }
  | .storeGuarded d =>
    if guardWord line = 0 then { st := .ok, res := 0, line := some (slice d 0 64) }
    else { st := .versionConflict, res := (guardWord line).setWidth 128, line := none }
  | .publish _ _ expd new =>
    if w64 = expd then { st := .ok, res := 0, line := if new = w64 then none else put 8 new.toNat }
    else { st := .versionConflict, res := w64.setWidth 128, line := none }
  | .storeMasked d m => { st := .ok, res := 0, line := some (maskMerge line d m.toNat) }
  | _ => { st := .ok, res := 0, line := none }

/-- Step 4 of Table 2.4: the entry goes to the twin before the line is written. -/
def auMirror (id : Nat) (a : AuResult) (line : Bytes) (s : State) : State :=
  match findReq s id with
  | none => s
  | some r =>
    let e : MirrorEnt := {
      rid := r.hdr.rid, tag := r.hdr.tag, part := r.hdr.part, opcode := kindCode r.kind, addr := r.hdr.addr, status := a.st,
      result := a.res, line := lineAddr r, image := a.line.getD line, done := a.line.isNone, poison := storesPoison r }
    let s := setReq id (fun r => { r with phase := .auMirror }) s
    sendTwin (.mirror e (ownClaims s)) { s with mem := { s.mem with mirrorAt := aset s.mem.mirrorAt id s.now } }

/-- The line has been read: the result is computed, and the line written, mirrored or left (steps 3 to 6 of Table 2.4; R47 for poison; R413 for a
request whose lane failed its residue check). -/
def auLine (id : Nat) (st : Status) (line : Bytes) (s : State) : State :=
  match findReq s id with
  | none => s
  | some r =>
    let st := if st = .ok ∨ (st = .poison ∧ storesPoison r ∧ isMasked r.kind) then r.finalSt else st
    let a : AuResult := if st = .ok then auCompute r.kind (r.hdr.addr % 64) line else { st := st, res := 0, line := none }
    let s := setReq id (fun r => { r with result := a.res, finalSt := a.st, newLine := a.line.getD [] }) s
    let s := if kindTagged r.kind then
        setIdem r.hdr.rid r.hdr.tag (fun e => { e with line := lineAddr r, image := a.line.getD line, poison := storesPoison r }) s else s
    if mirrorsTo s r then auMirror id a line s
    else if a.line.isSome then auWrite id s
    else auRelease id false (recordAnswer id a.st a.res s)

/-- Step 2 of Table 2.4: the line is read under its lock. -/
def auRead (id : Nat) (s : State) : State :=
  match findReq s id with
  | some r => match r.view with
    | some (_, e, odd) =>
      let plan := readPlan s r e odd (lineAddr r) 64
      let s := setReq id (fun r => { r with phase := .auRead, pieces := plan.1, macs := plan.2.1 }) s
      let w := issueFor plan.2.2 s
      let s := beginExec id w.2
      if w.1 then s else auRelease id false (recordAnswer id .targetLost 0 s)
    | none => s
  | none => s

/-! ## Flush (R64) -/

/-- Planes of the pair whose stripes this plane serves. -/
def servedPlanes (s : State) : List Nat := [ownPlane s, twinPlane s].filter fun p => serve s p = .here

/-- The flush accesses of [addr, addr + len) of a range: one per tray port and stripe, and the matching part of a MAC extent (R64, R463). -/
def flushAccs (s : State) (r : Req) (e : RangeEntry) (addr len : Nat) : List Acc :=
  if e.tier = 1 then []
  else
    let iset := isetOf s e.iset
    (servedPlanes s).flatMap fun pl => match stripeSpan e (planes s) pl addr len with
      | none => []
      | some (lo, hi) =>
        let odd := pl % 2 == 1
        let base := baseAcc r odd
        (flushSpans e iset odd lo hi).flatMap fun x =>
          if portIs s x.1 2 1 then []
          else { base with port := x.1, addr := x.2.1, len := x.2.2, kind := .flush, data := natLe 8 x.2.2, writeClass := true } ::
            (if e.sealed then
              [{ base with
                  port := x.1, addr := macAddr e iset.length (planes s) odd x.2.1, len := x.2.2 / 8, kind := .flush,
                  data := natLe 8 (x.2.2 / 8), writeClass := true, isMac := true }]
             else [])

/-- The range or region a flush acts on: entry, start, length. -/
def flushRegion (r : Req) : Option (RangeEntry × Nat × Nat) :=
  match r.kind with
  | .flushRange n => r.view.map fun v => (v.2.1, r.hdr.addr, n)
  | .publish rb rl _ _ => r.region.map fun v => (v.2, rb, rl)
  | _ => none

/-- A line that a gateway piece stores here (R385). -/
def gwStores (q : Req) : Bool := match q.src with
  | .gwLoc .. => true
  | _ => false

/-- Requests from the same requester, accepted earlier, that store into the region and are unanswered (R64); on CXL tray ports every earlier
write into it (R377). -/
def earlierWrites (s : State) (r : Req) (e : RangeEntry) (addr len : Nat) : List Nat :=
  let cxl := (isetOf s e.iset).any fun p => portIs s p 2 1
  (s.mem.reqs.filter fun q => decide (q.id < r.id) && !q.released && decide (q.hdr.addr < addr + len) && decide (addr < q.hdr.addr + 64)
    && (if cxl then q.covered || decide (q.src = .tap) || gwStores q else q.covered && q.hdr.rid == r.hdr.rid) && (match q.kind with
      | .flushRange _ => false
      | .publish .. => cxl
      | k => kindWrite k)).map (·.id)

/-- Lines a request touches; of a PUBLISH, its version word's. -/
def linesOf (r : Req) : List Nat :=
  let a := lineOf r.hdr.addr
  let b := lineOf (r.hdr.addr + kindLen r.kind - 1)
  match r.kind with
  | .flushRange _ | .fence | .opFlit _ => []
  | .publish .. => [a]
  | _ => (List.range (b - a + 1)).map (a + ·)

/-- Data and MAC of a sealed line are two accesses: a request on them has been dispatched and is not answered. -/
def sealedBusy (q : Req) : Bool :=
  (q.view.any fun v => v.2.1.sealed) && (decide (q.phase = .queued) || decide (q.phase = .exec) || decide (q.phase = .fill))

/-- An earlier request to the line has not come to its tray-port queue or to the atomic unit, so this one waits (R49, R51): one that waits at dispatch,
a PUBLISH of the same requester in its flush phase, and on a sealed line any that is not answered, when one of the two writes, so that the data and the MAC
of a line change as one (R49, R463). -/
def aheadOf (s : State) (id line : Nat) : Bool :=
  let me := findReq s id
  s.mem.reqs.any fun q => decide (q.id < id) && decide (line ∈ linesOf q) && !q.released &&
    (if isPublish q.kind && decide (q.stage < 2) then decide (some q.hdr.rid = me.map (·.hdr.rid))
     else decide (q.phase = .lock) || decide (q.phase = .rsp) || decide (q.phase = .admitting) ||
       (sealedBusy q && (kindWrite q.kind || me.any fun r => kindWrite r.kind)))

/-- The line lock may be taken: the line is free, no earlier request waits for it, and an entry is free (R51). -/
def lockFree (s : State) (id line : Nat) : Bool :=
  (aget s.mem.locks line).isNone && decide (s.mem.locks.length < 16384) && !aheadOf s id line

/-- The line lock is taken. -/
def takeLock (id line : Nat) (s : State) : State :=
  let l := aset s.mem.locks line (.req id)
  { s with mem := { s.mem with locks := l, lockPeak := max s.mem.lockPeak l.length } }

/-- The compare-and-swap phase of a PUBLISH begins: it takes the lock or waits for it (R70, R51). -/
def casStart (id : Nat) (s : State) : State :=
  match findReq s id with
  | none => s
  | some r =>
    if lockFree s id (lineOf r.hdr.addr) then auRead id (takeLock id (lineOf r.hdr.addr) s)
    else setReq id (fun r => { r with phase := .lock }) s

/-- The flush phase has ended (R64, R70). -/
def flushEnd (id : Nat) (st : Status) (s : State) : State :=
  match findReq s id with
  | none => s
  | some r =>
    if isPublish r.kind then
      if st = .ok then casStart id (setReq id (fun r => { r with stage := 2 }) s)
      else auRelease id false (recordAnswer id st 0 s)
    else finishRetire id st 0 [] s

/-- The flush commands go out (R64). -/
def flushGo (id : Nat) (s : State) : State :=
  match findReq s id with
  | none => s
  | some r => match flushRegion r with
    | none => flushEnd id .ok s
    | some (e, addr, len) =>
      let accs := flushAccs s r e addr len
      if accs = [] then flushEnd id .ok s
      else
        let ps := accs.map fun a => ({ port := a.port, addr := a.addr, len := a.len, off := 0 } : Piece)
        let w := issueFor (accs.mapIdx fun i a => { a with owner := .req id i })
          (setReq id (fun r => { r with phase := .exec, pieces := ps, macs := [], stage := 1 }) s)
        if w.1 then w.2 else flushEnd id .targetLost w.2

/-- A FLUSH_RANGE or PUBLISH is dispatched into its wait for earlier writes (R64). -/
def flushStart (id : Nat) (s : State) : State :=
  match findReq s id with
  | none => s
  | some r =>
    let ws := match flushRegion r with
      | some (e, addr, len) => earlierWrites s r e addr len
      | none => []
    let s := beginExec id (setReq id (fun r => { r with phase := .early, waits := ws }) s)
    if ws = [] then flushGo id s else s

/-- Flushes whose earlier writes have all completed go on. -/
def wakeFlushes (s : State) : State :=
  (s.mem.reqs.filter fun r => r.phase = .early ∧ r.waits = []).foldl (fun s r => flushGo r.id s) s

/-! ## What a returned piece leads to -/

/-- Every piece of a request has come back: the load is answered, the store completes or writes its MAC, the flush ends, the atomic unit goes
on (R44, R45, R47, R64, Table 2.4). -/
def progress (id : Nat) (s : State) : State :=
  match findReq s id with
  | none => s
  | some r =>
    let st := pieceStatus r
    let e := match r.view with
      | some v => v.2.1
      | none => {}
    match r.phase with
    | .auRead =>
      if st ≠ .ok then auLine id st [] s
      else match readBytes s r e (lineAddr r) 64 with
        | some b => auLine id .ok b s
        | none => auLine id .poison [] (bumpG .sealMacErr 1 s)
    | .auWrite =>
      if st = .ok ∧ e.sealed ∧ r.stage = 0 then
        let w := writeMac id s
        if w.1 then w.2 else auRelease id false (recordAnswer id .targetLost r.result w.2)
      else auRelease id (decide (st = .ok)) (recordAnswer id (if st = .ok then r.finalSt else st) (if st = .ok then r.result else 0) s)
    | _ => match r.kind with
      | .flushRange _ | .publish .. => flushEnd id st s
      | .loadLine | .loadStream _ =>
        if macFirst s r e r.hdr.addr then finishRetire id .poison 0 [] (bumpG .sealMacErr 1 s)
        else if st ≠ .ok then finishRetire id st 0 [] s
        else match readBytes s r e r.hdr.addr (kindLen r.kind) with
          | some b => finishRetire id .ok 0 b s
          | none => finishRetire id .poison 0 [] (bumpG .sealMacErr 1 s)
      | _ =>
        if st = .ok ∧ e.sealed ∧ r.stage = 0 then
          let w := writeMac id s
          if w.1 then w.2 else finishRetire id .targetLost 0 [] w.2
        else finishRetire id st 0 [] s

/-- A piece of a request comes back from its tray, from Firn or from a rebuild. -/
def reqPiece (id i : Nat) (mac : Bool) (st : Status) (data : Bytes) (s : State) : State :=
  let s := setReq id (setPiece i mac st data) s
  match findReq s id with
  | some r => if piecesDone r then progress id s else s
  | none => s

/-! ## Dispatch: issue, admission, reservation, lock -/

/-- Requests that wait for a fill are answered as soon as their own bytes have come back: with the bytes, or with the first of their pieces that failed
(R84, R86, R17). -/
def fillServe (fid : Nat) (s : State) : State :=
  match findFill s fid with
  | none => s
  | some f => f.waiters.foldl (fun s id => match findReq s id with
    | none => s
    | some r => match r.view with
      | none => s
      | some (_, e, _) =>
        let off := planeLocal r.hdr.addr e (planes s) % 4096
        if fillDone f off (kindLen r.kind) && (!(e.sealed && e.tier == 0) || decide (f.left = 0)) then
          match fillFail f off (kindLen r.kind) with
          | some (x, st) =>
            if decide (off < x) && (fillOpen s f e off (x - off)).isNone then finishRetire id .poison 0 [] (bumpG .sealMacErr 1 s)
            else finishRetire id st 0 [] s
          | none => match fillOpen s f e off (kindLen r.kind) with
            | some b => finishRetire id .ok 0 b s
            | none => finishRetire id .poison 0 [] (bumpG .sealMacErr 1 s)
        else if f.left = 0 then finishRetire id (f.failed.getD .poison) 0 [] s
        else s) s

/-- A miss allocates, but for a stream's of a range that is not pinned (R114). -/
def fillAllocates (s : State) (r : Req) (range : Nat) : Bool :=
  match r.src with
  | .strm .. => s.hbm.pins.any fun p => p.range == range
  | _ => true

/-- A load of a firn range: from Firn, from a fill, or from the tray when the miss table is full (R84, R85); POISON on a bad row (R99). -/
def firnLoad (id : Nat) (r : Req) (range : Nat) (e : RangeEntry) (odd : Bool) (s : State) : State :=
  let loc := planeLocal r.hdr.addr e (planes s)
  if e.tier == 1 && rowBad s range odd (flashRef s range r.fgen e odd loc).loc then finishRetire id .poison 0 [] s
  else match firnLook range odd r.fgen loc (firnScrub range odd r.fgen (loc / 65536) e.owner s) with
  | (some sec, s) => finishRetire id .ok 0 (slice sec (loc % 4096) (kindLen r.kind)) (bumpG .firnHit 1 s)
  | (none, s) =>
    let s := bumpG .firnMiss 1 s
    let wait (fid : Nat) (s : State) : State :=
      let s := setFill fid (fun f => { f with waiters := f.waiters ++ [id] }) (setReq id (fun r => { r with phase := .fill }) s)
      fillServe fid (if (findFill s fid).any (·.sent) then beginExec id s else s)
    match s.hbm.fills.find? fun f => f.range == range && f.odd == odd && f.gen == r.fgen && f.loc == loc / 4096 * 4096 with
    | some f => wait f.fid s
    | none =>
      if s.hbm.fills.length < 4096 then
        let w := startFill range r.fgen e odd loc r.hdr.part (min r.hdr.cls 6) (fillAllocates s r range) false (baseAcc r odd).eng s
        wait w.1 w.2
      else
        let s := bumpG .firnNoalloc 1 s
        if e.tier = 1 then
          let p : Piece := { port := 0, addr := 0, len := kindLen r.kind, off := 0 }
          let s := setReq id (fun r => { r with phase := .queued, pieces := [p] }) s
          match readFlash range r.fgen e odd loc { baseAcc r odd with len := kindLen r.kind, off := loc % 4096 } s with
          | (.data b, s) => reqPiece id 0 false .ok (slice b (loc % 4096) (kindLen r.kind)) s
          | (.poison, s) => finishRetire id .poison 0 [] s
          | (.lost, s) => finishRetire id .targetLost 0 [] s
          | (.wait, s) => s
        else
          let plan := readPlan s r e odd r.hdr.addr (kindLen r.kind)
          let w := issueFor plan.2.2 (setReq id (fun r => { r with phase := .queued, pieces := plan.1, macs := plan.2.1 }) s)
          if w.1 then w.2 else finishRetire id .targetLost 0 [] w.2

/-- A load of a range outside Firn (R15, R17, R96). -/
def plainLoad (id : Nat) (r : Req) (range : Nat) (e : RangeEntry) (odd : Bool) (s : State) : State :=
  if e.tier = 1 then
    let loc := planeLocal r.hdr.addr e (planes s)
    let p : Piece := { port := 0, addr := 0, len := kindLen r.kind, off := 0 }
    let s := setReq id (fun r => { r with phase := .queued, pieces := [p] }) s
    match readFlash range r.fgen e odd loc { baseAcc r odd with len := kindLen r.kind, off := loc % 4096 } s with
    | (.data b, s) => reqPiece id 0 false .ok (slice b (loc % 4096) (kindLen r.kind)) s
    | (.poison, s) => finishRetire id .poison 0 [] s
    | (.lost, s) => finishRetire id .targetLost 0 [] s
    | (.wait, s) => s
  else
    let plan := readPlan s r e odd r.hdr.addr (kindLen r.kind)
    let w := issueFor plan.2.2 (setReq id (fun r => { r with phase := .queued, pieces := plan.1, macs := plan.2.1 }) s)
    if w.1 then w.2 else finishRetire id .targetLost 0 [] w.2

/-- One masked store of a plain range (R46). -/
def maskedStore (id : Nat) (r : Req) (e : RangeEntry) (odd : Bool) (data : Bytes) (mask : Nat) (s : State) : State :=
  let x := selectPort (lineAddr r) e (isetOf s e.iset) (planes s) odd
  let p : Piece := { port := x.1, addr := x.2, len := 64, off := 0, faddr := lineAddr r }
  let w := issueFor [{ baseAcc r odd with
      port := x.1, addr := x.2, kind := .storeMasked, data := slice data 0 64, mask := mask, writeClass := true, poison := r.hdr.poison }]
    (setReq id (fun r => { r with phase := .queued, pieces := [p], macs := [], stage := 1 }) s)
  if w.1 then w.2 else finishRetire id .targetLost 0 [] w.2

/-- The bytes of a status line that a load reads (R45, Table 7.1). -/
def apLoad (s : State) (r : Req) : Bytes :=
  slice (packLine (lineAt s r.hdr.part ((apOff r.hdr.addr - 0x8000) / 64))) (r.hdr.addr % 64) (kindLen r.kind)

/-- An access that works for the request is not admitted yet: the request waits in its staging (R135). -/
def heldBack (s : State) (id : Nat) : Bool := s.mem.accs.any fun a => decide (a.state = .held) && decide (id ∈ servedBy s a)

/-- The request has gone to its trays or to the atomic unit. -/
def issued (r : Req) : Bool := match r.phase with
  | .queued | .exec | .fill | .early | .auRead | .auMirror | .auWrite => true
  | .lock => isPublish r.kind && decide (r.stage = 2)
  | _ => false

/-- A request all of whose accesses have entered their class queues leaves its staging (R118, R135). -/
def leaveStaging (id : Nat) (s : State) : State :=
  match findReq s id with
  | some r => if holdsStaging r && issued r && !heldBack s id then freeStaging r.hdr.port id s else s
  | none => s

/-- The request goes to its trays or to the atomic unit; a load of aperture space reads its status line. -/
def goIssue (id : Nat) (s : State) : State :=
  leaveStaging id <| match findReq s id with
  | none => s
  | some r =>
    match r.view with
    | none => if inAperture r.hdr.addr then finishRetire id .ok 0 (apLoad s r) s else s
    | some (range, e, odd) => match r.kind with
      | .loadLine | .loadStream _ => if e.firn then firnLoad id r range e odd s else plainLoad id r range e odd s
      | .storeLine d =>
        let w := writeLine id (slice d 0 64) r.hdr.poison (setReq id (fun r => { r with phase := .queued }) s)
        if w.1 then w.2 else finishRetire id .targetLost 0 [] w.2
      | .storeMasked d m =>
        if m = 0 then finishRetire id .ok 0 [] s
        else if m.toNat = 2 ^ 64 - 1 then
          let w := writeLine id (slice d 0 64) r.hdr.poison (setReq id (fun r => { r with phase := .queued }) s)
          if w.1 then w.2 else finishRetire id .targetLost 0 [] w.2
        else if e.sealed then auRead id s
        else maskedStore id r e odd d m.toNat s
      | .flushRange _ | .publish .. => flushStart id s
      | .fence | .opFlit _ => s
      | _ => auRead id s

/-- The line is held by the SCATTER_ADD piece that the request is an access of (R287). -/
def ownPiece (s : State) (id line : Nat) : Bool :=
  match aget s.mem.locks line, findReq s id with
  | some (.piece part slot), some r => decide (r.src = .eng slot ∧ r.hdr.part = part)
  | _, _ => false

/-- The line is locked for another request or piece (R51). -/
def lineLocked (s : State) (id line : Nat) : Bool :=
  match aget s.mem.locks line with
  | some (.req n) => decide (n ≠ id)
  | some (.piece ..) => !ownPiece s id line
  | none => false

/-- A line is locked, or an earlier request waits for it (R49, R51); a piece's own accesses to its lines do not wait. -/
def lineBusy (s : State) (id line : Nat) : Bool := !ownPiece s id line && (lineLocked s id line || aheadOf s id line)

/-- Requests that take a line-lock entry before dispatch: tagged ones but PUBLISH, whose lock belongs to its second phase, and masked stores of
a sealed range (R51, R463). -/
def takesLock (r : Req) : Bool :=
  match r.kind with
  | .publish .. => false
  | .storeMasked _ m => (match r.view with
    | some v => v.2.1.sealed && decide (m ≠ 0 ∧ m.toNat ≠ 2 ^ 64 - 1)
    | none => false)
  | k => kindTagged k

/-- The tray port of a request's first byte. -/
def firstPort (s : State) (r : Req) : Option Nat :=
  match r.view with
  | some (_, e, odd) => if e.tier = 1 then none else some (selectPort r.hdr.addr e (isetOf s e.iset) (planes s) odd).1
  | none => none

/-- The request goes to the twin that serves its address, which applies the deadlines of R39 to it (R13): from the class queue of the twin link, when that
takes it (R135); a request whose twin is gone by then is answered RETRY_LATER. -/
def goForward (id : Nat) (s : State) : State :=
  match findReq s id with
  | none => s
  | some r => match r.view, twinPort s with
    | some (range, e, _), some p =>
      let bytes := 32 + kindPayload r.kind
      let n := ceilDiv bytes 256
      let c := min r.hdr.cls 6
      if !portUp s p then finishRetire id .retryLater 0 [] s
      else if admits s p c n r.yellow then
        let s := if holdsStaging r then freeStaging r.hdr.port id s else s
        let (u, s) := takeId (setReq id (fun r => { r with phase := .fwd, fwd := true }) s)
        enqueue p c { uid := u, item := .twin (.fwd id r.hdr r.kind r.accAt range e r.region), pool := .shr, cells := n, bytes := bytes, part := r.hdr.part,
                      cls := c, yellow := r.yellow } (poolTake .shr n s)
      else setReq id (fun r => { r with phase := .admitting, fwd := true }) s
    | _, _ => finishRetire id .retryLater 0 [] s

/-- Admission to the Vat (R135): a refused request waits in staging. -/
def goAdmit (id : Nat) (s : State) : State :=
  match findReq s id with
  | none => s
  | some r =>
    if r.fwd then goForward id s
    else if !takesLock r && !isPublish r.kind && (linesOf r).any (lineLocked s id) then setReq id (fun r => { r with phase := .lock }) s
    else
    let ok := (baseAcc r false).eng || match firstPort s r with
      | some p => admits s p (min r.hdr.cls 6) 1 r.yellow || !portUp s p
      | none => r.view.isNone || (decide (1 ≤ shrFree s) && decide (s.vat.desc < 1048576))
    if ok then goIssue id s else setReq id (fun r => { r with phase := .admitting }) s

/-- The port a request's response is reserved at (R133). -/
def answerPort (s : State) (r : Req) : Option Nat :=
  match r.src with
  | .bamom | .cxl _ => some r.hdr.port
  | .twin _ => twinPort s
  | .proxy _ | .gw | .eng _ | .tap | .gwLoc .. | .ds .. | .strm .. => none

/-- The reservation fits the port's cap and no request that became ready earlier waits for one (R133). -/
def rspFits (s : State) (p id n : Nat) : Bool :=
  decide ((port s p).rspUsed + n ≤ rspCap s p) &&
    match s.mem.reqs.find? fun q => q.phase = .rsp && decide (answerPort s q = some p) with
    | some q => decide (q.id = id)
    | none => true

/-- Response reservation (R133): a request that does not fit waits in dispatch, behind those that became ready before it. -/
def goRsp (id : Nat) (s : State) : State :=
  match findReq s id with
  | none => s
  | some r => match answerPort s r with
    | none => goAdmit id s
    | some p =>
      let n := kindQuanta r.kind
      if r.quanta ≥ n then goAdmit id s
      else if rspFits s p id n then
        let s := poolTake .rsp n (setPort p (fun q => { q with rspUsed := q.rspUsed + n }) s)
        goAdmit id (setReq id (fun r => { r with quanta := n }) s)
      else if r.phase = .rsp then s
      else
        let s := dropReq id s
        { s with mem := { s.mem with reqs := s.mem.reqs ++ [{ r with phase := .rsp }] } }

/-- Line lock (R51): a request to a locked line, or one that finds no entry, waits. -/
def goLock (id : Nat) (s : State) : State :=
  match findReq s id with
  | none => s
  | some r =>
    if takesLock r then
      if ownPiece s id (lineOf r.hdr.addr) then goRsp id s
      else if (aget s.mem.locks (lineOf r.hdr.addr)) = some (.req id) ∨ lockFree s id (lineOf r.hdr.addr) then
        goRsp id (takeLock id (lineOf r.hdr.addr) s)
      else setReq id (fun r => { r with phase := .lock }) s
    else if !isPublish r.kind && (linesOf r).any (lineBusy s id) then setReq id (fun r => { r with phase := .lock }) s
    else goRsp id s

/-! ## Tags (R55 to R57) -/

/-- What classify_tagged says (R56). -/
inductive TagClass where
  | new | join | recorded (st : Status) (res : BitVec 128) | refuse (st : Status)
  deriving DecidableEq, Repr

/-- classify_tagged (R56), with the shadow entries of an adopted stripe answering like entries of this plane (R58, Table 2.5). -/
def classifyTag (s : State) (r : Req) : TagClass :=
  match findIdem s r.hdr.rid r.hdr.tag with
  | some e =>
    if e.opcode ≠ kindCode r.kind ∨ e.addr ≠ r.hdr.addr then .refuse .unsupported
    else match e.state with
      | .notApplied => .new
      | .running => .join
      | .recorded => .recorded e.status e.result
  | none =>
    match (if s.twn.servesTwin then s.mem.shadow.find? fun e => !e.ent.running ∧ e.ent.rid = r.hdr.rid ∧ e.ent.tag = r.hdr.tag else none) with
    | some e =>
      if e.ent.opcode ≠ kindCode r.kind ∨ e.ent.addr ≠ r.hdr.addr then .refuse .unsupported
      else .recorded e.ent.status e.ent.result
    | none =>
      let stale := match aget s.mem.tagHi r.hdr.rid with
        | some hi => let d := (r.hdr.tag + 65536 - hi % 65536) % 65536; decide (d = 0 ∨ d ≥ 32768)
        | none => false
      if stale then .refuse .staleTag
      else if (s.mem.idem.filter fun e => e.part = r.hdr.part).length ≥ (partRec s r.hdr.part).idemQuota then .refuse .retryLater
      else .new

/-- A tagged request enters the atomic unit: classified, then dispatched, joined or answered (R56, R416). -/
def goTagged (id : Nat) (s : State) : State :=
  match findReq s id with
  | none => s
  | some r =>
    if s.flt.lanesOut.length ≥ 4 then finishRetire id .targetLost 0 [] s
    else match classifyTag s r with
      | .refuse st =>
        let s := match st with
          | .staleTag => bumpG .auIdemStale 1 s
          | .retryLater => bumpG .auQuotaFull 1 s
          | _ => s
        finishRetire id st 0 [] s
      | .recorded st res => finishRetire id st (resWord r.kind res) (resData r.kind st res) (bumpG .auIdemReplay 1 s)
      | .join =>
        let s := setIdem r.hdr.rid r.hdr.tag (fun e => { e with joined := e.joined ++ [id] }) s
        beginExec id (setReq id (fun r => { r with phase := .joined }) s)
      | .new =>
        let s := if (findIdem s r.hdr.rid r.hdr.tag).isSome then
            setIdem r.hdr.rid r.hdr.tag (fun e => { e with state := .running, ansAt := none }) s
          else
            let e : IdemEnt := {
              rid := r.hdr.rid, tag := r.hdr.tag, part := r.hdr.part, opcode := kindCode r.kind, addr := r.hdr.addr, state := .running }
            { s with mem := { s.mem with idem := s.mem.idem ++ [e], tagHi := aset s.mem.tagHi r.hdr.rid r.hdr.tag } }
        goLock id (setReq id (fun r => { r with mirrored := s.mem.mirrorEn }) s)

end Sys2Proof.Machine
end

