-- ==== Sys2Proof/Machine/Engine.lean ====
section
/-! DEFINITION. Operation flits (chapter 7): their fields, acceptance, contexts and scratch, the engines' remote accesses, how an op runs from
yield to yield, and its completion. -/

namespace Sys2Proof.Machine

/-! ## Fields (Table 7.2) -/

/-- `width` bits at bit `lo` of the word at byte `off` of a flit. -/
def fw (w : BitVec 512) (off lo width : Nat) : Nat := bits w.toNat (8 * off + lo) width

/-- A 52-bit address whose low word is at `off`. -/
def fAddr (w : BitVec 512) (off : Nat) : Nat := fw w off 0 32 + fw w (off + 4) 0 20 * 2 ^ 32

/-- A region key. -/
def fKey (w : BitVec 512) (off : Nat) : Word32 := BitVec.ofNat 32 (fw w off 0 32)

/-- A 64-bit value. -/
def fWord (w : BitVec 512) (off : Nat) : Word64 := BitVec.ofNat 64 (fw w off 0 64)

def fEngine (w : BitVec 512) : Nat := fw w 0 0 8
def fOp (w : BitVec 512) : Nat := fw w 0 8 8
def fCmplEn (w : BitVec 512) : Bool := fw w 0 16 1 == 1
def fFence (w : BitVec 512) : Bool := fw w 0 17 1 == 1
def fClass (w : BitVec 512) : Nat := fw w 0 20 3
def fCookie (w : BitVec 512) : Nat := fw w 4 0 16
def fTag (w : BitVec 512) : Nat := fw w 4 16 16
def fCmplAddr (w : BitVec 512) : Nat := fAddr w 8
def fCmplKey (w : BitVec 512) : Word32 := fKey w 0x10
def fTimeMs (w : BitVec 512) : Nat := fw w 0x14 0 16

/-- The tagged PROXY ops (Tables 2.2 and 7.9). -/
def proxyTagged (op : Nat) : Bool := decide (op ∈ [0x12, 0x20, 0x21, 0x22, 0x23, 0x24, 0x25, 0x26, 0x27, 0x28, 0x2C, 0x2D, 0x32])

/-- The engine and op are defined (Tables 7.3, 7.5, 7.9, 8.8, 9.1, 10.2, 11.1). -/
def opDefined (e op : Nat) : Bool :=
  match e with
  | 1 => proxyTagged op || op == 0x30 || op == 0x31
  | 2 | 3 | 6 => decide (1 ≤ op ∧ op ≤ 3)
  | 4 => decide (1 ≤ op ∧ op ≤ 7)
  | 5 => decide (1 ≤ op ∧ op ≤ 5)
  | _ => false

/-- A2: reserved header fields are zero and the record address is 16-byte aligned. -/
def hdrOk (w : BitVec 512) : Bool :=
  decide (fw w 0 18 2 = 0 ∧ fw w 0 23 9 = 0 ∧ fw w 0xC 20 12 = 0 ∧ fw w 0x14 16 16 = 0)
    && ((fEngine w == 1 && proxyTagged (fOp w)) || fTag w == 0)
    && (!fCmplEn w || fCmplAddr w % 16 == 0)

/-! ## Rights of engine accesses -/

/-- What an access needs (R23): reads E and R, writes E and W. -/
def needER : Rights := { e := true, r := true }
def needEW : Rights := { e := true, w := true }
def needR : Rights := { r := true }

/-- The rights held cover those needed. -/
def rightsCover (need g : Rights) : Bool := (!need.r || g.r) && (!need.w || g.w) && (!need.a || g.a) && (!need.e || g.e)

/-! ## Flits and status lines -/

/-- The running flit of a slot. -/
def flitAt (s : State) (part slot : Nat) : Option Flit := s.eng.flits.find? fun f => f.part = part ∧ f.slot = slot

/-- `s` with a flit changed. -/
def setFlit (part slot : Nat) (g : Flit → Flit) (s : State) : State :=
  { s with eng := { s.eng with flits := modFirst (fun f => f.part = part ∧ f.slot = slot) g s.eng.flits } }

/-- `s` with a status line changed. -/
def setLine (part slot : Nat) (g : SlotLine → SlotLine) (s : State) : State :=
  { s with eng := { s.eng with lines := amod s.eng.lines (part, slot) {} g } }

/-! ## Contexts (R219 to R221, R225) -/

/-- Units of an engine kind: 0 RDU, 1 GTU, 2 FLU, 3 CTU (Table 7.3). -/
def unitCount : Nat → Nat
  | 0 => 16 | 1 => 8 | 2 => 8 | 3 => 4 | _ => 0

/-- Context allotment of a partition. -/
def ctxAllot (s : State) (part kind : Nat) : Nat := (partRec s part).ctx.getD kind 0

/-- The exclusive flag. -/
def ctxExcl (s : State) (part kind : Nat) : Bool := (partRec s part).excl.getD kind false

/-- A unit is mapped out. -/
def unitOut (s : State) (kind u : Nat) : Bool := decide (({ kind := kind, num := u } : UnitId) ∈ s.eng.unitsOut)

/-- The partition a unit is given to alone (R220). -/
def unitOwner (s : State) (kind u : Nat) : Option Nat := aget s.eng.unitOwn (kind, u)

/-- Another partition, of those that `who` picks, holds contexts of the unit. -/
def otherOn (s : State) (part kind u : Nat) (who : Nat → Bool) : Bool :=
  s.eng.flits.any fun f => f.part != part && who f.part && f.ctxs.any fun c => c.kind == kind && c.unit == u && decide (0 < c.n)

/-- The units of a kind that an exclusive partition is given: those it has, as many as its allotment makes, in ascending order, and then the lowest in
service that none has, those first on which no other partition runs. -/
def unitsFor (s : State) (kind part : Nat) (own : List ((Nat × Nat) × Nat)) : List ((Nat × Nat) × Nat) :=
  let n := if ctxExcl s part kind then ctxAllot s part kind / 64 else 0
  let has := ((List.range (unitCount kind)).filter fun u => aget own (kind, u) = some part)
  let free := (List.range (unitCount kind)).filter fun u => (aget own (kind, u)).isNone && !unitOut s kind u
  let new := (sortBy (fun u => b2n (otherOn s part kind u fun _ => true) * 64 + u) free).take (n - has.length)
  own.filter (fun e => !(e.2 == part && e.1.1 == kind && decide (e.1.2 ∉ has.take n))) ++ new.map fun u => ((kind, u), part)

/-- Whole units are given to the exclusive partitions (R220), in ascending order; `own` are those given before. A full image gives them anew, so that
units out of service are passed over (R225); a segment keeps them, a mapped-out one too (assumption 40). -/
def assignUnits (own : List ((Nat × Nat) × Nat)) (s : State) : State :=
  let parts := (sortBy (·.1) s.img.parts).map (·.1)
  let kept := own.filter fun e => decide (e.2 ∈ parts)
  { s with eng := { s.eng with unitOwn := [0, 1, 2, 3].foldl (fun own k => parts.foldl (fun own p => unitsFor s k p own) own) kept } }

/-- The unit is not kept from the partition by R220: it is its own, once no other partition runs there; else, when it is not exclusive, a unit that is
given to none and on which no exclusive partition still runs. -/
def unitOpen (s : State) (part kind u : Nat) : Bool := match unitOwner s kind u with
  | some p => p == part && !otherOn s part kind u fun _ => true
  | none => !ctxExcl s part kind && !otherOn s part kind u fun p => ctxExcl s p kind

/-- The partition may hold contexts of the unit (R220, R225). -/
def mayUse (s : State) (part kind u : Nat) : Bool := !unitOut s kind u && unitOpen s part kind u

/-- Contexts in use on a unit. -/
def ctxUsed (s : State) (kind u : Nat) : Nat :=
  sumOf (s.eng.flits.map fun f => sumOf ((f.ctxs.filter fun c => c.kind = kind ∧ c.unit = u).map (·.n)))

/-- Contexts of a kind that a partition holds. -/
def ctxHeld (s : State) (part kind : Nat) : Nat :=
  sumOf ((s.eng.flits.filter fun f => f.part = part).map fun f => sumOf ((f.ctxs.filter fun c => c.kind = kind).map (·.n)))

/-- Free contexts of the units the partition may use: unit and count. -/
def freeUnits (s : State) (part kind : Nat) : List (Nat × Nat) :=
  ((List.range (unitCount kind)).filter (mayUse s part kind)).map fun u => (u, 64 - ctxUsed s kind u)

/-- The unit with the most free contexts, the lower number of equals (R220). -/
def bestUnit (l : List (Nat × Nat)) : Option (Nat × Nat) := minBy (fun x => (64 - x.2) * 64 + x.1) l

/-- `n` contexts on one unit. -/
def holdOne (s : State) (part kind n : Nat) : Option (List CtxHold) :=
  match bestUnit (freeUnits s part kind) with
  | some (u, fr) => if n ≤ fr then some [⟨kind, u, n⟩] else none
  | none => none

/-- `n` contexts, each on the unit with the most free contexts when it is taken. -/
def holdSpread (kind : Nat) : Nat → List (Nat × Nat) → Option (List CtxHold)
  | 0, _ => some []
  | n + 1, l => match bestUnit l with
    | some (u, fr) => if fr = 0 then none else
        (holdSpread kind n (l.map fun x => if x.1 = u then (u, fr - 1) else x)).map (⟨kind, u, 1⟩ :: ·)
    | none => none

/-- `c` contexts on each of the `u` units with the most free contexts (R322). -/
def holdScan (kind c : Nat) : Nat → List (Nat × Nat) → Option (List CtxHold)
  | 0, _ => some []
  | u + 1, l => match bestUnit l with
    | some (v, fr) => if fr < c then none else (holdScan kind c u (l.filter fun x => x.1 ≠ v)).map (⟨kind, v, c⟩ :: ·)
    | none => none

/-! ## Resident handles (R226) -/

/-- A resident handle. -/
def handleAt (s : State) (part h : Nat) : Option Handle := aget s.eng.handles (part, h)

/-- `s` with a handle changed. -/
def setHandle (part h : Nat) (g : Handle → Handle) (s : State) : State :=
  match handleAt s part h with
  | some x => { s with eng := { s.eng with handles := aset s.eng.handles (part, h) (g x) } }
  | none => s

/-- A byte of a handle; one that the spec does not state is free. -/
def handleByte (h : Handle) (a : Nat) : Byte :=
  match h.junk with
  | some i => if h.written.any fun w => decide (w.1 ≤ a ∧ a < w.1 + w.2) then cellGet h.mem a
    else BitVec.ofNat 8 (Config.freeNat (2 ^ 64 * (i + 1) + a))
  | none => cellGet h.mem a

/-- Bytes written into a handle. -/
def handleWrite (h : Handle) (a : Nat) (d : Bytes) : Handle :=
  { h with mem := cellWrite h.mem a d, written := if h.junk.isSome then (a, d.length) :: h.written else h.written }

/-- A handle's bytes are not stated any more (R302, R333). -/
def handleJunk (i : Nat) (h : Handle) : Handle := { h with mem := [], written := [], junk := some i }

/-- Bytes of a handle. -/
def handleSize (h : Handle) : Nat := h.granules * 65536

/-- A resident handle is bound to a collection or a sequence (R301, R333). -/
def handleBound (h : Handle) : Bool := h.boundColl.isSome || h.boundSeq.isSome

/-! ## Page tables (R330) -/

/-- A page table entry (Table 11.3); `ok` when valid is 1, reserved bits are zero, the address is aligned and fill is at most 256. -/
structure PageEnt where
  addr : Nat
  sel : Bool
  gpage : Nat
  fill : Nat
  ok : Bool
  deriving DecidableEq, Repr

/-- An entry of sixteen bytes. -/
def pageEnt (b : Bytes) : PageEnt :=
  let w0 := fieldAt b 0 4
  let w1 := fieldAt b 4 4
  let w2 := fieldAt b 8 4
  let w3 := fieldAt b 12 4
  { addr := w0 + bits w1 0 20 * 2 ^ 32, sel := bitAt w1 20, gpage := bits w2 0 21, fill := bits w3 0 9,
    ok := bitAt w1 31 && bits w1 21 10 == 0 && bits w2 21 11 == 0 && bits w3 9 23 == 0 && w0 % 64 == 0 && decide (bits w3 0 9 ≤ 256) }

/-- Entry `i` of the table a handle holds. -/
def tableEnt (h : Handle) (i : Nat) : PageEnt := pageEnt ((List.range 16).map fun j => handleByte h (16 * i + j))

/-- The first `n` entries. -/
def tableEnts (h : Handle) (n : Nat) : List PageEnt := (List.range n).map (tableEnt h)

/-- gpage strictly ascends. -/
def gpagesRise : List PageEnt → Bool
  | a :: b :: t => decide (a.gpage < b.gpage) && gpagesRise (b :: t)
  | _ => true

/-- A valid page table of `n` entries (R330). -/
def tableOk (h : Handle) (n : Nat) : Bool :=
  decide (n ≤ 262144) && decide (16 * n ≤ handleSize h) && (tableEnts h n).all (·.ok) && gpagesRise (tableEnts h n)

/-! ## Opening a sequence (R333) -/

/-- kv_fmt codes of Table 11.2. -/
def kvFmtOk (c : Nat) : Bool := decide (c = 1 ∨ c = 3 ∨ c = 4 ∨ (8 ≤ c ∧ c ≤ 0xC))

/-- The scale is positive, finite and normal. -/
def scaleOk (n : Nat) : Bool := !bitAt n 31 && decide (0 < bits n 23 8 ∧ bits n 23 8 < 255)

/-- The open sequence of a partition's id, with its slot index. -/
def seqOf (s : State) (part sid : Nat) : Option (Nat × Seq) := s.eng.seqs.find? fun e => e.2.part = part ∧ e.2.sid = sid

/-- The first condition of R333 that a SEQ_OPEN fails, the free slot and context apart; a poisoned handle ends it too (Table 14.2). -/
def seqOpenBad (s : State) (part : Nat) (w : BitVec 512) : Option (Status × Nat) :=
  if (seqOf s part (fw w 0x18 0 6)).isSome then some (.unsupported, 0x81)
  else if fw w 0x18 6 3 > 4 ∨ !kvFmtOk (fw w 0x18 17 6) ∨ !scaleOk (fw w 0x2C 0 32) then some (.unsupported, 0x03)
  else match handleAt s part (fw w 0x1C 0 16) with
    | none => some (.unsupported, 0x84)
    | some h =>
      if handleBound h then some (.unsupported, 0x84)
      else if h.poisoned then some (.poison, 0x0B)
      else if !tableOk h (fw w 0x20 0 19) then some (.unsupported, 0x82)
      else none

/-! ## Sequences, as acceptance needs them (R325 to R327) -/

/-- A SEQ_OPEN whose sequence is open counts as complete (R327). -/
def opensWhole (s : State) (f : Flit) : Bool :=
  (decide (fEngine f.word = 5 ∧ fOp f.word = 1) && s.eng.seqs.any fun e => e.2.part == f.part && e.2.openSlot == f.slot)

/-- Flits on a sequence, accepted and not complete (R327). -/
def seqFlits (s : State) (part sid : Nat) : List Flit :=
  s.eng.flits.filter fun f => f.part == part && decide (fEngine f.word = 5 ∧ fw f.word 0x18 0 6 = sid) && !opensWhole s f

/-- The SEQ_OPEN accepted, and not ended, that is to open a sequence. -/
def seqOpener (s : State) (part sid : Nat) : Option Flit :=
  (seqFlits s part sid).find? fun f => decide (fOp f.word = 1) && f.fin.isNone && f.ctxs.any fun c => c.kind == 3

/-- The unit of a sequence that is open, or is to be opened. -/
def seqUnit (s : State) (part sid : Nat) : Option Nat :=
  match seqOf s part sid with
  | some (_, q) => some q.unit
  | none => (seqOpener s part sid).bind fun f => (f.ctxs.find? fun c => c.kind = 3).map (·.unit)

/-- Head code, KV heads and query heads per KV head of a sequence that is open, or is to be opened. -/
def seqShape (s : State) (part sid : Nat) : Option (Nat × Nat × Nat) :=
  match seqOf s part sid with
  | some (_, q) => some (q.head, q.hkv, q.g)
  | none => (seqOpener s part sid).map fun f => (fw f.word 0x18 6 3, fw f.word 0x18 9 4 + 1, fw f.word 0x18 13 4 + 1)

/-- Contexts a PAGE_MAP, KV_APPEND or ATTEND takes (Table 11.1); one whose ctx_m1 is out of range takes one and ends on that (R332). -/
def seqCtxs (w : BitVec 512) : Nat := if fOp w = 3 ∨ fw w 0x18 8 2 = 3 then 1 else fw w 0x18 8 2 + 1

/-- `n` more contexts fit on a sequence's unit, beside what its other flits hold (R326): within its four, the allotment and the unit, and the unit is not
kept for another partition (R220). -/
def seqFits (s : State) (part u n : Nat) (others : List Flit) : Bool :=
  let held := 1 + sumOf ((others.filter fun f => fOp f.word ≠ 1 ∧ fOp f.word ≠ 2).map fun f => sumOf (f.ctxs.map (·.n)))
  decide (held + n ≤ 4 ∧ ctxHeld s part 3 + n ≤ ctxAllot s part 3 ∧ n ≤ 64 - ctxUsed s 3 u) && unitOpen s part 3 u

/-- Free sequence slots of a unit (R325): those of open sequences, and of SEQ_OPENs accepted that have not opened theirs, are taken. -/
def seqSlots (s : State) (u : Nat) : Nat :=
  16 - (s.eng.seqs.filter fun e => e.2.unit = u).length
    - (s.eng.flits.filter fun f => fEngine f.word == 5 && fOp f.word == 1 && f.fin.isNone && f.ctxs.any (fun c => c.kind == 3 && c.unit == u)
        && !s.eng.seqs.any fun e => e.2.part == f.part && e.2.openSlot == f.slot).length

/-- What an op asks for at A6. -/
inductive Ask where
  | holds (l : List CtxHold)
  | busy
  /-- accepted and ended at once: ENGINE_BUSY with detail 0x85 (R326, R327) -/
  | seqBusy
  deriving DecidableEq, Repr

/-- An option as an answer of A6. -/
def askOf : Option (List CtxHold) → Ask
  | some l => .holds l
  | none => .busy

/-- Contexts an op takes (R269, R291, R322, Table 11.1). The flits of a sequence, one that its SEQ_OPEN is still to open too, take theirs on its unit and
within its four (R326); one whose ctx_m1 is out of range takes one and ends on that (R332). A SEQ_OPEN that finds no unit is refused only when none of
the conditions before that fails (R333). -/
def askCtx (s : State) (rid part : Nat) (w : BitVec 512) : Ask :=
  match fEngine w with
  | 2 => if fOp w = 1 then askOf (holdSpread 0 (fw w 0x18 16 8 + 1) (freeUnits s part 0)) else askOf (holdOne s part 0 1)
  | 3 =>
    match holdOne s part 1 (fw w 0x1C 20 6 + 1) with
    | none => .busy
    | some l => if fOp w = 3 then (match holdOne s part 0 1 with
        | some m => .holds (l ++ m)
        | none => .busy) else .holds l
  | 4 =>
    match fOp w with
    | 4 => askOf (holdScan 2 (fw w 0x18 11 6 + 1) (fw w 0x18 8 3 + 1) (freeUnits s part 2))
    | 5 => askOf (holdOne s part 2 (fw w 0x18 8 6 + 1))
    | _ => askOf (holdOne s part 2 1)
  | 5 =>
    match fOp w with
    | 1 => (match bestUnit ((freeUnits s part 3).filter fun x => decide (0 < seqSlots s x.1 ∧ 0 < x.2 ∧ ctxHeld s part 3 < ctxAllot s part 3)) with
      | some (u, _) => .holds [⟨3, u, 1⟩]
      | none => if (seqOpenBad s part w).isSome then .holds [] else .busy)
    | 2 => askOf (holdOne s part 3 1)
    | _ =>
      let sid := fw w 0x18 0 6
      match seqUnit s part sid with
      | none => askOf (holdOne s part 3 1)
      | some u =>
        let fl := seqFlits s part sid
        if fl ≠ [] ∧ ¬(fFence w ∧ fl.all (fun f => f.rid == rid)) then .seqBusy
        else if seqFits s part u (seqCtxs w) fl then .holds [⟨3, u, seqCtxs w⟩] else .seqBusy
  | _ => .holds []

/-- The contexts asked for lie within the partition's allotments. -/
def withinAllot (s : State) (part : Nat) (l : List CtxHold) : Bool :=
  (List.range 4).all fun k => decide (ctxHeld s part k + sumOf ((l.filter fun c => c.kind = k).map (·.n)) ≤ ctxAllot s part k) ||
    (l.filter fun c => c.kind = k).isEmpty

/-! ## Scratch (R219, R226) -/

/-- Granules a partition holds, resident and transient. -/
def granHeld (s : State) (part : Nat) : Nat :=
  sumOf ((s.eng.handles.filter fun h => h.1.1 = part).map fun h => h.2.granules)
    + sumOf ((s.eng.flits.filter fun f => f.part = part).map (·.granules))

/-- `n` granules are free within the allotment and on the plane. -/
def granOk (s : State) (part n : Nat) : Bool :=
  decide (granHeld s part + n ≤ (partRec s part).scratch) && decide (n ≤ s.eng.scrFree)

/-- Granules are taken. -/
def granTake (n : Nat) (s : State) : State := { s with eng := { s.eng with scrFree := s.eng.scrFree - n } }

/-- Granules are freed: they are zeroed before they count as free (R226). -/
def granFree (n : Nat) (s : State) : State := { s with eng := { s.eng with zeroing := s.eng.zeroing + n } }

/-- The collection of an index. -/
def collAt (s : State) (i : Nat) : Option Coll := aget s.eng.colls i

/-- Transient scratch an op takes at acceptance (Tables 8.13, 9.6, 10.11, 11.1), but for what a SCATTER_ADD needs beyond its first granule, which its
descriptor block tells (`provGranules`). -/
def askGran (s : State) (part : Nat) (w : BitVec 512) : Nat :=
  match fEngine w with
  | 2 =>
    (match fOp w with
     | 1 =>
       let p := specOf (fw w 0x1C 0 32)
       let win := fw w 0x18 16 8 + 1
       let g := agetD s.img.rgroups (fw w 0x18 0 10) {}
       if p.op = 6 then ceilDiv (win * (agetD s.img.mcasts g.mcast {}).members.length * 4096) 65536
       else if p.op = 7 then ceilDiv win 4
       else ceilDiv (win * (fmtOf p.inFmt).elems * 40) 65536
     | 3 =>
       let p := specOf (fw w 0x24 0 32)
       if p.op = 6 ∨ p.op = 7 then 1 else ceilDiv (2 * (fmtOf p.inFmt).elems * 40) 65536
     | _ => 0)
  | 3 => 1
  | 4 =>
    (match fOp w with
     | 3 =>
       let c := ((collAt s (fw w 0x18 0 8)).filter fun c => c.part == part).getD { part := part, wc := 0, a8 := 0, filter := 0, main := 0, mainKey := 0, nPages := 0, capacity := 0 }
       ceilDiv (fw w 0x28 0 13 * (16 + 8 * (c.wc + 1) + 8 * c.a8)) 65536
     | 4 => (fw w 0x18 8 3 + 1) * (1 + ceilDiv ((fw w 0x24 20 8 + 1) * fw w 0x1C 0 11 * 16) 65536)
     | 5 => 1
     | _ => 0)
  | 5 =>
    (match fOp w, seqShape s part (fw w 0x18 0 6) with
     | 3, _ => 1
     | 4, some (head, hkv, _) => 1 + ceilDiv (fw w 0x20 0 13 * hkv * 4 * headDim head) 65536
     | 5, some (head, hkv, g) => 1 + ceilDiv ((fw w 0x18 10 4 + 1) * (hkv * g) * (6 * headDim head + 16)) 65536
     | 4, none | 5, none => 1
     | _, _ => 0)
  | _ => 0

/-! ## Acceptance (Table 7.4) -/

/-- A4: the partition's allotments for the engine are non-zero. -/
def allotOk (s : State) (part : Nat) (w : BitVec 512) : Bool :=
  match fEngine w with
  | 1 => true
  | 2 => decide (0 < ctxAllot s part 0)
  | 3 => decide (0 < ctxAllot s part 1) && (fOp w ≠ 3 || decide (0 < ctxAllot s part 0))
  | 4 => decide (0 < ctxAllot s part 2)
  | 5 => decide (0 < ctxAllot s part 3)
  | _ => decide (0 < (partRec s part).scratch)

/-- The first of A1 to A5 that fails. -/
def check15 (s : State) (part slot : Nat) (w : BitVec 512) : Option Status :=
  if !opDefined (fEngine w) (fOp w) || fClass w == 7 then some .unsupported
  else if !hdrOk w then some .unsupported
  else if (lineAt s part slot).state = 1 ∨ (flitAt s part slot).isSome then some .retryLater
  else if !allotOk s part w then some .noAccess
  else if fCmplEn w then
    (match checkEng s part (fCmplAddr w) 16 (fCmplKey w) (rightsCover needEW) with
     | .error e => some e.1
     | .ok _ => none)
  else none

/-- The stripes this plane serves: bit 0 its own, bit 1 its twin's. -/
def servedMask (s : State) : Nat :=
  b2n (serve s (ownPlane s) = .here) + 2 * b2n ((dev s).twinPresent && decide (serve s (twinPlane s) = .here))

/-- What an op takes at acceptance: a SCAN its watermark, generation, cut, main array and served stripes (R298, R311), a COMPACT its cut
(R314); nothing of another partition's collection (R295, R324). -/
def startRegs (s : State) (part : Nat) (w : BitVec 512) : List Nat :=
  match fEngine w, fOp w, collAt s (fw w 0x18 0 8) with
  | 4, 4, some c => if c.part ≠ part then [0, 0] else [c.published % 2 ^ 32, c.published / 2 ^ 32 % 65536 + c.gen % 65536 * 65536, 0, c.published, c.gen, c.cut,
      c.main, c.mainKey.toNat, c.nPages, servedMask s, 0, 0, 0, 0]
  | 4, 5, some c => if c.part ≠ part then [0, 0] else [0, 0, 0, c.published]
  | _, _, _ => [0, 0]

/-- COLL_DROP takes effect at acceptance (R302). -/
def dropAtAccept (part slot ord : Nat) (w : BitVec 512) (s : State) : State :=
  if fEngine w = 4 ∧ fOp w = 2 then
    match collAt s (fw w 0x18 0 8) with
    | some c => if c.part = part ∧ c.state = 1 then
        { s with eng := { s.eng with colls := aset s.eng.colls (fw w 0x18 0 8) { c with state := 2, dropped := some (slot, ord) } } } else s
    | none => s
  else s

/-- The slot of an accepted flit is RUNNING and its seq moves on (R217). -/
def lineTaken (part slot : Nat) (w : BitVec 512) (s : State) : State :=
  bumpG .opfAccept 1 (setLine part slot (fun l => { l with
    state := 1, record := 0, result16 := 0, cmplLost := false, cookie := fCookie w, seq := (l.seq + 1) % 65536 }) s)

/-- The flit waits under fence_before for an earlier flit of its requester (R215). -/
def fenceWaits (s : State) (rid : Nat) (w : BitVec 512) : Bool := fFence w && s.eng.flits.any fun f => f.rid == rid && !opensWhole s f

/-- The answer of a GROUP_ARM and of a SEQ_OPEN leaves only once the group is ARMED, the sequence OPEN, also when the flit first waits (R258, R333); that
of a SCATTER_ADD once its scratch is known and taken. -/
def answerLater (w : BitVec 512) : Bool := decide ((fEngine w = 2 ∨ fEngine w = 5) ∧ fOp w = 1) || decide (fEngine w = 3 ∧ fOp w = 3)

/-- The flit is accepted (R217). The acceptance of one that is answered later is open until then (assumption 41). -/
def takeFlit (id rid port part slot : Nat) (w : BitVec 512) (ctxs : List CtxHold) (gran : Nat) (fin : Option FlitEnd) (s : State) : State :=
  let prov := decide (fEngine w = 3 ∧ fOp w = 3)
  let f : Flit := {
    part := part, slot := slot, rid := rid, port := port, word := w, accAt := s.now, order := s.eng.order, waiting := fenceWaits s rid w
    ctxs := ctxs, granules := gran, fin := fin, regs := startRegs s part w, startAt := s.now, startId := s.nextId, prov := prov
    answer := if fin.isNone && answerLater w then some id else none }
  let s := if f.answer.isSome then s else lineTaken part slot w s
  dropAtAccept part slot s.eng.order w (granTake gran
    { s with eng := { s.eng with flits := s.eng.flits ++ [f], order := s.eng.order + 1 } })

/-- An OP_FLIT refused at the acceptance checks writes refuse_status and refuse_cookie (R228). -/
def refuseFlit (part slot : Nat) (w : BitVec 512) (st : Status) (c : GCtr) (s : State) : State :=
  bumpG c 1 (setLine part slot (fun l => { l with refuseStatus := st, refuseCookie := fCookie w }) s)

/-- Acceptance of an OP_FLIT that passed the checks of R212 (R217). -/
def acceptFlit (id rid port part slot : Nat) (w : BitVec 512) (s : State) : Status × State :=
  match check15 s part slot w with
  | some st => (st, refuseFlit part slot w st .opfRefuse s)
  | none =>
    let gran := askGran s part w
    match askCtx s rid part w with
    | .seqBusy =>
      (.ok, takeFlit id rid port part slot w [] 0 (some { status := .engineBusy, detail := 0x85 }) s)
    | .busy => (.engineBusy, refuseFlit part slot w .engineBusy .opfBusy s)
    | .holds l =>
      if withinAllot s part l && (decide (gran = 0) || granOk s part gran) then (.ok, takeFlit id rid port part slot w l gran none s)
      else (.engineBusy, refuseFlit part slot w .engineBusy .opfBusy s)

/-! ## Remote accesses (R222 to R224) -/

/-- An area cut into accesses of at most 4 KiB, none across a page. -/
def pagePieces : Nat → Nat → Nat → List (Nat × Nat)
  | 0, _, _ => []
  | _, _, 0 => []
  | n + 1, a, len =>
    let k := min len (4096 - a % 4096)
    (a, k) :: pagePieces n (a + k) (len - k)

/-- Reads of an area. -/
def engReads (addr len : Nat) (key : Word32) (need : Rights) : List EngAcc :=
  (pagePieces (len / 4096 + 2) addr len).map fun x => { addr := x.1, key := key, len := x.2, need := need }

/-- Writes of bytes at an address. -/
def engWrites (addr : Nat) (data : Bytes) (key : Word32) (need : Rights) (poison : Bool := false) : List EngAcc :=
  (pagePieces (data.length / 4096 + 2) addr data.length).map fun x =>
    { addr := x.1, key := key, len := x.2, write := true, data := slice data (x.1 - addr) x.2, poison := poison, need := need }

/-- The bytes a flit has read at an access's place, and whether they were poisoned. -/
def cacheAt (f : Flit) (a : EngAcc) : Option (Bytes × Bool) :=
  (f.cache.find? fun c => decide (c.1 = a.addr) && decide (c.2.1.length = a.len)).map (·.2)

/-- All of a list of reads, joined, when every one has come back. -/
def cacheAll (f : Flit) : List EngAcc → Option (Bytes × Bool)
  | [] => some ([], false)
  | a :: t => match cacheAt f a, cacheAll f t with
    | some x, some y => some ((if x.2 then zeros a.len else x.1) ++ y.1, x.2 || y.2)
    | _, _ => none

/-- Reads not yet in hand. -/
def cacheMiss (f : Flit) (l : List EngAcc) : List EngAcc := l.filter fun a => (cacheAt f a).isNone

/-- No byte of an area lies in a range that another plane serves (R223). -/
def areaHere (s : State) (addr len : Nat) : Bool :=
  (pagePieces (len / 4096 + 2) addr len).all fun x => match findRange s x.1 x.2 with
    | some (_, e) => decide (serve s (servingPlane s e x.1) = .here)
    | none => true

/-- Some byte of an area lies in a range that another plane serves. -/
def areaForeign (s : State) (addr len : Nat) : Bool := !areaHere s addr len

/-- Every byte of an area lies in some range. -/
def areaMapped (s : State) (addr len : Nat) : Bool := (pagePieces (len / 4096 + 2) addr len).all fun x => (findRange s x.1 x.2).isSome

/-- Some byte of an area lies in no range that this plane serves (R329, R340). -/
def areaLost (s : State) (addr len : Nat) : Bool := areaForeign s addr len || !areaMapped s addr len

/-- Accesses a flit has outstanding (R222); the lines of a write are one access. -/
def outCount (f : Flit) : Nat := ((f.out.map (·.acc)).eraseDups).length

/-- Accesses its contexts may have outstanding (R222). -/
def outLimit (f : Flit) : Nat := 16 * max 1 (sumOf (f.ctxs.map (·.n)))

/-- A request made for an engine access goes to its trays, Firn or flash. -/
def engRequest (f : Flit) (a : EngAcc) (v : Nat × RangeEntry × Bool) (acc addr len : Nat) (k : ReqKind) (cells : Nat) (s : State) : State :=
  let (id, s) := takeId s
  let h : ReqHdr := {
    port := f.port, rid := f.rid, part := f.part, cls := fClass f.word, cmark := false, poison := a.poison, tag := 0, reissue := false,
    addr := addr, key := a.key }
  let r : Req := { id := id, hdr := h, kind := k, src := .eng f.slot, accAt := s.now, phase := .lock, view := some v, fgen := firnGen s v.1 }
  let o : EngOut := { req := id, acc := acc, addr := addr, len := len, write := a.write, cells := cells }
  let s := setFlit f.part f.slot (fun f => { f with out := f.out ++ [o] }) s
  goLock id (poolTake .eng cells { s with mem := { s.mem with reqs := s.mem.reqs ++ [r] } })

/-- The lines of a write: address, bytes, mask. -/
def writeLines : Nat → Nat → Bytes → List (Nat × Bytes × Nat)
  | 0, _, _ => []
  | n + 1, a, d =>
    if d = [] then []
    else
      let k := min d.length (64 - a % 64)
      (a / 64 * 64, zeros (a % 64) ++ d.take k, (2 ^ k - 1) * 2 ^ (a % 64)) :: writeLines n (a + k) (d.drop k)

/-- The requests of one engine access. -/
def engSend (f : Flit) (a : EngAcc) (v : Nat × RangeEntry × Bool) (s : State) : State :=
  let acc := s.nextId
  if a.write then
    (writeLines (a.len / 64 + 2) a.addr a.data).foldl (fun s x =>
      engRequest f a v acc x.1 64 (if x.2.2 = 2 ^ 64 - 1 then .storeLine (slice x.2.1 0 64)
        else .storeMasked (slice x.2.1 0 64) (BitVec.ofNat 64 x.2.2)) 0 s) s
  else engRequest f a v acc a.addr a.len (.loadStream a.len) (ceilDiv a.len 256) s

/-- The flit ends: its status, its detail, and the result words it has reached so far. -/
def endOp (part slot : Nat) (st : Status) (detail : Nat) (s : State) : State :=
  match flitAt s part slot with
  | some f => endFlit part slot { status := st, detail := detail, lo := f.regs.getD 0 0, hi := f.regs.getD 1 0 } s
  | none => s

/-- The completion record (Table 7.6). -/
def recordOf (s : State) (f : Flit) (e : FlitEnd) : Nat :=
  statusCode e.status + loadField s f.part 0 % 16 * 2 ^ 4 + e.detail % 256 * 2 ^ 8 + fCookie f.word * 2 ^ 16
    + (f.rid % 4096 + f.part % 128 * 2 ^ 12 + f.slot % 512 * 2 ^ 19 + fEngine f.word % 16 * 2 ^ 28) * 2 ^ 32
    + e.lo % 2 ^ 32 * 2 ^ 64 + e.hi % 2 ^ 32 * 2 ^ 96

/-- The status line takes the record, as it was written where it was (R227), the slot is DONE, and the flit's contexts, scratch and line locks are released (R221, R227, R229). -/
def finalize (part slot : Nat) (lost : Bool) (s : State) : State :=
  match flitAt s part slot with
  | none => s
  | some f => match f.fin with
    | none => s
    | some e =>
      let s := setLine part slot (fun l => { l with
        state := 2, record := BitVec.ofNat 128 (f.record.getD (recordOf s f e)), result16 := e.r16, cmplLost := lost }) s
      let s := if lost then bumpG .opfCmplLost 1 s else s
      let s := { s with
        mem := { s.mem with locks := s.mem.locks.filter fun l => l.2 ≠ .piece part slot }
        eng := { s.eng with flits := delFirst (fun f => f.part = part ∧ f.slot = slot) s.eng.flits } }
      bumpPart part 3 1 (granFree f.granules s)

/-- An access failed its check: the record's write is lost, or the flit ends (R223, R229, Table 7.8). -/
def accFail (f : Flit) (a : EngAcc) (st : Status) (other : Bool) (s : State) : State :=
  if f.recordOut then finalize f.part f.slot true s
  else endOp f.part f.slot st (if other then 0x06 else if a.write then 0x05 else 0x04) (if st = .badKey then countBadKey f.part s else s)

/-- ENG cells that the fill of a sector takes when an engine's read misses in Firn (R84, R137). -/
def fillCells (s : State) (v : Nat × RangeEntry × Bool) : Nat :=
  if !v.2.1.firn then 0
  else if v.2.1.tier = 1 then 16
  else sumOf ((fillAccs s 0 0 0 true v.2.1 v.2.2 0).map fun a => ceilDiv (accBytes a) 256)

/-- An engine access is charged to its policer (R224): one coloured red is counted and waits; once it has waited it takes its tokens from tp, into debt
if need be (assumption 61). A PROXY flit's source line is not charged again (R232), its record is. -/
def engCharge (f : Flit) (b : Nat) (s : State) : Colour × State :=
  if fEngine f.word = 1 ∧ !f.recordOut then (.green, s)
  else
    let i := polIndex f.part (fClass f.word) (subOf s f.rid)
    let r := charge i b false s
    if f.pol = 2 then
      (.green, if r.1 = .red then { r.2 with tmc := { r.2.tmc with pols := amod r.2.tmc.pols i {} fun p => { p with tp := p.tp - (b * 1000 : Nat) } } } else r.2)
    else (r.1, countColour r.1 f.part b r.2)

/-- The next access of a flit reserves its ENG cells and is issued (R137, R222 to R224). -/
def engIssue (part slot : Nat) (s : State) : State :=
  match flitAt s part slot with
  | none => s
  | some f => match f.todo with
    | [] => s
    | a :: rest =>
      let cells := if a.write then ceilDiv a.len 64 + 1 else ceilDiv a.len 256 + ceilDiv a.len 256 + 1
      if f.pol = 1 ∨ outCount f ≥ outLimit f then s
      else match checkEng s part a.addr a.len a.key (rightsCover a.need) with
        | .error e => accFail f a e.1 e.2 s
        | .ok v =>
          if s.vat.eng + cells + (if a.write then 0 else fillCells s v) > (dev s).engCells then s else
          let (c, s) := engCharge f (max 64 a.len) s
          if c = .red then setFlit part slot (fun f => { f with pol := 1 }) s
          else engSend f a v (setFlit part slot (fun f => { f with todo := rest, pol := 0 }) s)

/-! ## Running an op from yield to yield -/

/-- The flit is between yields: it has begun, waits for nothing and has not ended. -/
def opIdle (f : Flit) : Bool := f.begun && !f.waiting && f.fin.isNone && f.todo.isEmpty && f.out.isEmpty

/-- A flit's failure, found when its accesses have come back, ends it. -/
def opFailed (part slot : Nat) (s : State) : State :=
  match flitAt s part slot with
  | some f => match f.failed with
    | some (st, d) => if f.fin.isNone && f.out.isEmpty then endOp part slot st d s else s
    | none => s
  | none => s

/-- What a transition of an op changes of its flit. -/
def opMark (f : Flit) : List Nat × Bool × Nat × Nat := (f.regs, f.fin.isSome, f.todo.length, f.cache.length)

/-- Up to `n` transitions of an op, while it neither waits for an access nor has ended, and each changes something. -/
def opLoop (step : Flit → State → State) (part slot : Nat) : Nat → State → State
  | 0, s => s
  | n + 1, s =>
    let s := opFailed part slot s
    match flitAt s part slot with
    | some f =>
      if opIdle f then
        let s' := step f s
        match flitAt s' part slot with
        | some g => if opMark f = opMark g then s' else opLoop step part slot n s'
        | none => s'
      else s
    | none => s

/-- Transitions an op may take in one step of the machine: more than any op has between two waits. -/
def opFuel : Nat := 2 ^ 20

/-- An op asks for accesses. -/
def opTodo (f : Flit) (l : List EngAcc) (s : State) : State := setFlit f.part f.slot (fun f => { f with todo := l }) s

/-- An op moves on to new private numbers, forgetting what it has read. -/
def opRegs (f : Flit) (regs : List Nat) (l : List EngAcc) (s : State) : State :=
  setFlit f.part f.slot (fun f => { f with todo := l, regs := regs, cache := [] }) s

/-- An op moves on and keeps what it has read. -/
def opKeep (f : Flit) (regs : List Nat) (l : List EngAcc) (s : State) : State :=
  setFlit f.part f.slot (fun f => { f with todo := l, regs := regs }) s

/-- An op's output is ready to go. -/
def opOut (f : Flit) (regs : List Nat) (l : List EngAcc) (s : State) : State :=
  setFlit f.part f.slot (fun f => { f with todo := l, regs := regs, planned := l.length }) s

/-- An op ends with result words. -/
def opEnd (f : Flit) (st : Status) (detail lo hi : Nat) (s : State) : State :=
  endFlit f.part f.slot { status := st, detail := detail, lo := lo, hi := hi } s

/-- Reads of an op: continue with the bytes, or ask for what is missing. -/
def opRead (f : Flit) (l : List EngAcc) (go : Bytes × Bool → State → State) (s : State) : State :=
  match cacheAll f l with
  | some x => go x s
  | none => opTodo f (cacheMiss f l) s

/-- The command of an op of engine `e` and code `op`: the flit begins, or goes on from its last yield. -/
def runOp (e op : Nat) (step : Flit → State → State) (part slot : Nat) (s : State) : State :=
  match flitAt s part slot with
  | some f =>
    if fEngine f.word = e ∧ fOp f.word = op ∧ !f.waiting ∧ !f.prov ∧ f.fin.isNone ∧ !s.eng.aclkGated then
      opLoop step part slot opFuel (setFlit part slot (fun f => { f with begun := true }) s)
    else s
  | none => s

/-- The OP_FLIT whose answer waited for this op's first effect is answered OK (R258, R333). -/
def releaseAnswer (f : Flit) (s : State) : State :=
  match f.answer with
  | some id => finishRetire id .ok 0 [] (lineTaken f.part f.slot f.word (setFlit f.part f.slot (fun f => { f with answer := none }) s))
  | none => s

end Sys2Proof.Machine
end

