-- ==== Sys2Proof/Machine/Accept.lean ====
section
/-! DEFINITION. Acceptance of memory requests: staging and its spill, limits, the checks of Table 1.6 and what follows them — log taps,
forwarding to the twin, fences, gateway windows, submissions, tags (chapters 1, 2, 4, 5, 7, 12 and 14). -/

namespace Sys2Proof.Machine

/-! ## Staging and Whey (R118 to R120) -/

/-- A unit enters its FIFO, in staging or behind its FIFO's units in Whey. The flag tells whether it was taken: a unit that neither can hold is not, unless
the far end held credits for it, so that it has been accepted and its answer is owed (`due`; R38, R119, R120, R364). -/
def stage (p fifo units : Nat) (due : Bool) (item : StgItem) (s : State) : Bool × State :=
  let q := port s p
  let (n, s) := takeId s
  let u : StgUnit := { uid := n, fifo := fifo, item := item, units := units, since := s.now, ft := ft s }
  if stgUsed q + units ≤ 1024 ∧ !fifoSpilled q fifo then (true, setPort p (fun q => { q with stg := q.stg ++ [u] }) s)
  else if due ∨ wheyOf q + 256 * units ≤ wheyQuota s p ∧ wheyUsed s + 256 * units ≤ wheyCarve s then
    (true, bumpP p .spillCnt 1 (setPort p (fun q => { q with stg := q.stg ++ [{ u with spilled := true }] }) s))
  else (false, s)

/-- Units of Whey come back into staging in their FIFO's order while there is room (R119). -/
def unspillList : Nat → List Nat → List StgUnit → List StgUnit
  | _, _, [] => []
  | used, held, u :: t =>
    if u.spilled then
      if u.fifo ∉ held ∧ used + u.units ≤ 1024 then { u with spilled := false } :: unspillList (used + u.units) held t
      else u :: unspillList used (u.fifo :: held) t
    else u :: unspillList used held t

/-- A port's Whey part moves into staging as room allows. -/
def unspill (p : Nat) (s : State) : State :=
  setPort p (fun q => { q with stg := unspillList (stgUsed q) [] q.stg }) s

/-! ## Log taps (R437, R438) -/

/-- A request without an answer, for the lines a log tap writes. -/
def tapLine (part : Nat) (v : Nat × RangeEntry × Bool) (key : Word32) (s : State) (x : Nat × Bytes) : State :=
  let (id, s) := takeId s
  let h : ReqHdr := {
    port := 0, rid := 4096 + part, part := part, cls := 0, cmark := false, poison := false, tag := 0, reissue := false, addr := x.1, key := key }
  goLock id { s with mem := { s.mem with reqs := s.mem.reqs ++
    [{ id := id, hdr := h, kind := .storeLine x.2, src := .tap, accAt := s.now, phase := .lock, view := some v, fgen := firnGen s v.1 }] } }

/-- A 64-byte multiple written into a ring. -/
def tapWrite (part addr : Nat) (key : Word32) (data : Bytes) (s : State) : State :=
  match findRange s addr 64 with
  | none => s
  | some (i, e) =>
    ((List.range (data.length / 64)).map fun j => (addr + 64 * j, slice data (64 * j) 64)).foldl
      (tapLine part (i, e, servingPlane s e addr % 2 == 1) key) s

/-- A record header (R438). -/
def tapHdr (seq ftAcc rid part kind len : Nat) : Bytes :=
  natLe 8 seq ++ natLe 8 ftAcc ++ natLe 4 (rid % 4096 + part % 128 * 2 ^ 12 + kind * 2 ^ 19) ++ natLe 4 len ++ zeros 8

/-- `s` with a tap changed. -/
def setTap (part : Nat) (f : Tap → Tap) (s : State) : State := { s with taps := amod s.taps part {} f }

/-- One record of a unit accepted at FT `at_` enters a ring: a record that would cross the end is replaced by a PAD record, and writing goes on at 4 KiB (R438). -/
def tapRecord (part rid kind len at_ : Nat) (data : Bytes) (s : State) : State :=
  let t := agetD s.taps part {}
  let size := 2 ^ t.sizeLog2
  let n := ceilDiv (32 + data.length) 64 * 64
  let body (seq : Nat) := slice (tapHdr seq at_ rid part kind len ++ data) 0 n
  if t.off + n > size then
    let s := if t.off < size then
        tapWrite part (t.ring + t.off) t.key (slice (tapHdr t.nextSeq at_ rid part 4 (size - t.off - 32)) 0 64) s else s
    let seq := if t.off < size then t.nextSeq + 1 else t.nextSeq
    let s := setTap part (fun t => { t with nextSeq := seq + 1, off := 4096 + n, wraps := t.wraps + 1, since := t.since + 1 }) s
    tapWrite part (t.ring + 4096) t.key (body seq) s
  else
    let s := setTap part (fun t => { t with nextSeq := t.nextSeq + 1, off := t.off + n, since := t.since + 1 }) s
    tapWrite part (t.ring + t.off) t.key (body t.nextSeq) s

/-- The control page is written (R438). -/
def tapPage (part : Nat) (s : State) : State :=
  let t := agetD s.taps part {}
  let s := setTap part (fun t => { t with since := 0, pageAt := s.now }) s
  tapWrite part t.ring t.key (slice (natLe 8 t.nextSeq ++ natLe 8 t.off ++ natLe 8 t.wraps ++ natLe 8 t.dropped) 0 64) s

/-- A unit that passed step 8 is copied into its partition's ring, or its record is dropped (R437). `kind`: 0 REQ, 1 STREAM, 2 MSG; `acc` tells when the unit
was accepted, by the counter and in FT, where that was not now. The copy has its bytes in ENG cells of its own at once, so the one that it adds to the unit's
count (R141) is given back in the same step (assumption 63). -/
def tapCopy (part cls kind rid : Nat) (data : Bytes) (s : State) (acc : Option (Nat × Nat) := none) : State :=
  let t := agetD s.taps part {}
  if !(t.en && t.cls == cls && (if kind = 0 then t.req else if kind = 1 then t.stream else t.msg)) then s
  else
    let r := charge (polIndex part 0 0) (max 64 data.length) false s
    let s := r.2
    if r.1 = .red ∨ s.vat.eng + ceilDiv (32 + data.length) 64 > (dev s).engCells ∨ (acc.any fun a => decide (a.1 + 1000000 < s.now)) then
      setTap part (fun t => { t with nextSeq := t.nextSeq + 1, dropped := t.dropped + 1, gap := t.gap + 1, gaps := t.gaps + 1 }) s
    else
      let at_ := (acc.map (·.2)).getD (ft s)
      let s := if t.gap > 0 then setTap part (fun t => { t with gap := 0 }) (tapRecord part rid 3 t.gap at_ [] s) else s
      let s := tapRecord part rid kind data.length at_ data s
      if (agetD s.taps part {}).since ≥ 64 then tapPage part s else s

/-! ## Fences (R66 to R69) -/

/-- A FENCE is answered FENCE_INCOMPLETE and its partition is calved, cause 2 (R68). -/
def fenceFail (id : Nat) (s : State) : State :=
  match findReq s id with
  | none => s
  | some r =>
    let s := finishRetire id .fenceIncomplete 0 [] (bumpP r.hdr.port .fenceInc 1 s)
    { s with mem := { s.mem with calveDue := s.mem.calveDue ++ [(2, r.hdr.part)] } }

/-- A FENCE whose covered requests and markers are all accounted for is answered (R66, R68). -/
def fenceTry (id : Nat) (s : State) : State :=
  match findReq s id with
  | none => s
  | some r =>
    if r.phase ≠ .fence then s
    else if r.finalSt = .fenceIncomplete then fenceFail id s
    else if r.waits = [] ∧ r.markers = [] then finishRetire id .ok 0 [] s
    else s

/-- A FENCE begins: it covers the write-class requests of its requester accepted before it, or before its PROXY flit started, that passed the checks
(R66, R538). -/
def fenceStart (id : Nat) (s : State) : State :=
  match findReq s id with
  | none => s
  | some r =>
    let ws := (s.mem.reqs.filter fun q => q.covered && !q.released && q.hdr.rid == r.hdr.rid && decide (q.id < r.limit.getD id)).map (·.id)
    let ms := (s.mem.markers.filter fun m => m.why = 0 ∧ r.hdr.rid ∈ m.rids).map (·.mid)
    let bad := decide (r.hdr.rid ∈ s.mem.lost)
    let s := if holdsStaging r then freeStaging r.hdr.port id s else s
    fenceTry id (setReq id (fun r => { r with
      phase := .fence, waits := ws, markers := ms, finalSt := if bad then .fenceIncomplete else .ok }) s)

/-! ## Gateway windows (R383, R384) -/

/-- The gateway window whose local range has this index. -/
def gwWindowOf (s : State) (range : Nat) : Option (Nat × GwWindowRec) := s.img.gwWins.find? fun w => w.2.localRange = range

/-- A pull starts: the block is FETCHING and its 16 pieces are asked for. -/
def gwPull (w b : Nat) (s : State) : State :=
  let s := setGwBlock w b (fun _ => { state := .fetching }) s
  (List.range 16).foldl (fun s p => gwSend w b p 0 [] s) s

/-- A local access for a piece of a block. -/
def gwAccess (w b p : Nat) (k : ReqKind) (addr : Nat) (v : Nat × RangeEntry × Bool) (s : State) : State :=
  let (id, s) := takeId s
  let h : ReqHdr := {
    port := 0, rid := 4224 + w, part := v.2.1.owner, cls := 0, cmark := false, poison := false, tag := 0, reissue := false, addr := addr,
    key := v.2.1.key }
  goLock id { s with mem := { s.mem with reqs := s.mem.reqs ++
    [{ id := id, hdr := h, kind := k, src := .gwLoc w b p, accAt := s.now, phase := .lock, view := some v, fgen := firnGen s v.1 }] } }

/-- A push starts: the block is PUSHING and its pieces are read (R384, R385). -/
def gwPush (w b : Nat) (v : Nat × RangeEntry × Bool) (s : State) : State :=
  let s := setGwBlock w b (fun _ => { state := .pushing }) s
  (List.range 16).foldl (fun s p => gwAccess w b p (.loadStream 4096) (v.2.1.base * mib2 + b * 65536 + p * 4096) v s) s

/-- A request to a window range acts on its block; `none` when it is served from the local copy (R383, R384). -/
def gwAct (r : Req) (w : Nat) (v : Nat × RangeEntry × Bool) (s : State) : Option Status × State :=
  let base := v.2.1.base * mib2
  match r.kind with
  | .flushRange n =>
    let b0 := (r.hdr.addr - base) / 65536
    let bs := (List.range ((r.hdr.addr + n - 1 - base) / 65536 - b0 + 1)).map (b0 + ·)
    let s := bs.foldl (fun s b => match (gwBlockAt s w b).state with
      | .dirty => gwPush w b v s
      | .clean | .failed => setGwBlock w b (fun _ => {}) s
      | _ => s) s
    let busy := bs.any fun b => decide ((gwBlockAt s w b).state ≠ .absent)
    (some (if busy then .retryLater else .ok), s)
  | k =>
    let b := (r.hdr.addr - base) / 65536
    match (gwBlockAt s w b).state with
    | .absent => (some .retryLater, gwPull w b s)
    | .fetching | .pushing => (some .retryLater, s)
    | .failed => (some .targetLost, s)
    | .clean => (none, if kindWrite k then setGwBlock w b (fun x => { x with state := .dirty }) s else s)
    | .dirty => (none, s)

/-! ## After the checks -/

/-- A submission reserves its answer, then is accepted or refused (R217); a GROUP_ARM's or SEQ_OPEN's answer waits for the op (R258, R333). -/
def goSubmit (id : Nat) (s : State) : State :=
  match findReq s id with
  | none => s
  | some r => match r.kind with
    | .opFlit w =>
      let p := r.hdr.port
      if rspFits s p id 1 then
        let s := poolTake .rsp 1 (setPort p (fun q => { q with rspUsed := q.rspUsed + 1 }) s)
        let s := setReq id (fun r => { r with quanta := 1, phase := .auDone }) s
        let slot := apOff r.hdr.addr / 64
        let a := acceptFlit id r.hdr.rid p r.hdr.part slot w s
        if a.1 = .ok ∧ (flitAt a.2 r.hdr.part slot).any (fun f => f.answer.isSome) then freeStaging p id a.2
        else finishRetire id a.1 0 [] (if a.1 = .badKey then countBadKey r.hdr.part a.2 else a.2)
      else if r.phase = .rsp then s
      else
        let s := dropReq id s
        { s with mem := { s.mem with reqs := s.mem.reqs ++ [{ r with phase := .rsp }] } }
    | _ => s

/-- A request that passed every check of Table 1.6 goes its way; with no atomic-unit lane left a tagged one is answered TARGET_LOST (R416). -/
def dispatch (id : Nat) (fwd : Bool) (s : State) : State :=
  match findReq s id with
  | none => s
  | some r =>
    if kindTagged r.kind ∧ s.flt.lanesOut.length ≥ 4 then finishRetire id .targetLost 0 [] s
    else if fwd then goForward id s
    else match r.kind with
      | .opFlit _ => goSubmit id s
      | .fence => fenceStart id s
      | k => match r.view with
        | none => goLock id s
        | some v => match gwWindowOf s v.1 with
          | some (w, _) =>
            let g := gwAct r w v s
            (match g.1 with
             | some st => finishRetire id st 0 [] g.2
             | none => goLock id g.2)
          | none => if kindTagged k then goTagged id s else goLock id s

/-- The request came over CXL.mem. -/
def isCxl (r : Req) : Bool := match r.src with
  | .cxl _ => true
  | _ => false

/-- Steps 1 to 8 of Table 1.6, the log tap, and dispatch (R27, R437). -/
def runChecks (id : Nat) (s : State) : State :=
  match findReq s id with
  | none => s
  | some r =>
    match check17 s r.hdr r.kind with
    | .fail st n => finishRetire id st 0 [] (chkFail r.hdr r.kind st n s)
    | .pass view fwd =>
      let c := step8 (isCxl r) r.hdr r.kind s
      if c.1 = Colour.red then finishRetire id .retryLater 0 [] (chkFail r.hdr r.kind .retryLater 8 c.2)
      else
        let s := setReq id (fun q => { q with
          view := view, fgen := viewGen s view, region := regionCheck s r.hdr.part r.kind, covered := kindWrite r.kind, yellow := decide (c.1 = Colour.yellow) }) c.2
        dispatch id fwd (tapCopy r.hdr.part r.hdr.cls 0 r.hdr.rid (packReq r.hdr r.kind) s (some (r.accAt, r.accFt)))

/-- The window of a port that a DPA falls in (R29). A CXL 1.1 host port has its window 0 alone (Table 12.10). -/
def windowAt (s : State) (p dpa : Nat) : Option WindowRec :=
  (s.img.windows.find? fun w => w.2.valid && w.2.port == p && (decide ((portRec s p).cxlVer ≠ 1) || w.2.index == 0) &&
    decide (w.2.dpaBase * mib2 ≤ dpa) && decide (dpa < (w.2.dpaBase + w.2.size) * mib2)).map (·.2)

/-- The header of a request made through a window: its requester ID and key; when the window gives none, the key of the range (R29, R31), or the aperture
key of its requester's partition when it maps aperture space (R214). -/
def windowHdr (s : State) (w : WindowRec) (p dpa : Nat) (poison : Bool) : ReqHdr :=
  let base := w.fabricBase * mib2
  let part := (reqRec s w.rid).part
  let key : Word32 :=
    if w.key ≠ 0 then w.key
    else if inAperture base then (aget s.eng.apKeys part).getD 0
    else ((findRange s base 1).map fun x => x.2.key).getD 0
  { port := p, rid := w.rid, part := part, cls := (portRec s p).cxlClass, cmark := false, poison := poison, tag := 0,
    reissue := false, addr := base + (dpa - w.dpaBase * mib2), key := key }

/-- A DPA in no window: NO_ACCESS at step 1, counted and captured with the DPA (R29, R36); a write ends normally and is reported (R75). -/
def noWindow (p dpa : Nat) (k : ReqKind) (s : State) : State :=
  let wr := !kindLoad k
  let s := bumpP p .chkNoacc 1 s
  let s := chkCapture p { valid := true, status := .noAccess, step := 1, dpa := true, opcode := kindCode k, addr := dpa } s
  let s := if wr then emit (.noWindow p dpa) (bumpP p .cxlWerr 1 s) else s
  let (id, s) := takeId s
  queueRsp p id 0 false
    { opcode := kindCode k, status := .noAccess, load := 0, tag := 0, rid := 0, part := 0, result := 0, data := [], streamed := false } s

/-- A full-line write: a STORE_LINE, or an OP_FLIT when it goes to a submission slot (R233). -/
def fullLine (data : Bytes) (h : ReqHdr) : ReqKind :=
  if inAperture h.addr then .opFlit (BitVec.ofNat 512 (leNat (slice data 0 64))) else .storeLine (slice data 0 64)

/-- Header and kind of a request as its step 1 finds them: a CXL.mem transaction looks its window up then (R29, R31, R32); `none` when it is in none. -/
def stepOne (s : State) (r : Req) : Option (ReqHdr × ReqKind) :=
  if !isCxl r then some (r.hdr, r.kind)
  else (windowAt s r.hdr.port r.dpa).map fun w =>
    let h := windowHdr s w r.hdr.port r.dpa r.hdr.poison
    (h, match r.kind with
      | .storeLine d => fullLine d h
      | .opFlit w => fullLine (natLe 64 w.toNat) h
      | k => k)

/-- The request would raise a count above its limit (R154); a disabled requester is not held. Its partition is the one its header names (assumption
55). -/
def limitHeld (s : State) (h : ReqHdr) : Bool :=
  let r := reqRec s h.rid
  r.enabled && (decide (agetD s.mem.outReq h.rid 0 + 1 > reqLimitOf s h.rid) ||
    decide (agetD s.mem.outPart h.part 0 + 1 > partLimitOf s h.part))

/-- The request leaves the head of its command FIFO: it is outstanding from now on (R153), and its checks run. -/
def leaveFifo (id : Nat) (h : ReqHdr) (s : State) : State :=
  runChecks id (setReq id (fun r => { r with counted := true, phase := .lock }) (outInc h.rid h.part s))

/-- The request is still in its command FIFO: it has not been dispatched, or something of it waits for admission (R118, R135). -/
def inHead (s : State) (r : Req) : Bool := decide (r.phase = .fifo) || decide (r.phase = .admitting) || (issued r && heldBack s r.id)

/-- The request at the head of a port's command FIFO, when it has not left it. -/
def fifoHead (s : State) (p : Nat) : Option Req :=
  ((port s p).stg.filterMap fun u => match u.item with
    | .req id => if u.fifo = 0 then (findReq s id).bind fun r => if inHead s r then some r else none else none
    | _ => none).head?

/-- A request that a limit holds at the head of its FIFO is counted once (Table 5.5). -/
def noteHold (r : Req) (s : State) : State :=
  if r.held then s else bumpG .limitHold 1 (setReq r.id (fun q => { q with held := true }) s)

/-- The unit waits in its command FIFO. -/
def inFifo (s : State) (u : StgUnit) : Bool :=
  match u.item with
  | .req id => u.fifo = 0 && (findReq s id).any (inHead s)
  | _ => false

/-- Payloads of answered requests that have come to the head of the command FIFO are discarded unread (R122). -/
def dropDead (p : Nat) (s : State) : State :=
  let gone := ((port s p).stg.takeWhile fun u => !inFifo s u).filter fun u => decide (u.item = .dead)
  if gone = [] then s
  else cxlReturn p (returnCredits p (sumOf (gone.map (·.units))) 0
    (setPort p (fun q => { q with stg := q.stg.filter fun u => !gone.any fun g => g.uid == u.uid }) s))

/-- Requests leave a port's command FIFO in order, until one is held by a limit or waits for admission (R118, R135, R154). A CXL.mem transaction that no
window takes any more ends as one that arrives in none (R32). -/
def pump (p : Nat) : Nat → State → State
  | 0, s => s
  | n + 1, s =>
    let s := unspill p (dropDead p s)
    match fifoHead s p with
    | none => s
    | some r =>
      if r.phase ≠ .fifo then s
      else match stepOne s r with
        | none => pump p n (noWindow p r.dpa r.kind (dropReq r.id (freeStaging p r.id s)))
        | some (h, k) =>
          let s := if isCxl r then setReq r.id (fun q => { q with hdr := h, kind := k }) s else s
          if limitHeld s h then noteHold r s else pump p n (leaveFifo r.id h s)

/-- A request whose unit has passed the link checks is accepted at `s.now` (R38, R357): it is staged, and leaves its FIFO when it may. -/
def arrive (h : ReqHdr) (k : ReqKind) (src : ReqSrc) (dpa : Nat) (s : State) : State :=
  let (id, s) := takeId s
  let units := ceilDiv (32 + kindPayload k) 256
  let t := stage h.port 0 units (decide (units ≤ (port s h.port).farReq) || decide ((portRec s h.port).protocol = 2)) (.req id) s
  if !t.1 then s
  else
    let s := setPort h.port (fun q => { q with farReq := q.farReq - units, reissued := q.reissued + b2n h.reissue }) t.2
    let s := { s with mem := { s.mem with reqs := s.mem.reqs ++
      [{ id := id, hdr := h, kind := k, src := src, accAt := s.now, accFt := ft s, phase := .fifo, dpa := dpa }] } }
    pump h.port (s.mem.reqs.length + 1) s

/-- A request unit of a Bamom requester port (R359). -/
def arriveBamom (h : ReqHdr) (k : ReqKind) (s : State) : State :=
  if portIs s h.port 1 0 && portUp s h.port then arrive h k .bamom 0 s else s

end Sys2Proof.Machine
end

