-- ==== Sys2Proof/Machine/Calve.lean ====
section
/-! DEFINITION. Calving (R418 to R425): the phases of Table 14.5, and what other steps leave to be settled at their end. -/

namespace Sys2Proof.Machine

/-! ## Units taken out of queues -/

/-- One reference of a stored multicast unit goes; its cells are freed with the last (R141). -/
def mcDec (mc : Nat) (s : State) : State :=
  match s.vat.mcs.find? fun m => m.mc = mc with
  | none => s
  | some m =>
    if m.refs ≤ 1 then poolGive m.pool m.cells { s with vat := { s.vat with mcs := s.vat.mcs.filter fun m => m.mc ≠ mc } }
    else { s with vat := { s.vat with mcs := modFirst (fun m => m.mc = mc) (fun m => { m with refs := m.refs - 1 }) s.vat.mcs } }

/-- A unit that has left its queue gives back its descriptor and its cells. -/
def descGone (d : Desc) (s : State) : State :=
  match d.item with
  | .copy mc => mcDec mc (descGive 1 s)
  | _ => poolGive d.pool d.cells (descGive 1 s)

/-- The units of port `p`'s class queues that satisfy `f` are discarded. -/
def purgePort (p : Nat) (f : Desc → Bool) (s : State) : State :=
  let gone := ((port s p).q.flatten).filter f
  if gone = [] then s
  else gone.foldl (fun s d => descGone d s) (setPort p (fun q => { q with q := q.q.map fun l => l.filter fun d => !f d }) s)

/-- The same on every port. -/
def purgeAll (f : Desc → Bool) (s : State) : State := (s.ports.map (·.1)).foldl (fun s p => purgePort p f s) s

/-- Queued and held accesses that satisfy `f` leave their queues and are forgotten. -/
def dropQueued (f : Acc → Bool) (s : State) : State :=
  let ids := (s.mem.accs.filter fun a => decide (a.state = .queued) && f a).map (·.aid)
  let s := { s with mem := { s.mem with accs := s.mem.accs.filter fun a => a.aid ∉ ids && !(decide (a.state = .held) && f a) } }
  purgeAll (fun d => match d.item with
    | .acc n => decide (n ∈ ids)
    | _ => false) s

/-- Accesses of a request that were sent stay as late ones; the request leaves. -/
def forget (id : Nat) (s : State) : State :=
  let s := dropQueued (accOf id) s
  dropReq id (unlock id { s with mem := { s.mem with accs := modAll (accOf id) (fun a => { a with state := .late }) s.mem.accs } })

/-! ## K2 and K3 -/

/-- A tagged request past step 4 of Table 2.4 finishes its write and is then given POISON. -/
def pastStep4 (r : Req) : Bool := kindTagged r.kind && (decide (r.phase = .auMirror) || decide (r.phase = .auWrite) || decide (r.phase = .auDone))

/-- The request has been dispatched to a tray: an access of it, or of the fill it waits for, has been sent (R39). A flush and a read under a lock are in
execution before that. -/
def toTray (s : State) (r : Req) : Bool :=
  match r.phase with
  | .queued | .exec | .auRead | .auWrite =>
    s.mem.accs.any (fun a => decide (a.state = .sent) && decide (r.id ∈ servedBy s a)) || r.pieces.any (·.done) || decide (r.stage = 1 ∧ r.phase = .auWrite)
      || (r.dispAt.isSome && kindLoad r.kind)
  | .fill => r.dispAt.isSome
  | _ => false

/-- The status calving gives a request (K2, K3): POISON when it has been dispatched to a tray, else PARTITION_DOWN. -/
def calveStatus (s : State) (r : Req) : Status := if !kindTagged r.kind && toTray s r then .poison else .partitionDown

/-- One request of a calved partition is given its status. -/
def calveReq (s : State) (id : Nat) : State :=
  match findReq s id with
  | none => s
  | some r =>
    if r.released ∨ r.phase = .werr ∨ r.phase = .fwd then s
    else match r.src with
      | .eng _ | .tap | .strm .. | .gwLoc .. => forget id s
      | _ =>
        if r.phase = .joined then finishRetire id .partitionDown 0 [] s
        else if pastStep4 r then setReq id (fun r => { r with finalSt := .poison, result := 0 }) s
        else finishRetire id (calveStatus s r) 0 [] (dropQueued (accOf id) s)

/-- Message, stream and class 7 units of the partition are discarded (K2, R203). -/
def calveUnits (part : Nat) (s : State) : State :=
  let s := purgeAll (fun d => d.part == part && match d.item with
    | .stream _ | .frame _ | .copy _ => true
    | _ => false) s
  let s := poolGive .sch (sumOf ((s.ftm.units.filter fun u => u.part = part).map (·.cells))) s
  let held := sumOf (s.ports.flatMap fun e => e.2.stg.map fun u => match u.item with
    | .stream x _ true => if x.hdr.part = part then ceilDiv (16 + x.hdr.payload.length) 256 else 0
    | _ => 0)
  let s := poolGive .shr held s
  { s with
    ports := s.ports.map fun e => (e.1, { e.2 with stg := e.2.stg.filter fun u => match u.item with
      | .stream x _ _ => !(x.hdr.part == part)
      | .frame eth _ q _ _ => eth || q != part
      | .req _ | .dead => true })
    ftm := { s.ftm with
      streams := s.ftm.streams.filter fun x => x.flow.part ≠ part
      units := s.ftm.units.filter fun u => u.part ≠ part } }

/-! ## K4 -/

/-- Engine work of the partition stops without records; contexts, scratch, groups, sequences and collections are freed; the log tap is disabled
(K4, Table 7.11). -/
def calveEngines (part : Nat) (s : State) : State :=
  let mine := s.eng.flits.filter fun f => f.part = part
  let gran := sumOf (mine.map (·.granules)) + sumOf ((s.eng.handles.filter fun h => h.1.1 = part).map fun h => h.2.granules)
  let cells := sumOf (mine.map fun f => sumOf (f.out.map (·.cells)))
  let s := poolGive .eng cells (granFree gran s)
  { s with
    mem := { s.mem with locks := s.mem.locks.filter fun l => match l.2 with
      | .piece p _ => p ≠ part
      | .req _ => true }
    eng := { s.eng with
      flits := s.eng.flits.filter fun f => f.part ≠ part
      handles := s.eng.handles.filter fun h => h.1.1 ≠ part
      lines := s.eng.lines.map fun l => if l.1.1 = part then (l.1, { l.2 with state := 3 }) else l
      groups := s.eng.groups.filter fun g => g.2.part ≠ part
      seqs := s.eng.seqs.filter fun q => q.2.part ≠ part
      colls := s.eng.colls.filter fun c => c.2.part ≠ part }
    taps := amod s.taps part {} fun t => { t with en := false } }

/-- The status lines of a calved partition read DOWN, those never written too (Table 7.7). -/
def calveLines (part : Nat) (s : State) : State :=
  { s with eng := { s.eng with lines := (List.range 512).foldl (fun l i => amod l (part, i) {} fun x => { x with state := 3 }) s.eng.lines } }

/-! ## K5 and K6 -/

/-- The region keys of the PRIVATE ranges the partition owns and its aperture key are revoked; its idempotency and shadow entries go (K5). The tables have changed
(GLB_TABLE_EPOCH), an alert of it is over (R455), and a segment that names it is abandoned (R408). -/
def calveKeys (part : Nat) (s : State) : State :=
  let mine := (s.img.ranges.filter fun e => e.2.valid && e.2.owner == part && !e.2.shared).map (·.1)
  { s with
    img := { s.img with ranges := s.img.ranges.map fun e => if e.1 ∈ mine then (e.1, { e.2 with key := 0 }) else e }
    sec := { s.sec with
      revoked := mine.foldl addOnce s.sec.revoked
      badkey := s.sec.badkey.filter (· ≠ part)
      epoch := s.sec.epoch + 1
      tblPending := true
      segs := s.sec.segs.map fun g => if g.phase < 3 ∧ part ∈ g.img.scope then { g with calved := true } else g }
    eng := { s.eng with apKeys := adel s.eng.apKeys part }
    mem := { s.mem with
      badKeyWin := adel s.mem.badKeyWin part
      idem := s.mem.idem.filter fun e => e.part ≠ part
      shadow := s.mem.shadow.filter fun e => e.ent.part ≠ part } }

/-- K6: the log, the event queue and the reports. -/
def calveReport (cause part : Nat) (s : State) : State :=
  bumpPart part 4 1 (emit (.calved cause [part]) (faultEvent 6 0 0 cause part
    { s with flt := { s.flt with calveLog := s.flt.calveLog.orElse fun _ => some (cause, part, ft s) } }))

/-- One partition is calved; a partition that is not ACTIVE is left (R425). K1 to K6 in order (Table 14.5). -/
def calveOne (cause : Nat) (s : State) (part : Nat) : State :=
  if !partActive s part then s
  else
    let s := { s with pstate := aset s.pstate part 2 }
    let s := if cause = 3 then s else sendTwin (.calve part) s
    let s := calveUnits part (calveLines part (calveEngines part s))
    let s := ((s.mem.reqs.filter fun r => r.hdr.part = part).map (·.id)).foldl calveReq s
    calveReport cause part (calveKeys part s)

/-- A calving trigger is counted once, however many partitions it names (R425). -/
def calve (cause : Nat) (parts : List Nat) (s : State) : State := parts.foldl (calveOne cause) (bumpG .calveCnt 1 s)

/-- Every partition. -/
def allParts : List Nat := List.range 128

/-! ## What a step leaves to be settled -/

/-- Calvings that answers of this step have triggered (R68, R75). -/
def settleCalves : Nat → State → State
  | 0, s => s
  | n + 1, s => match s.mem.calveDue with
    | [] => s
    | (c, p) :: t => settleCalves n (calve c [p] { s with mem := { s.mem with calveDue := t } })

/-- Held accesses try again, and a request of which none is held any more leaves its staging; so do requests that hold no staging and wait for admission. -/
def wakeAdmit (s : State) : State :=
  let s := wakeHeld s
  let s := (s.mem.reqs.filter fun r => holdsStaging r && issued r).foldl (fun s r => leaveStaging r.id s) s
  (s.mem.reqs.filter fun r => decide (r.phase = .admitting) && !holdsStaging r).foldl (fun s r => goAdmit r.id s) s

/-- FENCEs of which a covered request has failed are answered FENCE_INCOMPLETE at once (R68), before the calvings that answers have triggered. -/
def failFences (s : State) : State :=
  (s.mem.reqs.filter fun r => r.phase = .fence ∧ r.finalSt = .fenceIncomplete).foldl (fun s r => fenceFail r.id s) s

/-- What follows from the answers of a step: flushes whose earlier writes are done go on, FENCEs that cannot complete are answered, and calvings take
place. -/
def settle (s : State) : State :=
  let s := failFences (wakeFlushes s)
  settleCalves (s.mem.calveDue.length + 4) s

/-- A command that may finish requests. -/
def runS (f : State → State) (s : State) : Outcome := run (fun s => settle (f s)) s

end Sys2Proof.Machine
end

