-- ==== Sys2Proof/Machine/Deliver.lean ====
section
/-! DEFINITION. How units enter the queues of an egress port: stream units and their copies, message frames and layer-2 bridging
(chapters 4, 5, 6 and 12). -/

namespace Sys2Proof.Machine

/-! ## Stream units -/

/-- Bytes of a stream unit (Table 12.5). -/
def streamBytes (u : StreamOut) : Nat := 16 + u.hdr.payload.length

/-- Cells of a stream unit (R125). -/
def streamCells (u : StreamOut) : Nat := ceilDiv (streamBytes u) 256

/-- A stream unit as bytes (Table 12.5). -/
def packStream (u : StreamOut) : Bytes :=
  let h := u.hdr
  natLe 4 (u.utype % 256 + h.rid % 4096 * 2 ^ 8 + h.part % 128 * 2 ^ 20 + h.cls % 8 * 2 ^ 27 + b2n h.cmark * 2 ^ 30 + b2n h.poison * 2 ^ 31)
    ++ natLe 4 (h.schedId % 4096 + h.payload.length % 32768 * 2 ^ 16)
    ++ natLe 4 (h.dest % 4096 + h.dkind % 4 * 2 ^ 12 + u.detail % 256 * 2 ^ 16)
    ++ natLe 4 (h.seq % 2 ^ 24 + statusCode u.status * 2 ^ 24) ++ h.payload

/-- A unit of which every copy reads the same storage is queued for each member port that is UP; its `cells` are already taken from `pool`
(R141). -/
def multicast (it : QItem) (pool : Pool) (cells bytes part cls : Nat) (poison yellow : Bool) (slot : Option Nat) (members : List Nat)
    (s : State) : State :=
  let ups := members.filter (portUp s)
  if ups = [] then poolGive pool cells s
  else
    let (mc, s) := takeId s
    let s := { s with vat := { s.vat with mcs := s.vat.mcs ++ [{ mc := mc, item := it, pool := pool, cells := cells, refs := ups.length }] } }
    ups.foldl (fun s p =>
      let (n, s) := takeId s
      enqueue p cls { uid := n, item := .copy mc, pool := pool, cells := cells, bytes := bytes, part := part, cls := cls,
                      poison := poison, yellow := yellow, slot := slot } s) s

/-- A stream unit whose cells are held goes to its port or to the members of its group (R361, R141). -/
def deliverStream (u : StreamOut) (pool : Pool) (cls : Nat) (yellow : Bool) (slot : Option Nat) (s : State) : State :=
  let h := u.hdr
  if h.dkind = 1 then
    let g := agetD s.img.mcasts h.dest {}
    let ms := g.members.filter fun p => g.loopback || p ≠ h.port
    multicast (.stream u) pool (streamCells u) (streamBytes u) h.part cls h.poison yellow slot ms s
  else if portUp s h.dest then
    let (n, s) := takeId s
    enqueue h.dest cls { uid := n, item := .stream u, pool := pool, cells := streamCells u, bytes := streamBytes u, part := h.part,
                         cls := cls, poison := h.poison, yellow := yellow, slot := slot } s
  else poolGive pool (streamCells u) s

/-- A port wholly in a partition: every requester bound to it is of the partition, and one is (R361). -/
def portWholly (s : State) (p part : Nat) : Bool :=
  let rs := s.img.reqs.filter fun r => r.2.port = p
  rs ≠ [] && rs.all fun r => r.2.part == part

/-- R361: the destination belongs to the sender's partition. -/
def destOk (s : State) (h : StreamHdr) : Bool :=
  if h.dkind = 0 then portWholly s h.dest h.part
  else if h.dkind = 1 then match aget s.img.mcasts h.dest with
    | some g => g.shared || g.part == h.part
    | none => false
  else decide (h.dkind = 2)

/-- The unit is discarded at its port; 256 stands for the plane itself. -/
def dropAdmit (p : Nat) (s : State) : State := if p < 256 then bumpP p .dropAdmit 1 s else s

/-- A demotion is counted and the first captured (R201); reasons of Table 6.11: 0 NO_WINDOW, 1 BYTES, 2 NO_FLOW, 3 MISMATCH, 4 SUSPENDED,
5 SWAP, 6 POOL. -/
def demoteCount (reason p schedId rid slot : Nat) (s : State) : State :=
  let c : GCtr := if reason = 4 then .demoteSusp else if reason = 5 then .demoteSwap else if reason = 6 then .vatDemoteSch else .demoteWin
  let s := bumpG c 1 s
  let s := if p < 256 then bumpP p .schDemote 1 s else s
  if s.ftm.demote.valid then s
  else { s with ftm := { s.ftm with demote := {
    valid := true, reason := reason, port := p, schedId := schedId, slot := slot % 65536, rid := rid } } }

/-! ## Frames (R378 to R381) -/

/-- A big-endian field of a frame. -/
def beField (b : Bytes) (off w : Nat) : Nat := leNat (slice b off w).reverse

/-- The frame carries an IEEE 802.1Q tag. -/
def frTagged (f : Bytes) : Bool := beField f 12 2 == 0x8100

/-- VID, PCP and DEI of a tagged frame. -/
def frVid (f : Bytes) : Nat := beField f 14 2 % 4096
def frPcp (f : Bytes) : Nat := beField f 14 2 / 8192
def frDei (f : Bytes) : Bool := beField f 14 2 / 4096 % 2 == 1

/-- EtherType behind the tag, if any. -/
def frType (f : Bytes) : Nat := if frTagged f then beField f 16 2 else beField f 12 2

/-- Destination and source addresses. -/
def frDst (f : Bytes) : Nat := beField f 0 6
def frSrc (f : Bytes) : Nat := beField f 6 6

/-- A frame with its tag put in, removed or left, and its check sequence made anew. -/
def retag (tagged : Bool) (vid pcp : Nat) (f : Bytes) : Bytes :=
  let body := f.take (f.length - 4)
  let rest := if frTagged f then body.drop 16 else body.drop 12
  let tag := if tagged then (natLe 4 (0x8100 * 65536 + pcp % 8 * 8192 + (if frDei f && frTagged f then 4096 else 0) + vid % 4096)).reverse else []
  let g := body.take 12 ++ tag ++ rest
  g ++ fcs g

/-- The partition of a requester port: that of the lowest requester bound to it. -/
def portPart (s : State) (p : Nat) : Option Nat := ((sortBy (·.1) s.img.reqs).find? fun r => r.2.port = p).map fun r => r.2.part

/-- The partition has the VID in its set, of which its default VID need be no member (R379). -/
def vidOf (s : State) (part vid : Nat) : Bool := decide (vid ∈ (partRec s part).vids)

/-- Uplinks that are UP. -/
def uplinks (s : State) : List Nat := (s.img.ports.map (·.1)).filter fun p => portIs s p 3 3 && portUp s p

/-- What follows the EtherType of a frame. -/
def frBody (f : Bytes) : Bytes := f.drop (if frTagged f then 18 else 14)

/-- The fields the choice of an uplink rests on (R381): the addresses, the VID, and of an IP frame its addresses, protocol and ports. The ports are those
of TCP, UDP, SCTP and DCCP right behind the header; a later fragment has none. -/
def lagFields (vid : Nat) (f : Bytes) : Bytes :=
  let b := frBody f
  let ported (n : Nat) : Bool := n == 6 || n == 17 || n == 132 || n == 33
  slice f 0 12 ++ natLe 2 vid ++
    (if frType f = 0x0800 then
      let proto := fieldAt b 9 1
      slice b 12 8 ++ slice b 9 1 ++ (if ported proto ∧ beField b 6 2 % 8192 = 0 then slice b (4 * (fieldAt b 0 1 % 16)) 4 else [])
     else if frType f = 0x86DD then slice b 8 32 ++ slice b 6 1 ++ (if ported (fieldAt b 6 1) then slice b 40 4 else [])
     else [])

/-- The uplink a frame takes (R381). -/
def lagPort (s : State) (vid : Nat) (f : Bytes) : Option Nat := let ups := uplinks s; ups[Config.lagHash (lagFields vid f) % max 1 ups.length]?

/-- The port is an uplink. -/
def isUplink (s : State) (p : Nat) : Bool := portIs s p 3 3

/-- Ports a frame for `out` of VID `vid` may leave by (R379): uplinks, and ports of partitions that hold the VID. -/
def frMay (s : State) (vid p : Nat) : Bool := isUplink s p || (portIs s p 1 0 && (portPart s p).any fun q => vidOf s q vid)

/-- The frame as it leaves a port: tagged on uplinks, untagged to requesters when the VID is their default. -/
def frFor (s : State) (vid pcp p : Nat) (f : Bytes) : Bytes :=
  if isUplink s p then retag true vid pcp f
  else retag (!((portPart s p).any fun q => (partRec s q).defaultVid == vid)) vid pcp f

/-- The port of a frame's address, when it is that of one station and is known (R380). -/
def frKnown (s : State) (vid : Nat) (f : Bytes) : Option Nat :=
  if frDst f / 2 ^ 40 % 2 = 1 then none
  else match s.img.l2.find? fun e => e.2.mac = frDst f ∧ e.2.vid = vid with
    | some e => some e.2.port
    | none => (aget s.eth.macs (vid, frDst f)).map (·.1)

/-- The destinations of a frame (R380): a known address, which is not sent back to the port it came from, or the members of the VID's group; never from an
uplink to an uplink. -/
def frDests (s : State) (inp vid : Nat) (f : Bytes) : List Nat :=
  let raw := match frKnown s vid f with
    | some p => if p = inp then [] else [p]
    | none => match s.img.mcasts.find? fun (g : Nat × McastRec) => g.2.floodVid = vid ∧ vid ≠ 0 with
      | some g => g.2.members.filter fun p => g.2.loopback || p ≠ inp
      | none => []
  let bam := raw.filter fun p => !isUplink s p && frMay s vid p && portUp s p
  if raw.any (isUplink s) && !isUplink s inp then bam ++ (lagPort s vid f).toList else bam

/-- A source address is learned (R380). -/
def learn (inp vid : Nat) (f : Bytes) (s : State) : State :=
  if s.img.l2.any (fun e => e.2.mac = frSrc f ∧ e.2.vid = vid) then s
  else if (aget s.eth.macs (vid, frSrc f)).isSome ∨ s.eth.macs.length + s.img.l2.length < 262144 then
    { s with eth := { s.eth with macs := aset s.eth.macs (vid, frSrc f) (inp, s.now) } }
  else s

/-- The members whose queues take a copy of a unit (R135, R142), each with a descriptor of its own. -/
def admitCopies (s : State) (ds : List Nat) (cls cells : Nat) (yellow : Bool) : List Nat :=
  ds.foldl (fun ok p => if admits s p cls cells yellow && decide (s.vat.desc + ok.length < 1048576) then ok ++ [p] else ok) []

/-- A frame is queued for its destinations: one unit, or one stored unit with a copy for each member that admits it (R135, R141, R142). A group of which one
member can be reached is a group still. -/
def sendFrame (inp part vid pcp cls : Nat) (yellow : Bool) (f : Bytes) (s : State) : State :=
  let ds := frDests s inp vid f
  let flood := (frKnown s vid f).isNone
  match ds with
  | [] => s
  | [p] =>
    let g := frFor s vid pcp p f
    let n := ceilDiv g.length 256
    if admits s p cls n yellow then
      let (u, s) := takeId s
      enqueue p cls { uid := u, item := .frame g, pool := .shr, cells := n, bytes := g.length, part := part, cls := cls, yellow := yellow }
        (poolTake .shr n s)
    else if flood then bumpG .vatMcDrop 1 s else dropAdmit inp s
  | _ =>
    let g := retag true vid pcp f
    let n := ceilDiv g.length 256
    let ok := admitCopies s ds cls n yellow
    let s := bumpG .vatMcDrop (ds.length - ok.length) s
    if ok = [] then s
    else multicast (.frame g) .shr n g.length part cls false yellow none ok (poolTake .shr n s)

/-- PRT_CLASS_MAP: the class of a frame (R151). -/
def frClass (s : State) (p : Nat) (f : Bytes) : Nat :=
  if frTagged f then (portRec s p).pcpClass.getD (frPcp f) 0 else (portRec s p).untaggedClass

/-- A frame with a class is policed, tapped where a partition's log tap copies it, learned and bridged (R158, R159, R437, R379, R380); `acc` as in `tapCopy`. -/
def bridge (inp part rid sub vid pcp cls : Nat) (f : Bytes) (s : State) (acc : Option (Nat × Nat) := none) : State :=
  let i := polIndex part cls sub
  let pre := (agetD (policersNow s) i {}).colorAware && frTagged f && frDei f
  let (c, s) := charge i f.length pre s
  let s := countColour c part f.length s
  if c = Colour.red then dropAdmit inp s
  else
    let s := tapCopy part cls 2 rid f s acc
    sendFrame inp part vid pcp cls (decide (c = Colour.yellow)) f (learn inp vid f s)

end Sys2Proof.Machine
end

