-- ==== Sys2Proof/Machine/Submit.lean ====
section
/-! DEFINITION. The SCR ops (Table 7.5) and the PROXY ops (Table 7.9), each as one transition of its flit, and the end of a flit (R227 to R230). -/

namespace Sys2Proof.Machine

/-! ## Scratch -/

/-- Handles a running flit names: SCR_FILL, COLL_DEFINE, and SEQ_OPEN until its sequence is open, by their bodies; a SCAN by its query block, in
`names`. -/
def flitNames (f : Flit) : List Nat :=
  match fEngine f.word, fOp f.word with
  | 6, 3 => fw f.word 0x18 0 32 :: f.names
  | 4, 1 => fw f.word 0x18 16 16 :: f.names
  | 5, 1 => if f.regs.getD 2 0 = 1 then f.names else fw f.word 0x1C 0 16 :: f.names
  | _, _ => f.names

/-- SCR_ALLOC (R226). -/
def stepScrAlloc (f : Flit) (s : State) : State :=
  let n := fw f.word 0x18 0 32
  let free := (List.range 65535).find? fun i => (handleAt s f.part (i + 1)).isNone
  let held := (s.eng.handles.filter fun h => h.1.1 = f.part).length
  if n = 0 ∨ n > 2560 then endOp f.part f.slot .unsupported 0x03 s
  else match free with
    | some i =>
      if held < 256 ∧ granOk s f.part n then
        opEnd f .ok 0 (i + 1) 0 (granTake n { s with eng := { s.eng with handles := aset s.eng.handles (f.part, i + 1) { granules := n } } })
      else endOp f.part f.slot .engineBusy 0 s
    | none => endOp f.part f.slot .engineBusy 0 s

/-- SCR_FREE (R226): it waits while another running flit names the handle, or while the handle is bound. -/
def stepScrFree (f : Flit) (s : State) : State :=
  let h := fw f.word 0x18 0 32
  match handleAt s f.part h with
  | none => endOp f.part f.slot .unsupported 0x03 s
  | some x =>
    if handleBound x || s.eng.flits.any fun g => g.part == f.part && g.slot != f.slot && decide (h ∈ flitNames g) then
      setHandle f.part h (fun x => { x with freeing := some f.slot }) s
    else opEnd f .ok 0 0 0 (granFree x.granules { s with eng := { s.eng with handles := adel s.eng.handles (f.part, h) } })

/-- SCR_FILL (Table 7.5): one piece of at most 4 KiB per transition; result_lo counts the bytes copied. -/
def stepScrFill (f : Flit) (s : State) : State :=
  let h := fw f.word 0x18 0 32
  let off := fw f.word 0x1C 0 32
  let src := fAddr f.word 0x20
  let len := fw f.word 0x2C 0 32
  let pos := f.regs.getD 0 0
  match handleAt s f.part h with
  | none => endOp f.part f.slot .unsupported 0x03 s
  | some x =>
    if x.poisoned then endOp f.part f.slot .poison 0x0B s
    else if len % 64 ≠ 0 ∨ off + len > handleSize x ∨ x.boundSeq.isSome then endOp f.part f.slot .unsupported 0x03 s
    else if pos ≥ len then opEnd f .ok 0 pos 0 s
    else
      let n := min (len - pos) (4096 - (src + pos) % 4096)
      opRead f [{ addr := src + pos, key := fKey f.word 0x28, len := n, need := needER }] (fun x s =>
        if x.2 then endOp f.part f.slot .poison 0x0B s
        else opRegs f [pos + n, 0] [] (setHandle f.part h (fun y => handleWrite y (off + pos) x.1) s)) s

/-! ## PROXY (R232, R538) -/

/-- The request a PROXY flit carries; `src` is its source line. -/
def proxyKind (w : BitVec 512) (src : Bytes) : Option ReqKind :=
  let opa := fWord w 0x24
  let opb := fWord w 0x2C
  match fOp w with
  | 0x20 => some (.atomic .add opa) | 0x21 => some (.atomic .and opa) | 0x22 => some (.atomic .or opa) | 0x23 => some (.atomic .xor opa)
  | 0x24 => some (.atomic .swap opa) | 0x25 => some (.atomic .min opa) | 0x26 => some (.atomic .max opa) | 0x27 => some (.atomic .umin opa)
  | 0x28 => some (.atomic .umax opa)
  | 0x2C => some (.cas64 opa opb)
  | 0x2D => some (.cas128 (BitVec.ofNat 128 (fieldAt src 0 16)) (BitVec.ofNat 128 (fieldAt src 16 16)))
  | 0x12 => some (.storeGuarded src)
  | 0x30 => some (.flushRange opa.toNat)
  | 0x31 => some .fence
  | 0x32 => some (.publish (fAddr w 0x34) (fw w 0x3C 0 32 * 64) opa opb)
  | _ => none

/-- The ops that read a source line. -/
def proxySrc (w : BitVec 512) : Bool := fOp w == 0x2D || fOp w == 0x12

/-- The header of the request a PROXY flit carries. -/
def proxyHdr (f : Flit) : ReqHdr :=
  { port := f.port, rid := f.rid, part := f.part, cls := fClass f.word, cmark := false, poison := false, tag := fTag f.word, reissue := false,
    addr := fAddr f.word 0x18, key := fKey f.word 0x20 }

/-- The request is treated as accepted when the flit started, and goes its way (R232). -/
def proxyGo (f : Flit) (h : ReqHdr) (k : ReqKind) (view : Option (Nat × RangeEntry × Bool)) (fwd : Bool) (s : State) : State :=
  let (id, s) := takeId s
  let r : Req := {
    id := id, hdr := h, kind := k, src := .proxy f.slot, accAt := f.startAt, phase := .lock, view := view,
    region := regionCheck s f.part k, covered := kindWrite k, limit := some f.startId }
  let s := setFlit f.part f.slot (fun f => { f with regs := [0, 0, 1] }) s
  dispatch id fwd { s with mem := { s.mem with reqs := s.mem.reqs ++ [r] } }

/-- A failed check of the carried request ends the flit with its status. -/
def proxyFail (f : Flit) (h : ReqHdr) (k : ReqKind) (st : Status) (step : Nat) (s : State) : State :=
  endOp f.part f.slot st 0 (chkFail h k st step s)

/-- PROXY: the target is checked under steps 3 to 7, then the source line is read where the op has one, then the request is made. -/
def stepProxy (f : Flit) (s : State) : State :=
  let h := proxyHdr f
  let aux := fAddr f.word 0x34
  let probe : Bytes := 1 :: zeros 63
  if f.regs.getD 2 0 = 1 then s
  else match proxyKind f.word probe with
    | none => endOp f.part f.slot .unsupported 0x03 s
    | some k =>
      if proxySrc f.word && aux % 64 ≠ 0 then endOp f.part f.slot .unsupported 0x03 s
      else if k = .fence ∧ (h.addr ≠ 0 ∨ h.key ≠ 0) then endOp f.part f.slot .unsupported 0x03 s
      else match check37 s h k with
        | .fail st n => proxyFail f h k st n s
        | .pass view fwd =>
          if proxySrc f.word then
            opRead f [{ addr := aux, key := fKey f.word 0x3C, len := 64, need := needR }] (fun x s =>
              if x.2 then endOp f.part f.slot .poison 0x0B s
              else match proxyKind f.word x.1 with
                | none => s
                | some k => match check37 s h k with
                  | .fail st n => proxyFail f h k st n s
                  | .pass view fwd => proxyGo f h k view fwd s) s
          else proxyGo f h k view fwd s

/-! ## The start of a waiting flit, and the end of any (R215, R227, R230) -/

/-- Every earlier flit of the requester on this plane has completed. -/
def fenceMet (s : State) (f : Flit) : Bool :=
  !(s.eng.flits.any fun g => g.rid == f.rid && decide (g.order < f.order) && !opensWhole s g)

/-- FLIT_START: the fence wait ends, and the flit starts now (R232). -/
def startFlit (part slot : Nat) (s : State) : State :=
  match flitAt s part slot with
  | some f => if f.waiting ∧ f.fin.isNone ∧ fenceMet s f then setFlit part slot (fun f => { f with waiting := false, startAt := s.now, startId := s.nextId }) s
    else s
  | none => s

/-- ENGINE_COMPLETION (R227): a flit that has ended before it was answered is answered first; once every write is accepted the record is written to cmpl_addr, or the status line is updated at once. -/
def completeFlit (part slot : Nat) (s : State) : State :=
  match flitAt s part slot with
  | none => s
  | some f => match f.fin with
    | none => s
    | some e =>
      let s := releaseAnswer f s
      if f.out ≠ [] ∨ f.recordOut then s
      else if fCmplEn f.word then
        let r := recordOf s f e
        let w : List EngAcc := [{
          addr := fCmplAddr f.word, key := fCmplKey f.word, len := 16, write := true, data := natLe 16 r, need := needEW }]
        setFlit part slot (fun f => { f with recordOut := true, record := some r, failed := none, todo := w, pol := 0 }) s
      else finalize part slot false s

/-- A record write that has come back ends the flit (R227, R229). -/
def recordBack (part slot : Nat) (s : State) : State :=
  match flitAt s part slot with
  | some f => if f.recordOut && f.out.isEmpty && f.todo.isEmpty && f.fin.isSome then finalize part slot f.failed.isSome s else s
  | none => s

end Sys2Proof.Machine
end

