-- ==== Sys2Proof/Machine/Reduce.lean ====
section
/-! DEFINITION. The reduce units (chapter 8): reduction groups from arming to release, contributions and chunks, and REDUCE_MEM. -/

namespace Sys2Proof.Machine

/-! ## Groups -/

/-- A group by template index. -/
def groupAt (s : State) (g : Nat) : Group := agetD s.eng.groups g {}

/-- `s` with a group changed. -/
def setGroup (g : Nat) (f : Group → Group) (s : State) : State := { s with eng := { s.eng with groups := amod s.eng.groups g {} f } }

/-- The spec word of a group. -/
def groupSpec (x : Group) : SpecWord := specOf (fw x.word 0x1C 0 32)

/-- Output entries of a TOPK group. -/
def groupK (x : Group) : Nat := fw x.word 0x24 0 11

/-- Chunks open: begun and not ended. -/
def groupOpen (x : Group) : Nat := (x.slots.filter fun e => e.2.open_).length

/-- k is in range: 1 to 1,024 for TOPK, zero otherwise (Tables 8.9 and 8.12). -/
def kOk (p : SpecWord) (k : Nat) : Bool := if p.op = 7 then decide (1 ≤ k ∧ k ≤ 1024) else decide (k = 0)

/-- GROUP_ARM (R258): the template is copied and the group becomes ARMED; then the flit runs until the group is released. -/
def stepGroupArm (f : Flit) (s : State) : State :=
  let g := fw f.word 0x18 0 10
  let t := agetD s.img.rgroups g {}
  let w := fw f.word 0x18 16 8 + 1
  let p := specOf (fw f.word 0x1C 0 32)
  let x := groupAt s g
  let fail (st : Status) (d : Nat) : State := releaseAnswer f (endOp f.part f.slot st d s)
  if f.regs.getD 2 0 = 1 then s
  else if !(t.valid && t.part == f.part) then fail .noAccess 0x84
  else if x.state = .armed ∨ x.state = .draining ∨ x.endAs.isSome then fail .engineBusy 0x85
  else if w > t.maxWindow ∨ fw f.word 0x20 0 24 % planes s ≠ 0 then fail .unsupported 0x03
  else if !specOk p || !kOk p (fw f.word 0x24 0 11) || fw f.word 0x34 20 2 == 3 then fail .unsupported 0x03
  else
    let y : Group := {
      state := .armed, part := f.part, members := (agetD s.img.mcasts t.mcast {}).members, tmpl := t, word := f.word, window := w,
      seqBase := fw f.word 0x20 0 24, armSlot := f.slot }
    releaseAnswer f (setFlit f.part f.slot (fun f => { f with regs := [0, 0, 1] }) (setGroup g (fun _ => y) s))

/-- GROUP_DISARM (R266): the group goes to DRAINING; its record follows the ARM record. -/
def stepGroupDisarm (f : Flit) (s : State) : State :=
  let g := fw f.word 0x18 0 10
  let x := groupAt s g
  if f.regs.getD 2 0 = 1 then
    if s.eng.flits.any fun y => y.part == f.part && y.slot == f.regs.getD 3 0 && y.order == f.regs.getD 4 0 then s
    else opEnd f .ok 0 0 0 s
  else if x.state ≠ .armed ∨ x.endAs.isSome ∨ x.part ≠ f.part then endOp f.part f.slot .noAccess 0x84 s
  else
    let ord := (flitAt s x.part x.armSlot).elim 0 (·.order)
    setFlit f.part f.slot (fun f => { f with regs := [0, 0, 1, x.armSlot, ord] })
      (setGroup g (fun x => { x with state := .draining, disarmSlot := some f.slot }) s)

/-- GROUP_RELEASE (R266): no chunk of the draining group is open; the group becomes IDLE and its ARM record follows. -/
def groupRelease (g : Nat) (s : State) : State :=
  let x := groupAt s g
  if x.state = .draining ∧ x.endAs.isNone ∧ groupOpen x = 0 then
    endFlit x.part x.armSlot { status := .ok, lo := x.okCnt, hi := x.poisonCnt } (setGroup g (fun x => { x with state := .idle, slots := [] }) s)
  else s

/-! ## Results (R263) -/

/-- Local index of a chunk. -/
def chunkIdx (s : State) (x : Group) (seq : Nat) : Nat := (seq - x.seqBase) / planes s

/-- The window slot of a chunk. -/
def chunkSlot (x : Group) (j : Nat) : ChunkSlot := agetD x.slots (j % x.window) {}

/-- `s` with a chunk slot changed. -/
def setChunk (g j : Nat) (f : ChunkSlot → ChunkSlot) (s : State) : State :=
  setGroup g (fun x => { x with slots := amod x.slots (j % x.window) {} f }) s

/-- What a chunk's members sent, in member order (R253). -/
def chunkInputs (x : Group) (c : ChunkSlot) : List Bytes := x.members.filterMap (aget c.got)

/-- The rounded chunk: bytes, or the detail of its POISON (R262, R263). -/
def chunkResult (x : Group) (c : ChunkSlot) : Except Nat Bytes :=
  if c.poison then .error c.detail
  else reduceChunk (groupSpec x) (fWord x.word 0x28) (c.seq * (fmtOf (groupSpec x).inFmt).elems) (groupK x) (chunkInputs x c)

/-- Result address of a chunk in pool mode. -/
def poolAddr (x : Group) (j : Nat) : Nat := fAddr x.word 0x30 + j * chunkOut (groupSpec x) (groupK x)

/-- Bytes the spec does not state: the payload of a POISON result (assumption 42). -/
def freeBytes (s : State) (n : Nat) : Bytes := (List.range n).map fun i => BitVec.ofNat 8 (Config.freeNat (s.freeIx + i))

/-- The result reaches the members. -/
def resultUnit (x : Group) (g seq : Nat) (st : Status) (detail cls : Nat) (data : Bytes) : StreamOut :=
  { utype := 0xD1, status := st, detail := detail,
    hdr := { port := 256, rid := 0, part := x.part, cls := cls, cmark := false, poison := decide (st ≠ .ok), schedId := 0, dest := g, dkind := 2,
             seq := seq, payload := data } }

/-- The accesses that write a chunk's result to the pool, each with the view it is issued under; `none` when one fails its check (R263, R223). -/
def poolWrites (s : State) (x : Group) (j : Nat) (data : Bytes) : Option (List (EngAcc × (Nat × RangeEntry × Bool))) :=
  (engWrites (poolAddr x j) data (fKey x.word 0x38) needEW).mapM fun a =>
    match checkEng s x.part a.addr a.len a.key (rightsCover a.need) with
    | .ok v => some (a, v)
    | .error _ => none

/-- The result's unit is stored once and queued for the members (R141). -/
def sendResult (x : Group) (u : StreamOut) (cls : Nat) (s : State) : State :=
  let n := streamCells u
  let pool : Pool := if x.tmpl.resultSched then .sch else .eng
  multicast (.stream u) pool n (streamBytes u) x.part cls u.hdr.poison false none x.members (poolTake pool n s)

/-- A result of the group that completed earlier has not gone. -/
def resultBefore (x : Group) (c : ChunkSlot) : Bool := x.slots.any fun e => e.2.open_ && e.2.done && decide (e.2.doneIx < c.doneIx)

/-- The chunk's result is delivered, in completion order, if its cells can be had, and its slot is freed; else it holds its slot (R263, R265). A POISON result
is not written to the pool (assumption 42). -/
def deliverChunk (g j : Nat) (s : State) : State :=
  let x := groupAt s g
  let c := chunkSlot x j
  if !(c.open_ && c.done) || resultBefore x c then s
  else
    let mode := fw x.word 0x34 20 2
    let res := chunkResult x c
    let ws : Option (List (EngAcc × (Nat × RangeEntry × Bool))) := match res with
      | .ok b => if mode = 0 then some [] else poolWrites s x j b
      | .error _ => some []
    let st : Status × Nat := match res, ws with
      | .error d, _ => (.poison, d)
      | .ok _, none => (.poison, 0x05)
      | .ok _, some _ => (.ok, 0)
    let cls := if x.tmpl.resultSched then 7 else x.tmpl.resultClass
    let data := match res with
      | .ok b => if st.1 = .ok then b else freeBytes s (min 16368 (chunkOut (groupSpec x) (groupK x)))
      | .error _ => freeBytes s (min 16368 (chunkOut (groupSpec x) (groupK x)))
    let u := resultUnit x g c.seq st.1 st.2 cls data
    let n := if mode = 1 then 0 else streamCells u
    let sch := x.tmpl.resultSched
    let wcells := sumOf ((ws.getD []).map fun w => ceilDiv w.1.len 64 + 1)
    if (sch && decide (s.vat.sch + n > (dev s).schCells)) || decide (s.vat.eng + (if sch then 0 else n) + wcells > (dev s).engCells) then s
    else
      let s := setChunk g j (fun c => { lastSeq := c.seq }) s
      let s := setGroup g (fun x => if st.1 = .ok then { x with okCnt := x.okCnt + 1 } else { x with poisonCnt := x.poisonCnt + 1 }) s
      let s := bumpG (if st.1 = .ok then .rduChunkOk else .rduChunkPoison) 1 s
      let s := if mode = 1 then s else sendResult x u cls s
      match flitAt s x.part x.armSlot with
      | some f => (ws.getD []).foldl (fun s w => engSend f w.1 w.2 s) s
      | none => s

/-- A chunk ends: every member has contributed, or an event ends it POISON. -/
def endChunk (g j : Nat) (s : State) : State :=
  let (ix, s) := takeId s
  deliverChunk g j (setChunk g j (fun c => if c.done then c else { c with done := true, doneIx := ix }) s)

/-- A group that ends early has delivered its last result: it is IDLE, or FAULTED, and its ARM record follows (Table 8.7). -/
def groupFinish (g : Nat) (s : State) : State :=
  let x := groupAt s g
  match x.endAs with
  | none => s
  | some (st, d) =>
    if groupOpen x ≠ 0 then s
    else endFlit x.part x.armSlot { status := st, detail := d, lo := x.okCnt, hi := x.poisonCnt }
      (setGroup g (fun x => { x with state := if st = .retryLater then .idle else .faulted, slots := [], endAs := none }) s)

/-- Results that wait for cells are tried again. -/
def retryChunks (g : Nat) (s : State) : State :=
  groupFinish g ((sortBy (·.2.doneIx) ((groupAt s g).slots.filter fun e => e.2.done)).foldl (fun s e => deliverChunk g (chunkIdx s (groupAt s g) e.2.seq) s) s)

/-! ## Contributions (R259) -/

/-- A discard is counted and the first captured: 0 NOT_ARMED, 1 PARTITION, 2 NON_MEMBER, 3 BELOW_BASE, 4 WRONG_PLANE, 5 LATE, 6 EARLY, 7 DUP. -/
def discardContrib (reason : Nat) (h : StreamHdr) (s : State) : State :=
  let s := bumpG .rduDiscard 1 s
  if s.eng.disc.valid then s
  else { s with eng := { s.eng with disc := { valid := true, reason := reason, port := h.port, group := h.dest, seq := h.seq } } }

/-- The contribution is added; lengths that differ or are not whole, and POISON units, mark the slot (R262). -/
def addContrib (g j : Nat) (h : StreamHdr) (s : State) : State :=
  let x := groupAt s g
  let c := chunkSlot x j
  let len := h.payload.length
  let bad : Option Nat :=
    if h.poison then some 0x0B
    else if !lenOk (groupSpec x) len ∨ len > chunkIn (groupSpec x) then some 0x83
    else match c.got with
      | (_, b) :: _ => if (groupSpec x).op ≠ 7 ∧ b.length ≠ len then some 0x83 else none
      | [] => none
  let s := setChunk g j (fun c => { c with
    got := c.got ++ [(h.port, h.payload)]
    poison := c.poison || bad.isSome
    detail := if c.poison then c.detail else bad.getD 0 }) (bumpG .rduContrib 1 s)
  if (chunkSlot (groupAt s g) j).got.length = x.members.length then endChunk g j s else s

/-- The group is bound to another partition than the unit's (R361). -/
def otherGroup (s : State) (h : StreamHdr) : Bool :=
  let t := agetD s.img.rgroups h.dest {}
  t.valid && t.part != h.part

/-- take_contribution (R259); a unit whose group is another partition's is also counted at its port (R361). -/
def takeContrib (h : StreamHdr) (s : State) : State :=
  let g := h.dest
  let x := groupAt s g
  let s := if otherGroup s h then dropAdmit h.port s else s
  if (x.state ≠ .armed ∧ x.state ≠ .draining) ∨ x.endAs.isSome then discardContrib 0 h s
  else if h.part ≠ x.part ∨ otherGroup s h then discardContrib 1 h s
  else if h.port ∉ x.members then discardContrib 2 h s
  else if h.seq < x.seqBase then discardContrib 3 h s
  else if (selectPlane (h.seq * 4096) (planes s)).1 ≠ ownPlane s then discardContrib 4 h s
  else
    let j := chunkIdx s x h.seq
    let c := chunkSlot x j
    if c.open_ ∧ c.seq ≠ h.seq then discardContrib (if h.seq < c.seq then 5 else 6) h s
    else if c.open_ then
      if (aget c.got h.port).isSome then discardContrib 7 h s else addContrib g j h s
    else if (h.seq : Int) ≤ c.lastSeq then discardContrib 5 h s
    else if x.state = .draining then discardContrib 0 h s
    else addContrib g j h (setChunk g j (fun c => { c with open_ := true, seq := h.seq, openedAt := s.now, got := [], poison := false }) s)

/-! ## Events of a group (Table 8.7) -/

/-- Every open chunk of a group that is not already complete ends POISON; one that was marked before keeps that detail (assumption 42). -/
def poisonChunks (g detail : Nat) (s : State) : State :=
  ((groupAt s g).slots.filter fun e => e.2.open_).foldl (fun s e =>
    let j := chunkIdx s (groupAt s g) e.2.seq
    endChunk g j (setChunk g j (fun c => if c.done then c else { c with poison := true, detail := if c.poison then c.detail else detail }) s)) s

/-- A group ends early: its open chunks end POISON, later contributions are discarded as NOT_ARMED, and the ARM record follows the last result. -/
def groupEnd (g : Nat) (st : Status) (detail : Nat) (s : State) : State :=
  groupFinish g (setGroup g (fun x => { x with endAs := some (st, detail) }) (poisonChunks g detail s))

/-- The group is FAULTED (Table 8.7). -/
def groupFault (g : Nat) (st : Status) (detail : Nat) (s : State) : State :=
  let x := groupAt s g
  if (x.state = .armed ∨ x.state = .draining) ∧ x.endAs.isNone then
    groupEnd g st detail (setGroup g (fun x => { x with state := .faulted }) s)
  else s

/-- A member port goes down (R267). -/
def groupPortDown (p : Nat) (s : State) : State :=
  (s.eng.groups.filter fun e => p ∈ e.2.members).foldl (fun s e => groupFault e.1 .targetLost 0x80 s) s

/-- The ARM flit's time limit expires: open chunks end POISON, the group becomes IDLE and the record is RETRY_LATER, detail 0x09. -/
def groupExpire (g : Nat) (s : State) : State := if (groupAt s g).endAs.isSome then s else groupEnd g .retryLater 0x09 s

/-- CHUNK_TIMEOUT (R264). -/
def chunkTimeout (g seq : Nat) (s : State) : State :=
  let x := groupAt s g
  let j := chunkIdx s x seq
  let c := chunkSlot x j
  let us := let t := fw x.word 0x24 16 16; if t = 0 then x.tmpl.timeoutUs else t
  if (x.state = .armed ∨ x.state = .draining) ∧ c.open_ ∧ !c.done ∧ c.seq = seq ∧ s.now ≥ c.openedAt + 1000 * us then
    endChunk g j (setChunk g j (fun c => { c with poison := true, detail := 0x81 }) (bumpG .rduTimeout 1 s))
  else s

/-! ## REDUCE_MEM (R270) -/

/-- Reads of the descriptor block. -/
def rmDesc (f : Flit) (n : Nat) : List EngAcc := engReads (fAddr f.word 0x18) (16 + 16 * n) (fKey f.word 0x20) needER

/-- Source i of a descriptor block: address and key (Table 8.12). -/
def rmSrc (d : Bytes) (i : Nat) : Nat × Word32 := (fieldAt d (16 + 16 * i) 8 % 2 ^ 52, BitVec.ofNat 32 (fieldAt d (24 + 16 * i) 4))

/-- Two areas share a byte. -/
def overlaps (a n b m : Nat) : Bool := decide (a < b + m ∧ b < a + n ∧ 0 < n ∧ 0 < m)

/-- The length is whole chunks and a last part of whole elements, blocks or records, at most 1 GiB; a TOPK source is one list. Length 0 is a whole number
of elements: nothing is combined. -/
def rmLenOk (p : SpecWord) (n : Nat) : Bool :=
  decide (n ≤ 2 ^ 30) && (p.op ≠ 7 || lenOk p n) && (n % chunkIn p == 0 || lenOk p (n % chunkIn p))

/-- The result overlaps no source, or equals source 0 exactly (R270). -/
def rmApart (srcs : List (Nat × Word32)) (len res out : Nat) : Bool :=
  (srcs.all fun a => !overlaps a.1 len res out) || ((srcs.head?.any fun a => a.1 == res) && len == out)

/-- Bytes of the whole result. -/
def rmOutLen (p : SpecWord) (k n : Nat) : Nat :=
  if p.op = 7 then 16 * k else n / chunkIn p * chunkOut p k + outLen p k (n % chunkIn p)

/-- REDUCE_MEM (R270), one chunk per transition; `regs` holds the result bytes complete, zero, the sources' position, and the result bytes once the
writes in hand are accepted. -/
def stepReduceMem (f : Flit) (s : State) : State :=
  let p := specOf (fw f.word 0x24 0 32)
  let n := fw f.word 0x28 0 8 + 1
  let len := fw f.word 0x2C 0 32
  let res := fAddr f.word 0x30
  let bad (d : Nat) (st : Status) (s : State) : State := endOp f.part f.slot st d s
  if !specOk p || n < 2 || !rmLenOk p len || fAddr f.word 0x18 % 16 ≠ 0 then bad 0x03 .unsupported s
  else if !f.chk && areaForeign s (fAddr f.word 0x18) (16 + 16 * n) then bad 0x06 .noAccess s
  else if !f.chk && !areaMapped s (fAddr f.word 0x18) (16 + 16 * n) then bad 0x03 .unsupported s
  else opRead f (rmDesc f n) (fun x s =>
    let d := x.1
    let k := fieldAt d 8 2 % 2048
    let srcs := (List.range n).map (rmSrc d)
    let out := rmOutLen p k len
    let pos := f.regs.getD 2 0
    let doneB := f.regs.getD 3 0
    if f.regs.getD 0 0 ≠ doneB then opKeep f [doneB, 0, pos, doneB] [] s
    else if x.2 then bad 0x0B .poison s
    else if !kOk p k then bad 0x03 .unsupported s
    else if !f.chk && (srcs.any (fun a => areaForeign s a.1 len) || areaForeign s res out) then bad 0x06 .noAccess s
    else if !f.chk && (srcs.any (fun a => !areaMapped s a.1 len) || !areaMapped s res out || !rmApart srcs len res out) then bad 0x03 .unsupported s
    else if pos ≥ len then opEnd f .ok 0 doneB 0 s
    else
      let s := setFlit f.part f.slot (fun x => { x with chk := true }) s
      let c := if p.op = 7 then len else min (chunkIn p) (len - pos)
      let reads := srcs.map fun a => engReads (a.1 + pos) c a.2 needER
      match cacheAll f reads.flatten with
      | none => opTodo f (cacheMiss f reads.flatten) s
      | some y =>
        if y.2 then bad 0x0B .poison s
        else
          let ins := (List.range n).map fun i => slice y.1 (i * c) c
          match reduceChunk p (BitVec.ofNat 64 (fieldAt d 0 8)) (pos * (fmtOf p.inFmt).elems / max 1 (chunkIn p)) k ins with
          | .error e => bad e .poison s
          | .ok b =>
            let keep := f.cache.filter fun e => decide (fAddr f.word 0x18 ≤ e.1 ∧ e.1 < fAddr f.word 0x18 + 16 + 16 * n)
            setFlit f.part f.slot (fun g => { g with
              regs := [doneB, 0, pos + c, doneB + b.length], cache := keep, todo := engWrites (res + doneB) b (fKey f.word 0x38) needEW }) s) s

end Sys2Proof.Machine
end

