-- ==== Sys2Proof/Machine/Gather.lean ====
section
/-! DEFINITION. The gather units (chapter 9): index resolution, GATHER, SCATTER and SCATTER_ADD, position by position and piece by piece. -/

namespace Sys2Proof.Machine

/-! ## The descriptor and its checks (Tables 9.2 and 9.3, R281, R282) -/

/-- A list of a descriptor: base, key, wide, entries. -/
structure GList where
  base : Nat
  key : Word32
  wide : Bool
  count : Nat
  deriving DecidableEq, Repr

/-- Entry width of a list. -/
def GList.w (l : GList) : Nat := if l.wide then 8 else 4

/-- A descriptor block with what the flit adds: row sizes in the table and in the dense buffer, elements per row. -/
structure GDesc where
  n : Nat
  rowBytes : Nat
  stride : Nat
  tblCount : Nat
  tbl : Nat
  tblKey : Word32
  dense : Nat
  denseKey : Word32
  lists : List GList
  elems : Nat
  tableRow : Nat
  denseRow : Nat
  deriving DecidableEq, Repr

/-- RAW pairs (R282). -/
def gtuRaw (p : SpecWord) : Bool := p.inFmt == 0x3F && p.outFmt == 0x3F

/-- The format is one of the MX formats. -/
def isMx (code : Nat) : Bool := decide (8 ≤ code ∧ code ≤ 0xC)

/-- The accepted pairs of Table 9.4. -/
def gtuSpecOk (op : Nat) (p : SpecWord) : Bool :=
  let a := fmtOf p.inFmt
  let b := fmtOf p.outFmt
  !p.rsvd && !p.norm && p.head == 0 && decide (p.rnd < 3) && (op == 3 || p.op == 0) &&
    ((gtuRaw p && op != 3) || (a.isFloat && b.isFloat && decide (p.op ≤ 2)) ||
      (intWidens a b && p.op == 0 && p.rnd == 0) || (a.isInt && p.inFmt == p.outFmt && op == 3 && decide (p.op = 1 ∨ p.op = 2) && p.rnd == 0))

/-- Elements of a row of `b` bytes. -/
def gtuElems (p : SpecWord) (b : Nat) : Option Nat :=
  if gtuRaw p then (if b % 2 = 0 then some (b / 2) else none) else (fmtOf p.inFmt).count b

/-- Output bytes of `e` elements. -/
def gtuOut (p : SpecWord) (e : Nat) : Nat := if gtuRaw p then 2 * e else (fmtOf p.outFmt).sizeOf e

/-- The spec word of a GTU flit. -/
def gtuSpec (f : Flit) : SpecWord := specOf (fw f.word 0x28 0 32)

/-- A descriptor block decoded; `none` when its row holds no whole number of elements. -/
def gtuDesc (f : Flit) (d : Bytes) : Option GDesc :=
  let p := gtuSpec f
  let rb := fieldAt d 4 4 % 2 ^ 17
  (gtuElems p rb).map fun e =>
    let out := gtuOut p e
    { n := fw f.word 0x24 0 32, rowBytes := rb, stride := fieldAt d 8 4, tblCount := fieldAt d 0xC 4, tbl := fieldAt d 0x10 8 % 2 ^ 52,
      tblKey := BitVec.ofNat 32 (fieldAt d 0x18 4), dense := fieldAt d 0x20 8 % 2 ^ 52, denseKey := BitVec.ofNat 32 (fieldAt d 0x28 4),
      lists := (List.range (fieldAt d 0 4 % 8 + 1)).map fun i => {
        base := fieldAt d (0x30 + 16 * i) 8 % 2 ^ 52, key := BitVec.ofNat 32 (fieldAt d (0x38 + 16 * i) 4),
        wide := bitAt (fieldAt d (0x34 + 16 * i) 4) 20,
        count := if i = 0 then fw f.word 0x24 0 32 else fieldAt d (0x3C + 16 * i) 4 }
      elems := e, tableRow := if fOp f.word = 1 then rb else out, denseRow := if fOp f.word = 1 then out else rb }

/-- [a, a + n) stays in the range its first byte lies in (R281). -/
def withinRange (s : State) (a n : Nat) : Bool :=
  match findRange s a 1 with
  | some (_, e) => covers e a n
  | none => false

/-- The checks of R281 that need no read. -/
def gtuFlitOk (f : Flit) : Bool :=
  let acc := fw f.word 0x34 0 17
  gtuSpecOk (fOp f.word) (gtuSpec f) && fAddr f.word 0x18 % 16 == 0 && decide (1 ≤ fw f.word 0x24 0 32) &&
    (if fOp f.word = 3 then decide (1 ≤ acc ∧ acc ≤ 65536 ∧ fw f.word 0x24 0 32 ≤ 16777215) else acc == 0)

/-- The checks of R281 on the descriptor. -/
def gtuDescOk (s : State) (f : Flit) (g : GDesc) (dlen : Nat) : Bool :=
  let p := gtuSpec f
  let out := gtuOut p g.elems
  let wr : Nat × Nat := if fOp f.word = 1 then (g.dense, g.n * g.denseRow) else (g.tbl, g.tblCount * g.stride)
  let rd : Nat × Nat := if fOp f.word = 1 then (g.tbl, g.tblCount * g.stride) else (g.dense, g.n * g.denseRow)
  decide (2 ≤ g.rowBytes ∧ g.rowBytes ≤ 65536 ∧ out ≤ 65536) && (!(isMx p.inFmt || isMx p.outFmt) || g.elems % 32 == 0)
    && decide (g.tableRow ≤ g.stride)
    && decide (g.tbl % 2 = 0 ∧ g.dense % 2 = 0 ∧ g.stride % 2 = 0 ∧ g.tableRow % 2 = 0 ∧ g.denseRow % 2 = 0)
    && withinRange s g.tbl (g.tblCount * g.stride) && withinRange s g.dense (g.n * g.denseRow)
    && !overlaps wr.1 wr.2 rd.1 rd.2 && !overlaps wr.1 wr.2 (fAddr f.word 0x18) dlen
    && g.lists.all fun l => !overlaps wr.1 wr.2 l.base (l.count * l.w)

/-! ## Resolving an index (R278) -/

/-- How a position resolves. -/
inductive GRes where
  | need (l : List EngAcc) | null | oob | poison | row (x : Nat)
  deriving DecidableEq, Repr

/-- All ones of an entry width. -/
def allOnes (wide : Bool) : Nat := if wide then 2 ^ 64 - 1 else 2 ^ 32 - 1

/-- An entry of a list by its own read: `none` while it is missing, else its value or poison. -/
def listEntry (f : Flit) (l : GList) (x : Nat) : Except (List EngAcc) (Option Nat) :=
  let rs := engReads (l.base + x * l.w) l.w l.key needER
  match cacheAll f rs with
  | none => .error (cacheMiss f rs)
  | some b => .ok (if b.2 then none else some (leNat b.1))

/-- The 4 KiB pieces of list 0 that hold entry `k`. -/
def l0Pieces (l : GList) (k : Nat) : List EngAcc :=
  let piece (b : Nat) : EngAcc :=
    let lo := max l.base (b / 4096 * 4096)
    { addr := lo, key := l.key, len := min (l.base + l.count * l.w) ((b / 4096 + 1) * 4096) - lo, need := needER }
  let b := l.base + k * l.w
  let p := piece b
  let q := piece (b + l.w - 1)
  if p = q then [p] else [p, q]

/-- Entry `k` of list 0, from its piece, or from its own read when a line of the piece is POISON. -/
def l0Entry (f : Flit) (l : GList) (k : Nat) : Except (List EngAcc) (Option Nat) :=
  let ps := l0Pieces l k
  match cacheAll f ps with
  | none => .error (cacheMiss f ps)
  | some b =>
    if b.2 then listEntry f { l with base := l.base } k
    else .ok (some (fieldAt b.1 (l.base + k * l.w - (ps.headD { addr := 0, key := 0, len := 0, need := {} }).addr) l.w))

/-- The chain of lists after list 0. -/
def chase (f : Flit) (tblCount : Nat) : Bool → Nat → List GList → GRes
  | wide, x, [] => if x = allOnes wide then .null else if x ≥ tblCount then .oob else .row x
  | wide, x, l :: t =>
    if x = allOnes wide then .null
    else if x ≥ l.count then .oob
    else match listEntry f l x with
      | .error r => .need r
      | .ok none => .poison
      | .ok (some y) => chase f tblCount l.wide y t

/-- Entries of the lists after list 0 that a position has read. -/
def chaseReads (f : Flit) : Bool → Nat → List GList → Nat
  | _, _, [] => 0
  | wide, x, l :: t =>
    if x = allOnes wide ∨ x ≥ l.count then 0
    else match listEntry f l x with
      | .ok (some y) => 1 + chaseReads f l.wide y t
      | .ok none => 1
      | .error _ => 0

/-- List entries that a position has looked up so far (Table 9.10). -/
def lookups (f : Flit) (g : GDesc) (k : Nat) : Nat :=
  match g.lists with
  | [] => 0
  | l :: t => match l0Entry f l k with
    | .ok (some x) => 1 + chaseReads f l.wide x t
    | .ok none => 1
    | .error _ => 0

/-- resolve_row of position `k`. -/
def resolveRow (f : Flit) (g : GDesc) (k : Nat) : GRes :=
  match g.lists with
  | [] => .null
  | l :: t => match l0Entry f l k with
    | .error r => .need r
    | .ok none => .poison
    | .ok (some x) => chase f g.tblCount l.wide x t

/-! ## Conversion (R282) -/

/-- A row converted; `idx` is the elem_index of its first element. -/
def gtuConvert (f : Flit) (idx : Nat) (b : Bytes) : Bytes :=
  let p := gtuSpec f
  if gtuRaw p then b
  else if (fmtOf p.inFmt).isInt then encodeInts (fmtOf p.outFmt) (decodeInts (fmtOf p.inFmt) b) p.sat
  else encodeVals (fmtOf p.outFmt) (decodeVals (fmtOf p.inFmt) b) (rndOf p.rnd) p.sat (fWord f.word 0x2C) idx

/-- A destination row of SCATTER_ADD: its prior value and every contribution, rounded once (R286). -/
def gtuAdd (f : Flit) (idx : Nat) (old : Bytes) (ins : List Bytes) : Bytes :=
  let p := gtuSpec f
  let a := fmtOf p.inFmt
  let b := fmtOf p.outFmt
  if a.isInt then
    let rows := decodeInts b old :: ins.map (decodeInts a)
    encodeInts b ((columns ((rows.headD []).length) rows).map (intOp p.op)) p.sat
  else
    let rows := decodeVals b old :: ins.map (decodeVals a)
    encodeVals b ((columns ((rows.headD []).length) rows).map fun c => if p.op = 0 then sumVals c else pickVals (p.op = 1) c)
      (rndOf p.rnd) p.sat (fWord f.word 0x2C) idx

/-! ## Positions

`regs`: 0 and 1 the result words, 2 the position, 3 poison seen, 4 the value result_lo takes when the writes out are accepted, 5 the phase of
SCATTER_ADD (0 accumulate, 1 a piece waits for its locks, 2 locks held, 3 piece written) — there register 4 tells that the piece has waited —, 6 the destination, 7 the piece;
while positions are resolved 6 tells that the row being written counts, 7 the list entries of the position already counted; from 8 on the
destination rows in order of first appearance. Contributions to destination d are kept under the cache address 2^60 + d. -/

/-- Register `i` of a flit. -/
def rg (f : Flit) (i : Nat) : Nat := f.regs.getD i 0

/-- Registers with some changed. -/
def rgSet (f : Flit) (l : List (Nat × Nat)) : List Nat :=
  let base := f.regs ++ List.replicate (8 - f.regs.length) 0
  l.foldl (fun r x => r.set x.1 x.2) base

/-- What a flit keeps from position to position: its descriptor, list pieces and contributions. -/
def gtuKeep (f : Flit) (g : GDesc) : List (Nat × Bytes × Bool) :=
  let d0 := fAddr f.word 0x18
  f.cache.filter fun c => decide (c.1 ≥ 2 ^ 60) || decide (d0 ≤ c.1 ∧ c.1 < d0 + 176) ||
    match g.lists with
    | l :: _ => decide ((l0Pieces l (rg f 2 + 1)).any fun a => a.addr = c.1 ∧ (a.len = c.2.1.length ∨ c.2.2))
    | [] => false

/-- The flit moves on: registers, accesses, kept bytes. -/
def gtuNext (f : Flit) (g : GDesc) (rs : List (Nat × Nat)) (todo : List EngAcc) (s : State) : State :=
  setFlit f.part f.slot (fun x => { x with regs := rgSet f ((7, 0) :: rs), todo := todo, cache := gtuKeep f g }) s

/-- A position is skipped. -/
def gtuSkip (f : Flit) (g : GDesc) (s : State) : State :=
  gtuNext f g [(1, rg f 1 + 1), (2, rg f 2 + 1), (4, if fOp f.word = 3 then rg f 4 else rg f 2 + 1)] [] (bumpG .gtuSkipped 1 s)

/-- Bytes of a row in hand, or the reads still missing. -/
def gtuRead (f : Flit) (addr n : Nat) (key : Word32) : Except (List EngAcc) (Bytes × Bool) :=
  let rs := engReads addr n key needER
  match cacheAll f rs with
  | some x => .ok x
  | none => .error (cacheMiss f rs)

/-- GATHER's position `k` with its row's bytes, or a zero row (R279, R284, R289). -/
def gatherPos (f : Flit) (g : GDesc) (k : Nat) (row : Option (Bytes × Bool)) (skipped : Bool) (s : State) : State :=
  let pois := row.any (·.2)
  let data := match row with
    | some (b, false) => gtuConvert f (k * g.elems) b
    | _ => zeros g.denseRow
  let s := if skipped then bumpG .gtuSkipped 1 s else s
  gtuNext f g [(1, rg f 1 + b2n skipped), (2, k + 1), (3, max (rg f 3) (b2n pois)), (4, k + 1), (6, b2n (!skipped))]
    (engWrites (g.dense + k * g.denseRow) data g.denseKey needEW pois) s

/-- SCATTER's position `k` with its dense row (R285, R289). -/
def scatterPos (f : Flit) (g : GDesc) (k x : Nat) (row : Bytes × Bool) (s : State) : State :=
  let data := if row.2 then zeros g.tableRow else gtuConvert f (k * g.elems) row.1
  gtuNext f g [(2, k + 1), (3, max (rg f 3) (b2n row.2)), (4, k + 1), (6, 1)]
    (engWrites (g.tbl + x * g.stride) data g.tblKey needEW row.2) s

/-- SCATTER_ADD's position `k` in the accumulate phase (R286). -/
def addPos (f : Flit) (g : GDesc) (k x : Nat) (row : Bytes × Bool) (s : State) : State :=
  let dests := f.regs.drop 8
  let d := dests.findIdx (· == x)
  if d = dests.length ∧ dests.length ≥ fw f.word 0x34 0 17 then endOp f.part f.slot .unsupported 0x81 (bumpG .gtuAccOvf 1 s)
  else
    let regs := rgSet f [(2, k + 1), (3, max (rg f 3) (b2n row.2)), (7, 0)] ++ (if d = dests.length then [x] else [])
    setFlit f.part f.slot (fun y => { y with regs := regs, cache := gtuKeep f g ++ [(2 ^ 60 + d, row)] }) s

/-- One position of a GTU flit; what has been looked up of it since is counted. -/
def gtuPos (f : Flit) (g : GDesc) (s : State) : State :=
  let k := rg f 2
  let op := fOp f.word
  let n := lookups f g k
  let s := setFlit f.part f.slot (fun x => { x with regs := rgSet f [(7, n)] }) (bumpG .gtuLookups (n - rg f 7) s)
  match resolveRow f g k with
  | .need l => opTodo f l s
  | .poison =>
    if op = 1 then gatherPos f g k (some ([], true)) false s
    else gtuNext f g [(2, k + 1), (3, 1), (4, if op = 3 then rg f 4 else k + 1)] [] s
  | .null => if op = 1 then gatherPos f g k none true s else gtuSkip f g s
  | .oob =>
    let s := bumpG .gtuOob 1 s
    if fw f.word 0x34 17 1 = 0 then endOp f.part f.slot .unsupported 0x80 s
    else if op = 1 then gatherPos f g k none true s else gtuSkip f g s
  | .row x =>
    if areaForeign s (g.tbl + x * g.stride) g.tableRow then
      if fw f.word 0x34 18 1 = 0 then endOp f.part f.slot .noAccess 0x06 s else gtuSkip f g s
    else
      let r := if op = 1 then gtuRead f (g.tbl + x * g.stride) g.tableRow g.tblKey
        else gtuRead f (g.dense + k * g.denseRow) g.denseRow g.denseKey
      match r with
      | .error l => opTodo f l s
      | .ok row =>
        if op = 1 then gatherPos f g k (some row) false s
        else if op = 2 then scatterPos f g k x row s
        else addPos f g k x row s

/-! ## Write-back of SCATTER_ADD (R287) -/

/-- Address and length of the piece in hand. -/
def curPiece (f : Flit) (g : GDesc) : Option (Nat × Nat) :=
  (f.regs.drop 8)[rg f 6]?.bind fun x => (pagePieces (g.tableRow / 4096 + 2) (g.tbl + x * g.stride) g.tableRow)[rg f 7]?

/-- Lines of a piece. -/
def pieceLines (a n : Nat) : List Nat := (List.range ((a + n - 1) / 64 - a / 64 + 1)).map (a / 64 + ·)

/-- Line-lock entries the pieces hold. -/
def pieceLocks (s : State) : Nat := (s.mem.locks.filter fun l => match l.2 with
  | .piece _ _ => true
  | .req _ => false).length

/-- Locks taken in ascending order until one cannot be (R287). -/
def takePieceLocks (part slot : Nat) : List Nat → State → State
  | [], s => s
  | l :: t, s =>
    if aget s.mem.locks l = some (.piece part slot) then takePieceLocks part slot t s
    else if (aget s.mem.locks l).isNone && decide (pieceLocks s < 8192) && decide (s.mem.locks.length < 16384) then
      let ls := aset s.mem.locks l (.piece part slot)
      takePieceLocks part slot t { s with mem := { s.mem with locks := ls, lockPeak := max s.mem.lockPeak ls.length } }
    else s

/-- The piece's locks are released. -/
def freePieceLocks (part slot : Nat) (s : State) : State :=
  { s with mem := { s.mem with locks := s.mem.locks.filter fun l => l.2 ≠ .piece part slot } }

/-- A multi-piece row whose blocks or elements cross pieces is read once whole before its first piece is added. -/
def needSnap (f : Flit) (g : GDesc) : Bool :=
  decide (1 < (pagePieces (g.tableRow / 4096 + 2) (g.tbl + (f.regs.drop 8).getD (rg f 6) 0 * g.stride) g.tableRow).length)

/-- Locks held: the piece is read, added to, and written (R287 to R289). -/
def addPiece (f : Flit) (g : GDesc) (a n : Nat) (s : State) : State :=
  let d := rg f 6
  let row := g.tbl + (f.regs.drop 8).getD d 0 * g.stride
  let snapKey := 2 ^ 61
  let snap := f.cache.find? fun c => c.1 = snapKey
  let go (old : Bytes) (pois : Bool) (s : State) : State :=
    let cs := f.cache.filter fun c => c.1 = 2 ^ 60 + d
    let p := pois || cs.any (·.2.2)
    let new := if p then zeros g.tableRow else gtuAdd f (d * g.elems) old (cs.map (·.2.1))
    setFlit f.part f.slot (fun x => { x with
      regs := rgSet f [(3, max (rg f 3) (b2n p)), (5, 3)]
      cache := f.cache.filter fun c => decide (c.1 ≥ 2 ^ 60) || decide (fAddr f.word 0x18 ≤ c.1 ∧ c.1 < fAddr f.word 0x18 + 176)
      todo := engWrites a (slice new (a - row) n) g.tblKey { needEW with r := true, a := true } p }) s
  let rd (a n : Nat) : List EngAcc := (engReads a n g.tblKey { e := true, r := true, w := true, a := true })
  match cacheAll f (rd a n) with
  | none => opTodo f (cacheMiss f (rd a n)) s
  | some x =>
    if needSnap f g && snap.isNone then
      match cacheAll f (rd row g.tableRow) with
      | none => opTodo f (cacheMiss f (rd row g.tableRow)) s
      | some y => setFlit f.part f.slot (fun z => { z with cache := z.cache ++ [(snapKey, y)] }) s
    else match snap with
      | some (_, b, q) => go (overlay b (a - row) x.1) (x.2 || q) s
      | none => go x.1 x.2 s

/-- The piece's write has been accepted: its locks are released, and the next piece or destination follows. -/
def pieceDone (f : Flit) (g : GDesc) (s : State) : State :=
  let s := freePieceLocks f.part f.slot s
  let last := (pagePieces (g.tableRow / 4096 + 2) (g.tbl + (f.regs.drop 8).getD (rg f 6) 0 * g.stride) g.tableRow).length ≤ rg f 7 + 1
  let s := if last then bumpG .gtuRows 1 s else s
  setFlit f.part f.slot (fun x => { x with
    regs := if last then rgSet f [(0, rg f 0 + 1), (4, 0), (5, 1), (6, rg f 6 + 1), (7, 0)] else rgSet f [(4, 0), (5, 1), (7, rg f 7 + 1)]
    cache := if last then f.cache.filter fun c => c.1 ≠ 2 ^ 61 else f.cache }) s

/-- The end of a GTU flit whose positions have all finished. -/
def gtuEnd (f : Flit) (lo : Nat) (s : State) : State :=
  if rg f 3 = 1 then opEnd f .poison 0x0B lo (rg f 1) s else opEnd f .ok 0 lo (rg f 1) s

/-- One transition once the descriptor is known. -/
def gtuRun (f : Flit) (g : GDesc) (s : State) : State :=
  let op := fOp f.word
  if op = 3 then
    if rg f 5 = 0 then
      if rg f 2 ≥ g.n then setFlit f.part f.slot (fun x => { x with regs := rgSet f [(5, 1)] }) s else gtuPos f g s
    else match curPiece f g with
      | none => gtuEnd f (rg f 0) s
      | some (a, n) => if rg f 5 = 2 then addPiece f g a n s else if rg f 5 = 3 then pieceDone f g s else s
  else if rg f 0 ≠ rg f 4 then setFlit f.part f.slot (fun x => { x with regs := rgSet f [(0, rg f 4), (6, 0)] }) (bumpG .gtuRows (rg f 6) s)
  else if rg f 2 ≥ g.n then gtuEnd f g.n s
  else gtuPos f g s

/-- Scratch of a SCATTER_ADD (Table 9.6). -/
def addGranules (f : Flit) (elems : Nat) : Nat := 1 + ceilDiv (fw f.word 0x34 0 17 * (elems * 40 + 16)) 65536

/-- One transition of a GTU flit whose descriptor block has passed its checks; the scratch of a SCATTER_ADD is what its block asked for, or as much more as
the block asks for when it has changed since (assumption 41). -/
def gtuGo (f : Flit) (g : GDesc) (s : State) : State :=
  if fOp f.word = 3 ∧ f.granules < addGranules f g.elems then
    let n := addGranules f g.elems - f.granules
    if granOk s f.part n then gtuRun f g (setFlit f.part f.slot (fun x => { x with granules := x.granules + n }) (granTake n s))
    else endOp f.part f.slot .engineBusy 0 s
  else gtuRun f g s

/-- One transition of a GTU flit: what R281 and R280 ask is checked once, before any list, table or dense row is read. -/
def stepGtu (f : Flit) (s : State) : State :=
  let d0 := fAddr f.word 0x18
  let key := fKey f.word 0x20
  if !gtuFlitOk f || (!f.chk && !withinRange s d0 64) then endOp f.part f.slot .unsupported 0x03 s
  else if !f.chk && areaForeign s d0 64 then endOp f.part f.slot .noAccess 0x06 s
  else opRead f (engReads d0 64 key needER) (fun x s =>
    let chain := fieldAt x.1 0 4 % 8
    let dlen := 64 + 16 * chain
    if x.2 then endOp f.part f.slot .poison 0x0B s
    else if !f.chk && !withinRange s d0 dlen then endOp f.part f.slot .unsupported 0x03 s
    else if !f.chk && areaForeign s d0 dlen then endOp f.part f.slot .noAccess 0x06 s
    else opRead f (if chain = 0 then [] else engReads (d0 + 64) (16 * chain) key needER) (fun y s =>
      if y.2 then endOp f.part f.slot .poison 0x0B s
      else match gtuDesc f (x.1 ++ y.1) with
        | none => endOp f.part f.slot .unsupported 0x03 s
        | some g =>
          if f.chk then gtuGo f g s
          else if !gtuDescOk s f g dlen then endOp f.part f.slot .unsupported 0x03 s
          else if areaForeign s g.dense (g.n * g.denseRow) || g.lists.any (fun l => areaForeign s l.base (l.count * l.w)) then
            endOp f.part f.slot .noAccess 0x06 s
          else gtuGo f g (setFlit f.part f.slot (fun x => { x with chk := true }) s)) s) s

/-! ## Acceptance of a SCATTER_ADD (R217, R221, R291) -/

/-- The elements of a row, once the descriptor block is in hand; `none` when it can never make a row, so that the flit ends on its checks. -/
def provElems (f : Flit) : Option Nat :=
  match cacheAll f (engReads (fAddr f.word 0x18) 64 (fKey f.word 0x20) needER) with
  | some (b, false) =>
    let rb := fieldAt b 4 4 % 2 ^ 17
    if rb ≤ 65536 then gtuElems (gtuSpec f) rb else none
  | _ => none

/-- The flit is accepted and answered OK. -/
def provTake (f : Flit) (n : Nat) (s : State) : State :=
  releaseAnswer f (setFlit f.part f.slot (fun x => { x with
    prov := false, granules := x.granules + n
    cache := if x.waiting then [] else x.cache, failed := if x.waiting then none else x.failed }) (granTake n s))

/-- Its scratch is not free: the flit is refused ENGINE_BUSY at A6 and leaves nothing behind. -/
def provRefuse (f : Flit) (s : State) : State :=
  let s := refuseFlit f.part f.slot f.word .engineBusy .opfBusy s
  let s := granFree f.granules { s with eng := { s.eng with flits := delFirst (fun x => x.part = f.part ∧ x.slot = f.slot) s.eng.flits } }
  match f.answer with
  | some id => finishRetire id .engineBusy 0 [] s
  | none => s

/-- The acceptance of a SCATTER_ADD goes on: its descriptor block is read for the size of its rows, which with acc_rows gives the scratch it needs. When no
such read can be made, or it fails, the flit is accepted with its one granule and ends on that. -/
def provStep (f : Flit) (s : State) : State :=
  let d0 := fAddr f.word 0x18
  let rs := engReads d0 64 (fKey f.word 0x20) needER
  if f.fin.isSome ∨ f.failed.isSome then provTake f 0 s
  else if f.todo ≠ [] ∨ f.out ≠ [] then s
  else if !gtuFlitOk f || !withinRange s d0 64 || areaForeign s d0 64 then provTake f 0 s
  else if cacheMiss f rs ≠ [] then opTodo f (cacheMiss f rs) s
  else match provElems f with
    | none => provTake f 0 s
    | some e =>
      let n := addGranules f e - f.granules
      if granOk s f.part n then provTake f n s else provRefuse f s

/-- SCATTER_ADD_PIECE (R287): the piece in hand takes its line locks in ascending order; once it holds them all it goes on. -/
def stepPiece (f : Flit) (s : State) : State :=
  if fOp f.word = 3 ∧ rg f 5 = 1 then
    match cacheAll f (engReads (fAddr f.word 0x18) 64 (fKey f.word 0x20) needER) with
    | some x =>
      let chain := fieldAt x.1 0 4 % 8
      let rest := if chain = 0 then [] else engReads (fAddr f.word 0x18 + 64) (16 * chain) (fKey f.word 0x20) needER
      match cacheAll f rest with
      | some y => match gtuDesc f (x.1 ++ y.1) with
        | some g => match curPiece f g with
          | some (a, n) =>
            let ls := pieceLines a n
            let s := takePieceLocks f.part f.slot ls s
            if ls.all fun l => decide (aget s.mem.locks l = some (.piece f.part f.slot)) then
              setFlit f.part f.slot (fun x => { x with regs := rgSet f [(5, 2)] }) s
            else if rg f 4 = 0 then setFlit f.part f.slot (fun x => { x with regs := rgSet x [(4, 1)] }) (bumpG .gtuLockWait 1 s)
            else s
          | none => s
        | none => s
      | none => s
    | none => s
  else s

end Sys2Proof.Machine
end

