-- ==== Sys2Proof/Machine/Scan.lean ====
section
/-! DEFINITION. The filter units (chapter 10): collections, the side list, SCAN with its predicate and lists, COMPACT and COLL_REBASE with
their flip, COLL_DROP and COLL_ACK. -/

namespace Sys2Proof.Machine

/-! ## Collections (R295, R296, R308) -/

/-- Collection index of a flit. -/
def collIdx (f : Flit) : Nat := fw f.word 0x18 0 8

/-- Bytes of a code, of the attributes, of a main-array item, items per page, bytes of a side-list entry. -/
def Coll.codeLen (c : Coll) : Nat := 8 * (c.wc + 1)
def Coll.attrLen (c : Coll) : Nat := 8 * c.a8
def Coll.itemLen (c : Coll) : Nat := 8 + c.codeLen + c.attrLen
def Coll.perPage (c : Coll) : Nat := 4096 / c.itemLen
def Coll.entryLen (c : Coll) : Nat := 16 + c.codeLen + c.attrLen

/-- Side-list capacity in entries (R301). -/
def sideCapacity (mib entry : Nat) : Nat := min (2 ^ 24) (mib * 2 ^ 20 / (entry + 16))

/-- The index is assigned to the flit's partition (R295). -/
def collMine (s : State) (f : Flit) : Bool := (aget s.img.colls (collIdx f)).any fun r => r.part == f.part

/-- `s` with a collection changed. -/
def setColl (i : Nat) (g : Coll → Coll) (s : State) : State :=
  match collAt s i with
  | some c => { s with eng := { s.eng with colls := aset s.eng.colls i (g c) } }
  | none => s

/-- The collection a flit acts on: a flit accepted after its COLL_DROP finds none (R302); `runs` tells ops that finish from those that end. -/
def flitColl (s : State) (f : Flit) (runs : Bool) : Except (Status × Nat) Coll :=
  if !collMine s f then .error (.noAccess, 0x81)
  else match collAt s (collIdx f) with
    | none => .error (.unsupported, 0x80)
    | some c => match c.dropped with
      | none => .ok c
      | some (_, ord) => if runs ∧ f.order < ord then .ok c else .error (.unsupported, 0x80)

/-- Run an op on its collection. -/
def withColl (f : Flit) (runs : Bool) (go : Coll → State → State) (s : State) : State :=
  match flitColl s f runs with
  | .error (st, d) => endOp f.part f.slot st d s
  | .ok c => go c s

/-- End a flit that was accepted in order `ord` in a slot. -/
def endOrd (part slot ord : Nat) (e : FlitEnd) (s : State) : State :=
  match flitAt s part slot with
  | some f => if f.order = ord then endFlit part slot e s else s
  | none => s

/-! ## COLL_DEFINE, COLL_DROP, COLL_ACK -/

/-- R301's checks of a main array: range and rights, pages served, size. -/
def mainCheck (s : State) (part main : Nat) (key : Word32) (pages perPage : Nat) : Option (Status × Nat) :=
  match findRange s main (pages * 4096) with
  | none => some (.noAccess, 0x04)
  | some (_, e) =>
    if !(e.owner = part || e.shared) then some (.noAccess, 0x04)
    else if key ≠ e.key ∨ e.key = 0 then some (.badKey, 0x04)
    else if !rightsCover needER (rightsFor e part) then some (.noAccess, 0x04)
    else
      let m := servedMask s
      let hit (pl : Nat) : Bool := (stripeSpan e (planes s) pl main (pages * 4096)).isSome
      if !((bitAt m 0 && hit (ownPlane s)) || (bitAt m 1 && hit (twinPlane s))) then some (.noAccess, 0x06)
      else if pages * perPage > 2 ^ 34 then some (.unsupported, 0x03)
      else none

/-- The bytes of a collection's filter handle have changed: which bits the filter sets is not stated (R312). -/
def filterWrite (part h : Nat) (s : State) : State := setHandle part h (handleJunk s.freeIx) { s with freeIx := s.freeIx + 1 }

/-- COLL_DEFINE (R301). -/
def stepCollDefine (f : Flit) (s : State) : State :=
  let i := collIdx f
  let h := fw f.word 0x18 16 16
  let n := fw f.word 0x28 0 32
  let c : Coll := {
    part := f.part, wc := fw f.word 0x18 8 4, a8 := fw f.word 0x18 12 4, filter := h, main := fAddr f.word 0x1C, mainKey := fKey f.word 0x24,
    nPages := n, capacity := 0 }
  let cap := sideCapacity ((aget s.img.colls i).elim 0 (·.sideMib)) c.entryLen
  let fail (st : Status) (d : Nat) : State := endOp f.part f.slot st d s
  if !collMine s f then fail .noAccess 0x81
  else match collAt s i with
    | some x => if x.state = 2 then fail .unsupported 0x80 else fail .unsupported 0x82
    | none =>
      if c.a8 > 8 ∨ c.main % 4096 ≠ 0 ∨ n = 0 then fail .unsupported 0x03
      else match mainCheck s f.part c.main c.mainKey n c.perPage with
        | some e => fail e.1 e.2
        | none => match handleAt s f.part h with
          | none => fail .unsupported 0x86
          | some x =>
            if x.poisoned then fail .poison 0x0B
            else if handleBound x ∨ handleSize x < 4 * cap then fail .unsupported 0x86
            else opEnd f .ok 0 cap 0 (setHandle f.part h (fun x => { x with boundColl := some i }) (filterWrite f.part h
              { s with eng := { s.eng with colls := aset s.eng.colls i { c with capacity := cap } } }))

/-- COLL_DROP (R302): it has taken effect at acceptance; here a drop of a collection that is not there, or is another's, ends. -/
def stepCollDrop (f : Flit) (s : State) : State :=
  if !collMine s f then endOp f.part f.slot .noAccess 0x81 s
  else match collAt s (collIdx f) with
    | none => endOp f.part f.slot .unsupported 0x80 s
    | some c => if c.dropped = some (f.slot, f.order) then s else endOp f.part f.slot .unsupported 0x80 s

/-- Flits that still run on a dropped collection: those accepted before the drop. -/
def collBusy (s : State) (i : Nat) (c : Coll) (ord : Nat) : Bool :=
  s.eng.flits.any fun f => f.part == c.part && fEngine f.word == 4 && decide (fOp f.word ≠ 2) && collIdx f == i && decide (f.order < ord)

/-- The DROP flit has not started: it waits under fence_before. -/
def dropWaits (s : State) (part slot ord : Nat) : Bool := match flitAt s part slot with
  | some f => f.order == ord && (f.waiting || !f.begun)
  | none => false

/-- COLL_DROP_DONE (R302): the side list goes, the filter handle becomes ordinary scratch, whose bytes are not stated, and the DROP record
follows. -/
def collDropDone (i : Nat) (s : State) : State :=
  match collAt s i with
  | none => s
  | some c => match c.dropped with
    | none => s
    | some (slot, ord) =>
      if collBusy s i c ord || dropWaits s c.part slot ord then s
      else
        let s := setHandle c.part c.filter (fun h => { h with boundColl := none }) (filterWrite c.part c.filter s)
        endOrd c.part slot ord { status := .ok } { s with eng := { s.eng with colls := adel s.eng.colls i } }

/-- COLL_ACK (R321). -/
def stepCollAck (f : Flit) (s : State) : State :=
  withColl f false (fun _ s => opEnd f .ok 0 0 0 (setColl (collIdx f) (fun c => { c with lostSide := false }) s)) s

/-! ## APPEND (R308 to R310) -/

/-- A source record as an entry, unless it is not valid (R309). -/
def sideRecord (c : Coll) (b : Bytes) : Option SideEnt :=
  let kind := fieldAt b 6 1
  let id := fieldAt b 8 8
  if fieldAt b 0 4 ≠ 0 ∨ fieldAt b 4 2 ≠ 0 ∨ fieldAt b 7 1 ≠ 0 ∨ (kind ≠ 1 ∧ kind ≠ 2) ∨ id = 2 ^ 64 - 1 then none
  else some { seq := 0, del := kind == 2, id := BitVec.ofNat 64 id, code := slice b 16 c.codeLen, attr := slice b (16 + c.codeLen) c.attrLen }

/-- APPEND: all of its records, or none, join the side list with the next sequence numbers, and are published together. -/
def stepAppend (f : Flit) (s : State) : State :=
  withColl f true (fun c s =>
    let n := fw f.word 0x28 0 13
    let src := fAddr f.word 0x1C
    if n = 0 ∨ n > 4096 ∨ src % 16 ≠ 0 then endOp f.part f.slot .unsupported 0x03 s
    else if areaForeign s src (n * c.entryLen) then endOp f.part f.slot .noAccess 0x06 s
    else opRead f (engReads src (n * c.entryLen) (fKey f.word 0x24) needER) (fun x s =>
      if x.2 then endOp f.part f.slot .poison 0x0B s
      else
        let rs := (List.range n).map fun i => sideRecord c (slice x.1 (i * c.entryLen) c.entryLen)
        if rs.any (·.isNone) then endOp f.part f.slot .unsupported 0x03 s
        else if c.side.length + n > c.capacity then endOp f.part f.slot .engineBusy 0x83 s
        else
          let es := (rs.filterMap id).mapIdx fun i e => { e with seq := c.reserved + 1 + i }
          let last := c.reserved + n
          opEnd f .ok 0 (last % 2 ^ 32) (last / 2 ^ 32 % 65536)
            (filterWrite c.part c.filter (setColl (collIdx f) (fun c => { c with side := c.side ++ es, reserved := last, published := last }) s))) s) s

/-! ## Queries and predicates (R303 to R305) -/

/-- A predicate term (Table 10.5). -/
structure Term where
  op : Nat
  neg : Bool
  orBefore : Bool
  width : Nat
  type : Nat
  offset : Nat
  handle : Nat
  a : Nat
  b : Nat
  deriving DecidableEq, Repr

/-- Term `t` of a query block. -/
def termOf (q : Bytes) (t : Nat) : Term :=
  let w := fieldAt q (0x20 + 32 * t) 4
  let wd := 2 ^ bits w 6 2
  { op := bits w 0 4, neg := bitAt w 4, orBefore := bitAt w 5, width := wd, type := bits w 8 2, offset := bits w 16 6,
    handle := fieldAt q (0x24 + 32 * t) 2, a := fieldAt q (0x28 + 32 * t) wd, b := fieldAt q (0x30 + 32 * t) wd }

/-- Terms of a query block. -/
def termsOf (q : Bytes) : List Term := (List.range (bits (fieldAt q 0 4) 0 4)).map (termOf q)

/-- The term is valid (R304); type 3 is a reserved encoding. -/
def termOk (s : State) (part : Nat) (c : Coll) (t : Term) : Bool :=
  decide (t.offset + t.width ≤ c.attrLen) && !(t.type == 2 && t.width != 4) && !(decide (4 ≤ t.op) && t.type != 0)
    && !(t.op == 6 && t.width == 8) && decide (t.op ≤ 6) && t.type != 3 && (t.op != 6 || (handleAt s part t.handle).isSome)

/-- a < b of a type, equality of a type, and whether an operand is a number. -/
def tyLt (type w a b : Nat) : Bool :=
  if type = 1 then decide (signed (8 * w) a < signed (8 * w) b)
  else if type = 2 then (fp32.decode a).lt (fp32.decode b) && !(fp32.decode a).eqv (fp32.decode b) else decide (a < b)
def tyEq (type a b : Nat) : Bool := if type = 2 then (fp32.decode a).eqv (fp32.decode b) else a == b
def tyNum (type a : Nat) : Bool := type != 2 || !(fp32.decode a).isNan

/-- The truth of a term's op for the value `v` (Table 10.6). -/
def termTrue (s : State) (part : Nat) (t : Term) (v : Nat) : Bool :=
  let lt := tyLt t.type t.width
  let le (x y : Nat) : Bool := lt x y || tyEq t.type x y
  let num := tyNum t.type v && tyNum t.type t.a
  match t.op with
  | 0 => num && tyEq t.type v t.a
  | 1 => num && lt v t.a
  | 2 => num && le v t.a
  | 3 => num && tyNum t.type t.b && le t.a v && le v t.b
  | 4 => decide (v &&& t.a ≠ 0)
  | 5 => decide (v &&& t.a = t.a)
  | 6 => (match handleAt s part t.handle with
    | some h => decide (v < 8 * handleSize h) && bitAt (handleByte h (v / 8)).toNat (v % 8)
    | none => false)
  | _ => false

/-- The groups of terms: a new one starts at each or_before (R305). -/
def passGroups (val : Term → Bool) : Bool → List Term → Bool
  | acc, [] => acc
  | acc, t :: ts => if t.orBefore then acc || passGroups val (val t) ts else passGroups val (acc && val t) ts

/-- The item passes the predicate (R305). -/
def passes (s : State) (part : Nat) (ts : List Term) (attr : Bytes) : Bool :=
  let val (t : Term) : Bool := termTrue s part t (fieldAt attr t.offset t.width) != t.neg
  match ts with
  | [] => true
  | t :: ts => passGroups val (val t) ts

/-! ## Items, visibility, lists (R297, R306, R311) -/

/-- An item: id, code, attributes. -/
structure Item where
  id : Nat
  code : Bytes
  attr : Bytes
  deriving DecidableEq, Repr

/-- Items of a page that are no empty slots; `bad` tells the lines that read POISON, whose items are left out (R307). -/
def pageItems (c : Coll) (page : Bytes) (bad : List Bool) : List Item :=
  ((List.range c.perPage).filter fun t =>
    let o := t * c.itemLen
    !((bad.drop (o / 64)).take ((o + c.itemLen - 1) / 64 - o / 64 + 1)).any id && decide (fieldAt page o 8 ≠ 2 ^ 64 - 1)).map fun t =>
      let o := t * c.itemLen
      { id := fieldAt page o 8, code := slice page (o + 8) c.codeLen, attr := slice page (o + 8 + c.codeLen) c.attrLen }

/-- Entries seen: cut < seq ≤ W (R311). -/
def seenEnts (c : Coll) (cut w : Nat) : List SideEnt := c.side.filter fun e => decide (cut < e.seq ∧ e.seq ≤ w)

/-- Main items visible beside the seen entries. -/
def visibleMain (seen : List SideEnt) (l : List Item) : List Item := l.filter fun x => !seen.any fun e => decide (e.id.toNat = x.id)

/-- Seen INSERTs that are visible, in ascending sequence order. -/
def visibleEnts (seen : List SideEnt) : List SideEnt :=
  (sortBy (·.seq) seen).filter fun e => !e.del && !seen.any fun x => decide (x.id = e.id ∧ e.seq < x.seq)

/-- An entry as an item. -/
def SideEnt.item (e : SideEnt) : Item := { id := e.id.toNat, code := e.code, attr := e.attr }

/-- They as items. -/
def visibleSide (seen : List SideEnt) : List Item := (visibleEnts seen).map SideEnt.item

/-- Hamming distance over the code (R306). -/
def hamming (a b : Bytes) : Nat := popTree 10 (leNat a ^^^ leNat b)

/-- Candidates of query code `q` join its list. -/
def listAdd (k maxDist : Nat) (q : Bytes) (items : List Item) (l : List TopEnt) : List TopEnt :=
  items.foldl (fun l x =>
    let d := hamming q x.code
    if d ≤ maxDist then (topInsert false ⟨d, x.id⟩ l).take k else l) l

/-- How many items are candidates of `q`. -/
def candCount (maxDist : Nat) (q : Bytes) (items : List Item) : Nat := (items.filter fun x => decide (hamming q x.code ≤ maxDist)).length

/-! ## SCAN (R298, R306, R307, R311)

`regs`: 0 and 1 the result words, 2 the phase (0 pages, 1 side list, 2 lists written), 3 the watermark, 4 the generation, 5 the cut, 6 to 8 the
main array, its key and pages, 9 the stripes served at acceptance, 10 the page position, 11 poison met, 12 ids seen that have no entry, 13 how many of
them passed the filter. The lists are kept under the
cache addresses 2^60 + q. -/

/-- Fields of a SCAN body. -/
def scanK (f : Flit) : Nat := fw f.word 0x1C 0 11
def scanMax (f : Flit) : Nat := fw f.word 0x1C 16 11
def scanQ (f : Flit) : Nat := fw f.word 0x24 20 8 + 1
def scanQry (f : Flit) : Nat := fAddr f.word 0x20
def scanRes (f : Flit) : Nat := fAddr f.word 0x2C

/-- A page of a served stripe; one in no range is left to its access's check. -/
def pageServed (s : State) (mask a : Nat) : Bool :=
  match findRange s a 4096 with
  | none => true
  | some (_, e) =>
    let pl := servingPlane s e a
    (bitAt mask 0 && pl == ownPlane s) || (bitAt mask 1 && pl == twinPlane s)

/-- The next page at or after position `j` that is read. -/
def nextPage (s : State) (mask main n j : Nat) : Option Nat := ((List.range (n - j)).map (j + ·)).find? fun i => pageServed s mask (main + i * 4096)

/-- The query codes. -/
def scanCodes (f : Flit) (c : Coll) (q : Bytes) : List Bytes := (List.range (scanQ f)).map fun i => slice q (0x120 + i * c.codeLen) c.codeLen

/-- The lists so far. -/
def scanLists (f : Flit) : List (List TopEnt) :=
  (List.range (scanQ f)).map fun q => match f.cache.find? fun e => e.1 = 2 ^ 60 + q with
    | some e => topOf e.2.1
    | none => []

/-- A free count between two bounds: what the counters of R312 and R318 depend on is not stated. -/
def freeCount (lo hi : Nat) (s : State) : Nat × State :=
  let x := takeFree s
  (lo + x.1 % (hi - lo + 1), x.2)

/-- Items compared: `raw` items, `pr` those the predicate is evaluated on, `vis` those visible; `next` are the registers to set. Every id that has an entry passes the presence
filter, and of the others at most 0.5 % of those the SCAN meets (R312); an entry up to the cut it works with is in neither half. Every candidate that stays in a list has been inserted, and no other item (R318): within these bounds
the counts are free (assumption 61). -/
def scanTake (f : Flit) (c : Coll) (q : Bytes) (raw pr vis : List Item) (next : List (Nat × Nat)) (s : State) : State :=
  let ts := termsOf q
  let ok := vis.filter fun x => passes s f.part ts x.attr
  let codes := scanCodes f c q
  let ls := (scanLists f).zipWith (fun l qc => listAdd (scanK f) (scanMax f) qc ok l) codes
  let cand := sumOf (codes.map fun qc => candCount (scanMax f) qc ok)
  let hit := (raw.filter fun x => c.side.any fun e => decide (e.id.toNat = x.id ∧ rg f 5 < e.seq)).length
  let others := rg f 12 + (raw.length - hit)
  let n := freeCount hit (hit + (others * 5 / 1000 - rg f 13)) s
  let new := sumOf (((scanLists f).zip ls).map fun l => (l.2.filter fun e => decide (e ∉ l.1)).length)
  let m := freeCount new cand n.2
  let s := bumpG .fluTopkIns m.1 (bumpG .fluFilterHit n.1 (bumpG .fluPredPass (pr.filter fun x => passes s f.part ts x.attr).length
    (bumpG .fluItems raw.length m.2)))
  setFlit f.part f.slot (fun x => { x with
    regs := rgSet x ([(12, others), (13, rg x 13 + (n.1 - hit))] ++ next)
    cache := (x.cache.filter fun e => decide (scanQry f ≤ e.1 ∧ e.1 < scanQry f + 0x120 + scanQ f * c.codeLen))
      ++ ls.mapIdx fun i l => (2 ^ 60 + i, packTop l, false) }) s

/-- The page at position `j`: it is read whole, and by lines when a line of it is POISON. -/
def scanPage (f : Flit) (c : Coll) (q : Bytes) (j : Nat) (s : State) : State :=
  let a := rg f 6 + j * 4096
  let key := BitVec.ofNat 32 (rg f 7)
  let seen := seenEnts c (rg f 5) (rg f 3)
  opRead f [{ addr := a, key := key, len := 4096, need := needER }] (fun x s =>
    if !x.2 then
      let raw := pageItems c x.1 []
      scanTake f c q raw raw (visibleMain seen raw) [(10, j + 1)] s
    else
      let ls : List EngAcc := (List.range 64).map fun i => { addr := a + 64 * i, key := key, len := 64, need := needER }
      match cacheAll f ls with
      | none => opTodo f (cacheMiss f ls) s
      | some y =>
        let raw := pageItems c y.1 (ls.map fun l => (cacheAt f l).any (·.2))
        scanTake f c q raw raw (visibleMain seen raw) [(10, j + 1), (11, 1)] s) s

/-- A free bit for each element of a list. -/
def freeBits : Nat → State → List Bool × State
  | 0, s => ([], s)
  | n + 1, s =>
    let b := freeBit s
    let r := freeBits n b.2
    (b.1 :: r.1, r.2)

/-- Which seen entries lie on side-list lines that read POISON (R307): mostly none. No row tells it, so each is a free bit (assumption 61). -/
def sidePoison (n : Nat) (s : State) : List Bool × State :=
  let b := freeBit s
  if b.1 then freeBits n b.2 else (List.replicate n false, b.2)

/-- The side list, after the pages: an INSERT on a poisoned line is left out; what its id hides is in the id index. -/
def scanSide (f : Flit) (c : Coll) (q : Bytes) (s : State) : State :=
  let seen := seenEnts c (rg f 5) (rg f 3)
  let (bad, s) := sidePoison seen.length s
  let lost := (seen.zip bad).filterMap fun x => if x.2 then some x.1.seq else none
  let keep (l : List SideEnt) : List Item := (l.filter fun e => decide (e.seq ∉ lost)).map SideEnt.item
  scanTake f c q (keep seen) (keep (seen.filter fun e => !e.del)) (keep (visibleEnts seen))
    ([(2, 1)] ++ if lost = [] then [] else [(11, 1)]) s

/-- The result area in bytes. -/
def scanOut (f : Flit) : Bytes := ((scanLists f).map fun l => packTop (l ++ List.replicate (scanK f - l.length) .empty)).flatten

/-- The lists are written, once every write of them has passed its check, so that another end writes none (R307); one that fails after others have been
accepted still ends the flit, for what a tray has accepted cannot be taken back (assumption 8). -/
def scanWrite (f : Flit) (s : State) : State :=
  let ws := engWrites (scanRes f) (scanOut f) (fKey f.word 0x34) needEW
  match ws.findSome? fun a => match checkEng s f.part a.addr a.len a.key (rightsCover a.need) with
    | .error e => some e
    | .ok _ => none with
  | some e => endOp f.part f.slot e.1 (if e.2 then 0x06 else 0x05) s
  | none => opOut f (rgSet f [(2, 2)]) ws s

/-- Names of the bitmaps a query block uses. -/
def scanNames (q : Bytes) : List Nat := ((termsOf q).filter fun t => t.op == 6).map (·.handle)

/-- SCAN. -/
def stepScan (f : Flit) (s : State) : State :=
  withColl f true (fun c s =>
    let qlen := 0x120 + scanQ f * c.codeLen
    if f.regs.length < 14 then endOp f.part f.slot .unsupported 0x80 s
    else if rg f 2 = 2 then
      if c.lostSide then opEnd f .poison 0x88 (rg f 0) (rg f 1) s
      else if rg f 11 = 1 then opEnd f .poison 0x0B (rg f 0) (rg f 1) s
      else opEnd f .ok 0 (rg f 0) (rg f 1) s
    else if scanK f = 0 ∨ scanK f > 1024 ∨ scanQry f % 32 ≠ 0 ∨ scanRes f % 16 ≠ 0 ∨ scanQ f * (64 * (c.wc + 1)) > 16384 then
      endOp f.part f.slot .unsupported 0x03 s
    else if !f.chk && (areaForeign s (scanQry f) qlen || areaForeign s (scanRes f) (scanQ f * scanK f * 16)) then endOp f.part f.slot .noAccess 0x06 s
    else opRead f (engReads (scanQry f) qlen (fKey f.word 0x28) needER) (fun x s =>
      if x.2 then endOp f.part f.slot .poison 0x0B s
      else if (scanNames x.1).any fun h => (handleAt s f.part h).any (·.poisoned) then endOp f.part f.slot .poison 0x0B s
      else if bits (fieldAt x.1 0 4) 0 4 > 8 ∨ !(termsOf x.1).all (termOk s f.part c) then endOp f.part f.slot .unsupported 0x87 s
      else
        let s := setFlit f.part f.slot (fun y => { y with names := scanNames x.1, chk := true }) s
        if rg f 2 = 1 then scanWrite f s
        else match nextPage s (rg f 9) (rg f 6) (rg f 8) (rg f 10) with
          | some j => scanPage f c x.1 j s
          | none => scanSide f c x.1 s) s) s

/-! ## COMPACT and COLL_REBASE (R314 to R317)

`regs` of COMPACT: 0 and 1 the result words, 2 the phase (0 start, 1 reading, 2 writing, 3 ready to flip, 4 flipped), 3 the cut, 4 the page
position, 5 items, 6 items written. The items are kept under the cache address 2^60. COLL_REBASE uses register 2 the same way. -/

/-- Target of a COMPACT or COLL_REBASE. -/
def cmpTgt (f : Flit) : Nat := fAddr f.word 0x1C
def cmpKey (f : Flit) : Word32 := fKey f.word 0x24
def cmpPages (f : Flit) : Nat := fw f.word 0x28 0 32

/-- An item as the bytes of Table 10.1. -/
def packMain (x : Item) : Bytes := natLe 8 x.id ++ x.code ++ x.attr

/-- The bytes collected so far. -/
def cmpBuf (f : Flit) : Bytes := match f.cache.find? fun e => e.1 = 2 ^ 60 with
  | some e => e.2.1
  | none => []

/-- More items are collected. -/
def cmpTake (f : Flit) (items : List Item) (next : List (Nat × Nat)) (s : State) : State :=
  setFlit f.part f.slot (fun x => { x with
    regs := rgSet x (next ++ [(5, rg x 5 + items.length)]), cache := [(2 ^ 60, cmpBuf f ++ (items.map packMain).flatten, false)] }) s

/-- Pages of the target this plane serves. -/
def cmpServed (s : State) (f : Flit) : List Nat := (List.range (cmpPages f)).filter fun i => pageServed s (servedMask s) (cmpTgt f + i * 4096)

/-- One page of the target: items from `n` on, then empty slots; what the spec does not state of a page is free. -/
def cmpPage (f : Flit) (c : Coll) (n : Nat) (s : State) : Bytes :=
  (List.range c.perPage).foldl (fun p t =>
    if n + t < rg f 5 then overlay p (t * c.itemLen) (slice (cmpBuf f) ((n + t) * c.itemLen) c.itemLen)
    else overlay p (t * c.itemLen) (natLe 8 (2 ^ 64 - 1))) (freeBytes s 4096)

/-- The target lies in tier 2 (R300). -/
def tgtTier2 (s : State) (f : Flit) : Bool := match findRange s (cmpTgt f) 1 with
  | some (_, e) => e.tier == 0
  | none => true

/-- COMPACT up to the flip: the items visible at the cut are read, then written to the served target pages (R314). -/
def stepCompact (f : Flit) (s : State) : State :=
  withColl f false (fun c s =>
    let i := collIdx f
    let w (i : Nat) (d : Bytes) : List EngAcc := engWrites (cmpTgt f + i * 4096) d (cmpKey f) needEW
    if f.regs.length < 4 then endOp f.part f.slot .unsupported 0x80 s
    else match rg f 2 with
    | 0 =>
      if c.compacting.isSome then endOp f.part f.slot .engineBusy 0x84 s
      else if cmpTgt f % 4096 ≠ 0 ∨ overlaps (cmpTgt f) (cmpPages f * 4096) c.main (c.nPages * 4096) ∨ !tgtTier2 s f then
        endOp f.part f.slot .unsupported 0x03 s
      else setFlit f.part f.slot (fun x => { x with regs := rgSet x [(2, 1)] })
        (setColl i (fun c => { c with compacting := some (f.slot, f.order) }) s)
    | 1 =>
      let seen := seenEnts c c.cut (rg f 3)
      (match nextPage s (servedMask s) c.main c.nPages (rg f 4) with
       | some j => opRead f [{ addr := c.main + j * 4096, key := c.mainKey, len := 4096, need := needER }] (fun x s =>
           if x.2 then endOp f.part f.slot .poison 0x0B s
           else cmpTake f (visibleMain seen (pageItems c x.1 [])) [(4, j + 1)] s) s
       | none => cmpTake f (visibleSide seen) [(2, 2), (4, 0)] s)
    | 2 =>
      let ps := cmpServed s f
      if rg f 5 > ps.length * c.perPage then
        if rg f 7 = 0 then
          opKeep f (rgSet f [(7, 1)]) (ps.map fun j => w j (freeBytes s 4096)).flatten { s with freeIx := s.freeIx + 4096 }
        else endOp f.part f.slot .unsupported 0x85 s
      else (match ps[rg f 4]? with
        | some j => opKeep f (rgSet f [(4, rg f 4 + 1)]) (w j (cmpPage f c (rg f 4 * c.perPage) s)) { s with freeIx := s.freeIx + 4096 }
        | none => setFlit f.part f.slot (fun x => { x with regs := rgSet x [(2, 3)] }) s)
    | _ => s) s

/-- COLL_REBASE up to the flip: the checks of R301 on the new range (R317). -/
def stepCollRebase (f : Flit) (s : State) : State :=
  withColl f false (fun c s =>
    if rg f 2 ≠ 0 then s
    else if c.compacting.isSome then endOp f.part f.slot .engineBusy 0x84 s
    else if cmpTgt f % 4096 ≠ 0 ∨ cmpPages f = 0 then endOp f.part f.slot .unsupported 0x03 s
    else match mainCheck s f.part (cmpTgt f) (cmpKey f) (cmpPages f) c.perPage with
      | some e => endOp f.part f.slot e.1 e.2 s
      | none => setFlit f.part f.slot (fun x => { x with regs := rgSet x [(2, 3)] })
          (setColl (collIdx f) (fun c => { c with compacting := some (f.slot, f.order) }) s)) s

/-- The running COMPACT or COLL_REBASE of a collection. -/
def collRunner (s : State) (c : Coll) : Option Flit :=
  c.compacting.bind fun x => (flitAt s c.part x.1).bind fun f => if f.order = x.2 then some f else none

/-- SCANs accepted on a collection. -/
def collScans (s : State) (i : Nat) (c : Coll) : List Nat :=
  (s.eng.flits.filter fun f => f.part == c.part && fEngine f.word == 4 && fOp f.word == 4 && collIdx f == i).map (·.order)

/-- COMPACT_FLIP (R315, R317): main array, pages, generation and, for a COMPACT, the cut change in one step. -/
def compactFlip (i : Nat) (s : State) : State :=
  match collAt s i with
  | none => s
  | some c => match collRunner s c with
    | none => s
    | some f =>
      if rg f 2 = 3 ∧ f.fin.isNone ∧ f.failed.isNone ∧ f.todo = [] ∧ f.out = [] ∧ c.state = 1 then
        let cut := if fOp f.word = 5 then rg f 3 else c.cut
        let s := setColl i (fun c => { c with
          main := cmpTgt f, mainKey := cmpKey f, nPages := cmpPages f, gen := c.gen + 1, cut := cut, flipped := some (cut, collScans s i c) }) (filterWrite c.part c.filter s)
        setFlit f.part f.slot (fun x => { x with regs := rgSet x [(2, 4)] }) (bumpG .fluCompacts 1 s)
      else s

/-- COMPACT_RECORD (R316): the SCANs accepted before the flip have ended; entries up to the cut are freed, and the record follows. -/
def compactRecord (i : Nat) (s : State) : State :=
  match collAt s i with
  | none => s
  | some c => match c.flipped with
    | none => s
    | some (upto, scans) =>
      if s.eng.flits.any fun f => f.part == c.part && decide (f.order ∈ scans) then s
      else
        let n := (c.side.filter fun e => decide (e.seq ≤ upto)).length
        let s' := setColl i (fun c => { c with side := c.side.filter fun e => decide (upto < e.seq), flipped := none, compacting := none }) s
        match collRunner s c with
        | some f => if fOp f.word = 5 then opEnd f .ok 0 (min (rg f 5) (2 ^ 32 - 1)) (min n (2 ^ 32 - 1)) s' else opEnd f .ok 0 0 0 s'
        | none => s'

/-- A COMPACT or COLL_REBASE that has ended without a flip runs no more. -/
def collSettle (s : State) : State :=
  { s with eng := { s.eng with colls := s.eng.colls.map fun e =>
      if e.2.flipped.isNone ∧ ((collRunner s e.2).isNone ∨ (collRunner s e.2).any fun f => f.fin.isSome) then
        (e.1, { e.2 with compacting := none }) else e } }

/-- A plane that completes an adoption marks every collection (R321). -/
def markLostSide (s : State) : State :=
  { s with eng := { s.eng with colls := s.eng.colls.map fun e => (e.1, { e.2 with lostSide := true }) } }

end Sys2Proof.Machine
end

