-- ==== Sys2Proof/Machine/Attend.lean ====
section
/-! DEFINITION. The context units (chapter 11): sequences and their page tables, SEQ_OPEN, SEQ_CLOSE, PAGE_MAP, KV_APPEND and ATTEND. -/

namespace Sys2Proof.Machine

/-! ## Sequences and page tables (R325 to R331) -/

/-- Sequence id of a flit. -/
def fSid (f : Flit) : Nat := fw f.word 0x18 0 6

/-- `s` with a sequence changed. -/
def setSeq (ix : Nat) (g : Seq → Seq) (s : State) : State :=
  match aget s.eng.seqs ix with
  | some q => { s with eng := { s.eng with seqs := aset s.eng.seqs ix (g q) } }
  | none => s

/-- The flit without its contexts and granules, and what it would take of its sequence's unit and of scratch. -/
def seqRetake (f : Flit) (q : Seq) (s : State) : Option State :=
  let others := (seqFlits s f.part q.sid).filter fun g => g.slot ≠ f.slot
  let s' := setFlit f.part f.slot (fun g => { g with ctxs := [] }) s
  let n := askGran s f.part f.word - f.granules
  if seqFits s' f.part q.unit (seqCtxs f.word) others && (n == 0 || granOk s f.part n) then
    some (setFlit f.part f.slot (fun g => { g with ctxs := [⟨3, q.unit, seqCtxs f.word⟩], granules := g.granules + n }) (granTake n s))
  else none

/-- The sequence a flit acts on, with its slot and table; a sequence that is not open, is faulted, or whose handle is poisoned ends the flit. One accepted
before any SEQ_OPEN of its sid takes what Table 11.1 gives it here, on the sequence's unit, or ends ENGINE_BUSY, detail 0x85 (R326, assumption 62). -/
def withSeq (f : Flit) (go : Nat → Seq → Handle → State → State) (s : State) : State :=
  match seqOf s f.part (fSid f) with
  | none => endOp f.part f.slot .unsupported 0x80 s
  | some (ix, q) =>
    if q.faulted then endOp f.part f.slot .poison 0x86 s
    else match handleAt s f.part q.handle with
      | none => endOp f.part f.slot .unsupported 0x84 s
      | some h =>
        if h.poisoned then endOp f.part f.slot .poison 0x0B s
        else if f.ctxs = [⟨3, q.unit, seqCtxs f.word⟩] ∧ askGran s f.part f.word ≤ f.granules then go ix q h s
        else match seqRetake f q s with
          | some s => go ix q h s
          | none => endOp f.part f.slot .engineBusy 0x85 s

/-! ## Opening and closing (R333, R335) -/

/-- SEQ_OPEN (R333): its flit then runs until the sequence closes. -/
def stepSeqOpen (f : Flit) (s : State) : State :=
  let hn := fw f.word 0x1C 0 16
  let fail (st : Status) (d : Nat) : State := releaseAnswer f (endOp f.part f.slot st d s)
  if f.regs.getD 2 0 = 1 then s
  else match seqOpenBad s f.part f.word, f.ctxs.find? fun c => c.kind = 3 with
    | some e, _ => fail e.1 e.2
    | none, none => fail .engineBusy 0
    | none, some c => match ((List.range 16).map (c.unit * 16 + ·)).find? fun i => (aget s.eng.seqs i).isNone with
      | none => fail .engineBusy 0
      | some ix =>
        let q : Seq := {
          unit := c.unit, part := f.part, sid := fSid f, head := fw f.word 0x18 6 3, hkv := fw f.word 0x18 9 4 + 1, g := fw f.word 0x18 13 4 + 1
          kvFmt := fw f.word 0x18 17 6, handle := hn, nEntries := fw f.word 0x20 0 19, key0 := fKey f.word 0x24, key1 := fKey f.word 0x28
          scale := BitVec.ofNat 32 (fw f.word 0x2C 0 32), openSlot := f.slot }
        releaseAnswer f (setFlit f.part f.slot (fun f => { f with regs := [0, 0, 1] })
          (setHandle f.part hn (fun h => { h with boundSeq := some ix }) { s with eng := { s.eng with seqs := aset s.eng.seqs ix q } }))

/-- A sequence's slot is freed and its handle is released. -/
def freeSeq (ix : Nat) (s : State) : State :=
  match aget s.eng.seqs ix with
  | none => s
  | some q => setHandle q.part q.handle (fun h => { h with boundSeq := none }) { s with eng := { s.eng with seqs := adel s.eng.seqs ix } }

/-- The SEQ_CLOSE that asked for a sequence's close is still running; one that ended early asks no more. -/
def closeAsked (s : State) (q : Seq) : Bool := q.closing.any fun x => s.eng.flits.any fun f =>
  f.part == q.part && f.slot == x && decide (fEngine f.word = 5 ∧ fOp f.word = 2) && f.fin.isNone && fSid f == q.sid

/-- SEQ_CLOSE (R335): asks for the close; once the SEQ_OPEN record is written its own follows. -/
def stepSeqClose (f : Flit) (s : State) : State :=
  if f.regs.getD 2 0 = 1 then
    if s.eng.flits.any fun y => y.part == f.part && y.slot == f.regs.getD 3 0 && y.order == f.regs.getD 4 0 then s
    else opEnd f .ok 0 0 0 s
  else match seqOf s f.part (fSid f) with
    | none => endOp f.part f.slot .unsupported 0x80 s
    | some (ix, q) => if closeAsked s q then s else setSeq ix (fun q => { q with closing := some f.slot }) s

/-- SEQ_CLOSE_COMPLETE (R335): the sequence's earlier flits have completed; its slot is freed and the SEQ_OPEN record is due. -/
def seqCloseDone (part slot : Nat) (s : State) : State :=
  match flitAt s part slot with
  | none => s
  | some f =>
    if !(decide (fEngine f.word = 5 ∧ fOp f.word = 2) && f.begun && f.fin.isNone && decide (f.regs.getD 2 0 = 0)) then s
    else match seqOf s part (fSid f) with
      | none => s
      | some (ix, q) =>
        if q.closing ≠ some slot ∨ (seqFlits s part (fSid f)).any (fun g => decide (g.order < f.order)) then s
        else
          let ord := (flitAt s part q.openSlot).elim 0 (·.order)
          let s := setFlit part slot (fun f => { f with regs := [0, 0, 1, q.openSlot, ord] }) (freeSeq ix s)
          endFlit part q.openSlot {
            status := if q.faulted then .poison else .ok, detail := if q.faulted then 0x86 else 0, lo := q.attends % 2 ^ 32, hi := q.tokens % 2 ^ 32 } s

/-- The SEQ_OPEN flit's time limit expires: its sequence closes (Table 11.6). -/
def seqExpire (part slot : Nat) (s : State) : State :=
  match s.eng.seqs.find? fun (e : Nat × Seq) => e.2.part = part ∧ e.2.openSlot = slot with
  | none => endOp part slot .retryLater 0x09 s
  | some (ix, q) =>
    endFlit part slot { status := .retryLater, detail := 0x09, lo := q.attends % 2 ^ 32, hi := q.tokens % 2 ^ 32 } (freeSeq ix s)

/-! ## PAGE_MAP (R334) -/

/-- PAGE_MAP. -/
def stepPageMap (f : Flit) (s : State) : State :=
  withSeq f (fun ix q h s =>
    let first := fw f.word 0x1C 0 19
    let n := fw f.word 0x20 0 19
    let src := fAddr f.word 0x24
    if n > 262144 ∨ src % 16 ≠ 0 then endOp f.part f.slot .unsupported 0x03 s
    else if first > q.nEntries ∨ first + n > 262144 ∨ 16 * (first + n) > handleSize h then endOp f.part f.slot .unsupported 0x82 s
    else opRead f (engReads src (16 * n) (fKey f.word 0x2C) needER) (fun x s =>
      if x.2 then endOp f.part f.slot .poison 0x0B s
      else
        let h' := handleWrite h (16 * first) x.1
        if !tableOk h' (first + n) then endOp f.part f.slot .unsupported 0x82 s
        else opEnd f .ok 0 (first + n) 0
          (setSeq ix (fun q => { q with nEntries := first + n }) (setHandle f.part q.handle (fun _ => h') s))) s) s

/-! ## Pages (R328, R329) -/

/-- Data and scale bytes of one row (Table 11.2). -/
def kvData (q : Seq) : Nat := match fmtOf q.kvFmt with
  | .flt f => headDim q.head * f.width / 8
  | .mx f => headDim q.head * f.width / 8
  | _ => 0
def kvScale (q : Seq) : Nat := if isMx q.kvFmt then headDim q.head / 32 else 0

/-- Bytes of a block and of a page. -/
def kvBlock (q : Seq) : Nat := 256 * (kvData q + kvScale q)
def kvPage (q : Seq) : Nat := 2 * q.hkv * kvBlock q

/-- Address of head `h`'s K block, or its V block. -/
def blockAddr (q : Seq) (e : PageEnt) (h : Nat) (v : Bool) : Nat := e.addr + (2 * h + b2n v) * kvBlock q

/-- Data and scales of row `t` of a block: address and length. -/
def rowPlaces (q : Seq) (b t : Nat) : List (Nat × Nat) :=
  (b + t * kvData q, kvData q) :: (if kvScale q = 0 then [] else [(b + 256 * kvData q + t * kvScale q, kvScale q)])

/-- The region key an entry selects. -/
def pageKey (q : Seq) (e : PageEnt) : Word32 := if e.sel then q.key1 else q.key0

/-! ## KV_APPEND (R337 to R339)

`regs`: 0 tokens appended, 2 tokens whose writes are out or accepted. -/

/-- Positions of the new tokens fit: each is slot fill of an entry, earlier tokens counted (R337). -/
def appendFits : Nat → Nat → List PageEnt → Bool
  | 0, _, _ => true
  | n + 1, pos, es => match es.find? fun e => e.gpage = pos / 256 with
    | some e => e.fill == pos % 256 && appendFits n (pos + 1) (modFirst (fun e => e.gpage = pos / 256) (fun e => { e with fill := e.fill + 1 }) es)
    | none => false

/-- A row converted to kv_fmt (R338). -/
def kvRow (f : Flit) (q : Seq) (idx : Nat) (row : Bytes) : Bytes :=
  encodeVals (fmtOf q.kvFmt) (decodeVals (.flt bf16) row) (rndOf (fw f.word 0x18 10 2)) (fw f.word 0x18 12 1 == 1) (fWord f.word 0x30) idx

/-- The writes of one row: its data and its scales. -/
def kvWrites (f : Flit) (q : Seq) (e : PageEnt) (h t idx : Nat) (v : Bool) (row : Bytes) : List EngAcc :=
  let d := kvRow f q idx row
  let b := blockAddr q e h v
  engWrites (b + t * kvData q) (d.take (kvData q)) (pageKey q e) needEW
    ++ (if kvScale q = 0 then [] else engWrites (b + 256 * kvData q + t * kvScale q) (d.drop (kvData q)) (pageKey q e) needEW)

/-- The writes of token `t` of the flit into its entry. -/
def tokenWrites (f : Flit) (q : Seq) (e : PageEnt) (src : Bytes) (t : Nat) : List EngAcc :=
  let d := headDim q.head
  let pos := fw f.word 0x1C 0 29 + t
  ((List.range q.hkv).map fun h =>
    let o := (t * q.hkv + h) * 4 * d
    let idx := (pos * q.hkv + h) * 2 * d
    kvWrites f q e h (pos % 256) idx false (slice src o (2 * d)) ++ kvWrites f q e h (pos % 256) (idx + d) true (slice src (o + 2 * d) (2 * d))).flatten

/-- FILL_RAISE (R339): the entry of the tokens written takes them. -/
def fillRaise (f : Flit) (ix : Nat) (q : Seq) (n : Nat) (s : State) : State :=
  let pos := fw f.word 0x1C 0 29 + rg f 0
  match handleAt s f.part q.handle with
  | none => s
  | some h => match (List.range q.nEntries).find? fun i => (tableEnt h i).gpage = pos / 256 with
    | none => s
    | some i =>
      let s := setHandle f.part q.handle (fun h => handleWrite h (16 * i + 12) (natLe 4 ((tableEnt h i).fill + n))) s
      bumpG .ctuAppended n (setSeq ix (fun q => { q with tokens := q.tokens + n })
        (setFlit f.part f.slot (fun x => { x with regs := rgSet x [(0, rg x 0 + n)] }) s))

/-- KV_APPEND, one entry's tokens per transition. -/
def stepKvAppend (f : Flit) (s : State) : State :=
  withSeq f (fun ix q h s =>
    let n := fw f.word 0x20 0 13
    let pos := fw f.word 0x1C 0 29
    let src := fAddr f.word 0x24
    let out := rg f 2
    if out ≠ rg f 0 then fillRaise f ix q (out - rg f 0) s
    else if n = 0 ∨ n > 4096 ∨ fw f.word 0x18 10 2 = 3 ∨ fw f.word 0x18 8 2 = 3 ∨ src % 16 ≠ 0 then endOp f.part f.slot .unsupported 0x03 s
    else opRead f (engReads src (n * q.hkv * 4 * headDim q.head) (fKey f.word 0x2C) needER) (fun x s =>
      let es := tableEnts h q.nEntries
      let left := n - out
      if x.2 then endOp f.part f.slot .poison 0x0B s
      else if left = 0 then opEnd f .ok 0 n 0 s
      else if out = 0 ∧ !appendFits n pos es then endOp f.part f.slot .unsupported 0x83 s
      else if out = 0 ∧ (es.any fun e => decide (pos / 256 ≤ e.gpage ∧ e.gpage ≤ (pos + n - 1) / 256) && areaLost s e.addr (kvPage q)) then
        endOp f.part f.slot .noAccess 0x06 s
      else match es.find? fun e => e.gpage = (pos + out) / 256 with
        | none => endOp f.part f.slot .unsupported 0x83 s
        | some e =>
          let k := min left (256 - (pos + out) % 256)
          opKeep f (rgSet f [(2, out + k)]) ((List.range k).map fun t => tokenWrites f q e x.1 (out + t)).flatten s) s) s

/-! ## ATTEND (R340 to R348)

`regs`: 0 visible positions, 1 pages read, 2 the phase (0 pages, 1 lists written, 2 units sent), 3 the entry, 4 the next chunk to send, 5 poison
met. Records are kept under the cache addresses 2^60 + index, flagged once they are the NaN record; poisoned KV heads under 2^61 + head. -/

/-- Fields of an ATTEND body. -/
def attQ (f : Flit) : Nat := fw f.word 0x18 10 4 + 1
def attMask (f : Flit) : Nat := fw f.word 0x18 14 2
def attQry (f : Flit) : Nat := fAddr f.word 0x20
def attRes (f : Flit) : Nat := fAddr f.word 0x2C
def attHq (q : Seq) : Nat := q.hkv * q.g
def attQlen (f : Flit) (q : Seq) : Nat := 0x40 + attQ f * attHq q * 2 * headDim q.head
def attRecs (f : Flit) (q : Seq) : Nat := attQ f * attHq q

/-- A key at position `p` is visible to a query token at `qpos` (R341). -/
def keyVisible (f : Flit) (qpos p : Nat) : Bool :=
  decide (fw f.word 0x38 0 29 ≤ p ∧ p ≤ fw f.word 0x3C 0 29) && (attMask f == 0 || decide (p ≤ qpos)) &&
    (attMask f != 2 || decide (qpos < p + fw f.word 0x1C 0 29))

/-- Slots of an entry visible to query token `i`. -/
def visSlots (f : Flit) (qb : Bytes) (e : PageEnt) (i : Nat) : List Nat :=
  (List.range e.fill).filter fun t => keyVisible f (fieldAt qb (4 * i) 4 % 2 ^ 29) (e.gpage * 256 + t)

/-- 64-byte lines as runs that cross no 4 KiB page: address and length. -/
def lineRuns : List Nat → List (Nat × Nat)
  | [] => []
  | l :: t => match lineRuns t with
    | (a, n) :: r => if 64 * (l + 1) = a ∧ a % 4096 ≠ 0 then (64 * l, n + 64) :: r else (64 * l, 64) :: (a, n) :: r
    | [] => [(64 * l, 64)]

/-- The lines some places lie in, ascending, once each. -/
def placeLines (l : List (Nat × Nat)) : List Nat :=
  sortBy id ((l.map fun x => (List.range ((x.1 + x.2 - 1) / 64 - x.1 / 64 + 1)).map (x.1 / 64 + ·)).flatten.eraseDups)

/-- The reads of one head's rows in an entry: only lines that hold visible rows (R349). -/
def headReads (q : Seq) (e : PageEnt) (slots : List Nat) (h : Nat) : List EngAcc :=
  ([false, true].map fun v => (lineRuns (placeLines ((slots.map fun t => rowPlaces q (blockAddr q e h v) t).flatten))).map fun x =>
    { addr := x.1, key := pageKey q e, len := x.2, need := needER : EngAcc }).flatten

/-- Bytes at a place, from the runs in hand. -/
def runBytes (f : Flit) (a n : Nat) : Bytes :=
  ((pagePieces (n / 4096 + 2) a n).map fun x =>
    match f.cache.find? fun c => decide (c.1 < 2 ^ 60) && decide (c.1 ≤ x.1 ∧ x.1 + x.2 ≤ c.1 + c.2.1.length) with
    | some c => slice c.2.1 (x.1 - c.1) x.2
    | none => zeros x.2).flatten

/-- A row's elements. -/
def kvVals (f : Flit) (q : Seq) (b t : Nat) : List Val :=
  decodeVals (fmtOf q.kvFmt) ((rowPlaces q b t).map fun x => runBytes f x.1 x.2).flatten

/-- A value that is NaN or an infinity. -/
def Val.notFinite : Val → Bool
  | .fin .. => false
  | _ => true

/-- A query row. -/
def queryRow (q : Seq) (qb : Bytes) (idx : Nat) : List Val :=
  decodeVals (.flt bf16) (slice qb (0x40 + idx * 2 * headDim q.head) (2 * headDim q.head))

/-- The exact dot product of two rows. -/
def dotVals (a b : List Val) : Val := sumVals (a.zipWith Val.mul b)

/-- The score (R343). -/
def scoreOf (q : Seq) (qr kr : List Val) : Val := round32 ((dotVals qr kr).mul (fp32.decode q.scale.toNat))

/-- One page's part of attend_row (R344): `rows` are the visible keys and values. -/
def attendPage (q : Seq) (qr : List Val) (rows : List (List Val × List Val)) (r : Lse) : Option Lse :=
  if rows.any (fun x => x.1.any Val.notFinite || x.2.any Val.notFinite) then none
  else
    let sc := rows.map fun x => scoreOf q qr x.1
    if sc.any (fun v => v.isNan || v == .inf false) then none
    else
      let mn := sc.foldl (fun m v => if m.lt v then v else m) r.m
      if mn = .inf true then some r
      else
        let c := ctuExp (round32 (r.m.add mn.negate))
        let ps := sc.map fun v => ctuExp (round32 (v.add mn.negate))
        some {
          m := mn, l := round32 ((r.l.mul c).add (sumVals ps))
          o := r.o.mapIdx fun j x => round32 ((x.mul c).add (sumVals (rows.zipWith (fun v p => p.mul (v.2.getD j .zero)) ps))) }

/-- The record of an index so far, and whether it is the NaN record. -/
def attRec (f : Flit) (q : Seq) (idx : Nat) : Lse × Bool :=
  match f.cache.find? fun c => c.1 = 2 ^ 60 + idx with
  | some c => (lseOf q.head c.2.1, c.2.2)
  | none => (emptyLse q.head, false)

/-- Every record moves on by one page. -/
def attendEntry (f : Flit) (q : Seq) (qb : Bytes) (e : PageEnt) (slots : List Nat) (s : State) : State :=
  let hq := attHq q
  let badHeads := (List.range q.hkv).filter fun h => (headReads q e slots h).any fun a => (cacheAt f a).any (·.2)
  let kv := (List.range q.hkv).map fun h =>
    (List.range e.fill).map fun t => if t ∈ slots then (kvVals f q (blockAddr q e h false) t, kvVals f q (blockAddr q e h true) t) else ([], [])
  let recs : List (Nat × Bytes × Bool) := (List.range (attRecs f q)).map fun idx =>
    let i := idx / hq
    let h := idx % hq / q.g
    let old := attRec f q idx
    let vis := visSlots f qb e i
    if old.2 ∨ vis = [] ∨ h ∈ badHeads then (2 ^ 60 + idx, packLse old.1, old.2)
    else match attendPage q (queryRow q qb idx) (vis.map fun t => (kv.getD h []).getD t ([], [])) old.1 with
      | some r => (2 ^ 60 + idx, packLse r, false)
      | none => (2 ^ 60 + idx, packLse (nanLse q.head), true)
  let keep := f.cache.filter fun c => decide (attQry f ≤ c.1 ∧ c.1 < attQry f + attQlen f q) || decide (2 ^ 61 ≤ c.1)
  let vsum := sumOf ((List.range (attQ f)).map fun i => (visSlots f qb e i).length)
  setFlit f.part f.slot (fun x => { x with
    regs := rgSet x [(0, rg x 0 + vsum), (1, rg x 1 + 1), (3, rg x 3 + 1), (5, max (rg x 5) (b2n (badHeads ≠ [])))]
    cache := keep ++ recs ++ badHeads.map fun h => (2 ^ 61 + h, [], true) }) (bumpG .ctuRows (slots.length * q.hkv) (bumpG .ctuPages 1 s))

/-- A poisoned KV head. -/
def headPoisoned (f : Flit) (h : Nat) : Bool := f.cache.any fun c => c.1 = 2 ^ 61 + h

/-- NaN records of R345: by a query row, or met on the way. -/
def attNan (f : Flit) (q : Seq) (qb : Bytes) (idx : Nat) : Bool := (attRec f q idx).2 || (queryRow q qb idx).any Val.notFinite

/-- The record as it is put out (R345, R347, R348). -/
def attOut (f : Flit) (q : Seq) (qb : Bytes) (idx : Nat) : Bytes :=
  if attNan f q qb idx || headPoisoned f (idx % attHq q / q.g) then packLse (nanLse q.head)
  else
    let r := (attRec f q idx).1
    packLse (if fw f.word 0x18 18 1 = 1 then normLse r else r)

/-- Chunks of records: bytes, and whether one of them is of a poisoned head. -/
def attChunks (f : Flit) (q : Seq) (qb : Bytes) : List (Bytes × Bool) :=
  let n := attRecs f q
  let k := headRecs q.head
  (List.range (ceilDiv n k)).map fun j =>
    let is := (List.range (min k (n - j * k))).map (j * k + ·)
    ((is.map (attOut f q qb)).flatten, is.any fun i => headPoisoned f (i % attHq q / q.g))

/-- The end of an ATTEND whose records are out. -/
def attEnd (f : Flit) (s : State) : State :=
  let lo := rg f 0 % 2 ^ 32
  if rg f 5 = 1 then opEnd f .poison 0x0B lo (rg f 1) s
  else opEnd f .ok 0 lo (rg f 1) (match seqOf s f.part (fSid f) with
    | some (ix, _) => setSeq ix (fun q => { q with attends := q.attends + 1 }) s
    | none => s)

/-- POOL: every chunk is written in its 4 KiB, once every write has passed its check. -/
def attPool (f : Flit) (q : Seq) (qb : Bytes) (s : State) : State :=
  let ws := (((attChunks f q qb).mapIdx fun j c => engWrites (attRes f + j * 4096) (slice c.1 0 4096) (fKey f.word 0x34) needEW)).flatten
  match ws.findSome? fun a => match checkEng s f.part a.addr a.len a.key (rightsCover a.need) with
    | .error e => some e
    | .ok _ => none with
  | some e => endOp f.part f.slot e.1 (if e.2 then 0x06 else 0x05) s
  | none => opOut f (rgSet f [(2, 1)]) ws s

/-- The requester of the flit is a CXL requester. -/
def flitCxl (s : State) (f : Flit) : Bool := (reqRec s f.rid).kind == 1

/-- R341's body checks and the ranges of Table 11.4. -/
def attOk (s : State) (f : Flit) (q : Seq) : Bool :=
  let mode := fw f.word 0x18 16 2
  decide (q.g * attQ f ≤ 64) && decide (attRecs f q ≤ 1024) && attMask f != 3 && !(attMask f == 2 && decide (fw f.word 0x1C 0 29 = 0))
    && decide (mode < 2) && !(mode == 1 && flitCxl s f) && decide (fw f.word 0x18 8 2 ≠ 3) && decide (attQry f % 64 = 0)
    && (mode == 1 || decide (attRes f % 16 = 0))

/-- Slots of an entry that some query token sees. -/
def attSlots (f : Flit) (qb : Bytes) (e : PageEnt) : List Nat :=
  (List.range e.fill).filter fun t => (List.range (attQ f)).any fun i => decide (t ∈ visSlots f qb e i)

/-- ATTEND up to its output, one entry per transition. Once its output has begun its sequence's state ends it no more (assumption 8). The areas and pages
that must lie in ranges this plane serves are looked at before it reads a page (R329, R340); what changes later is met by each access's check. -/
def stepAttend (f : Flit) (s : State) : State :=
  if rg f 2 = 1 ∧ f.todo.length < f.planned then attEnd f s
  else if rg f 2 = 2 then s
  else withSeq f (fun _ q h s =>
    if !attOk s f q then endOp f.part f.slot .unsupported 0x03 s
    else if !f.chk && (areaLost s (attQry f) (attQlen f q)
        || (fw f.word 0x18 16 2 == 0 && areaLost s (attRes f) (ceilDiv (attRecs f q) (headRecs q.head) * 4096))) then
      endOp f.part f.slot .noAccess 0x06 s
    else opRead f (engReads (attQry f) (attQlen f q) (fKey f.word 0x28) needER) (fun x s =>
      if x.2 then endOp f.part f.slot .poison 0x0B s
      else if !f.chk && (tableEnts h q.nEntries).any (fun e => decide (attSlots f x.1 e ≠ []) && areaLost s e.addr (kvPage q)) then
        endOp f.part f.slot .noAccess 0x06 s
      else
      let s := setFlit f.part f.slot (fun y => { y with chk := true }) s
      if rg f 3 < q.nEntries then
        let e := tableEnt h (rg f 3)
        let slots := attSlots f x.1 e
        if slots = [] then setFlit f.part f.slot (fun y => { y with regs := rgSet y [(3, rg y 3 + 1)] }) s
        else if areaForeign s e.addr (kvPage q) then endOp f.part f.slot .noAccess 0x06 s
        else
          let rs := ((List.range q.hkv).map (headReads q e slots)).flatten
          if cacheMiss f rs ≠ [] then opTodo f (cacheMiss f rs) s else attendEntry f q x.1 e slots s
      else
        let s := bumpG .ctuNanRec ((List.range (attRecs f q)).filter (attNan f q x.1)).length s
        if fw f.word 0x18 16 2 = 0 then attPool f q x.1 s else setFlit f.part f.slot (fun y => { y with regs := rgSet y [(2, 2)], shown := some q }) s) s) s

/-- Nothing ends the flit early any more: a SCAN whose list writes or an ATTEND whose records have begun to go out, since another end than theirs puts out
none (R307, R348), and a COMPACT or COLL_REBASE that has flipped, whose record waits for the SCANs before it (R316): DEDUCED (assumption 8). Output has
begun once the first of it has been issued or sent, no sooner (R222, R230). -/
def outputBegun (f : Flit) : Bool :=
  match fEngine f.word, fOp f.word with
  | 4, 4 => decide (rg f 2 = 2 ∧ f.todo.length < f.planned)
  | 4, 5 | 4, 6 => decide (rg f 2 = 4)
  | 5, 5 => decide (rg f 2 = 1 ∧ f.todo.length < f.planned) || decide (rg f 2 = 2 ∧ 0 < rg f 4)
  | _, _ => false

/-- The sequence of an ATTEND that puts out its records: whatever becomes of the sequence once the first is out, the rest follows. -/
def outSeq (f : Flit) (go : Seq → State → State) (s : State) : State :=
  if outputBegun f then
    (match f.shown with
     | some q => go q s
     | none => s)
  else withSeq f (fun _ q _ s => go q s) s

/-- RETURN: the next chunk leaves for the submitting requester's port once its ENG cells can be had (R347, R137). -/
def attSend (part slot : Nat) (s : State) : State :=
  match flitAt s part slot with
  | none => s
  | some f =>
    if !(decide (fEngine f.word = 5 ∧ fOp f.word = 5) && f.fin.isNone && decide (rg f 2 = 2)) then s
    else outSeq f (fun q s =>
      match cacheAll f (engReads (attQry f) (attQlen f q) (fKey f.word 0x28) needER) with
      | none => s
      | some x => match (attChunks f q x.1)[rg f 4]? with
        | none => attEnd f s
        | some c =>
          let u : StreamOut := {
            utype := 0xD1
            hdr := { port := 256, rid := f.rid, part := f.part, cls := fClass f.word, cmark := false, poison := c.2, schedId := 0,
                     dest := fw f.word 0x2C 0 10, dkind := 2, seq := (fw f.word 0x30 0 24 + rg f 4) % 2 ^ 24, payload := c.1 } }
          let n := streamCells u
          if s.vat.eng + n > (dev s).engCells then s
          else
            let s := setFlit part slot (fun y => { y with regs := rgSet y [(4, rg y 4 + 1)] }) s
            let s := if portUp s f.port then
                let (uid, s) := takeId (poolTake .eng n s)
                enqueue f.port (fClass f.word) { uid := uid, item := .stream u, pool := .eng, cells := n, bytes := streamBytes u, part := f.part,
                                                 cls := fClass f.word, poison := c.2 } s
              else s
            if rg f 4 + 1 < (attChunks f q x.1).length then s else attEnd f s) s

end Sys2Proof.Machine
end

