-- ==== Sys2Proof/Machine/Tray.lean ====
section
/-! DEFINITION. What the trays' answers lead to (chapters 2, 3 and 12): pieces, fills and pins, the replay of shadow entries, stripe rebuilds,
relocations and dataset loads. -/

namespace Sys2Proof.Machine

/-! ## Accesses come back -/

/-- An access leaves: markers behind it move up (R67), and an engine access gives back its ENG cells (R137). -/
def accGone (a : Acc) (s : State) : State :=
  let s := dropAcc a.aid s
  let s := { s with mem := { s.mem with markers := s.mem.markers.map fun m => { m with behind := m.behind.filter (· ≠ a.aid) } } }
  if a.eng then poolGive .eng (ceilDiv (accBytes a) 256) s else s

/-- The last access of an answered request has come back: its lock is released and it leaves (R537). -/
def lateDone (a : Acc) (s : State) : State :=
  match a.owner with
  | .req id _ | .reqMac id _ => match findReq s id with
    | some r => if r.phase = .late ∧ !s.mem.accs.any (accOf id) then dropReq id (unlock id s) else s
    | none => if s.mem.accs.any (accOf id) then s else unlock id s
  | _ => s

/-! ## Fills (R84 to R86) and pins (R90) -/

/-- A piece of a fill comes back. -/
def fillBack (fid : Nat) (a : Acc) (st : Status) (data : Bytes) (s : State) : State :=
  fillServe fid (setFill fid (fillPiece a st data) s)

/-- The pin that waits for a fill takes note of it; a block the limit of twelve ways left unpinned is counted once. -/
def pinFilled (f : Fill) (s : State) : State :=
  let pinned := (s.hbm.blocks.find? (isBlock f.range f.odd f.gen (f.loc / 65536))).any (·.pinned)
  let upd (p : Pin) : Pin :=
    if p.fid = some f.fid then
      { p with fid := none, next := f.loc + 4096, unpinned := p.unpinned + b2n (!pinned && decide (f.loc % 65536 = 0)) } else p
  { s with hbm := { s.hbm with pins := s.hbm.pins.map upd } }

/-- FIRN_FILL_COMPLETE (R86): every access of the fill has come back; a whole and checked sector becomes valid in Firn, if it may allocate. -/
def fillComplete (fid : Nat) (s : State) : State :=
  match findFill s fid with
  | none => s
  | some f =>
    if f.left ≠ 0 then s
    else
      let s := fillServe fid s
      let s := match f.failed, fillOpen s f (rangeOf s f.range) 0 4096 with
        | none, some b =>
          if f.alloc then
            let w := firnWrite f.range f.odd f.gen f.owner f.loc b f.pin s
            if w.1 then w.2 else bumpG .firnNoalloc 1 w.2
          else bumpG .firnNoalloc 1 s
        | none, none => if f.waiters = [] then bumpG .sealMacErr 1 s else s
        | some _, _ => s
      dropFill fid (pinFilled f s)

/-- A background command of a session ends: its response goes to the session, or, when that has closed or lost control, as an event (R482). -/
def bgDone (command : Nat) (obj num : Nat) (st : PStatus) (value : Nat) (s : State) : State :=
  match s.mgmt.bgs.find? fun b => b.command == command && b.obj == obj && b.num == num with
  | none => s
  | some b =>
    let s := { s with mgmt := { s.mgmt with bgs := delFirst (fun b => b.command = command ∧ b.obj = obj ∧ b.num = num) s.mgmt.bgs } }
    if s.mgmt.sessions.any (fun x => x.sess == b.sess) && (s.mgmt.controller == some b.sess || !((s.mgmt.sessions.find? fun x => x.sess == b.sess).any (·.helloOk)))
    then tell (.prosis b.sess command st [value]) s
    else emit (.done command st value) s

/-- A pin goes on to its next sector: one in Firn is pinned where it is, one that is being filled waits for that fill (R85), another is filled as class 0
traffic of its owner (R90, R91). -/
def pinStep (p : Pin) (s : State) : State :=
  let e := rangeOf s p.range
  let set (g : Pin → Pin) (s : State) : State := { s with hbm := { s.hbm with pins := modFirst (fun x => x.range = p.range ∧ x.odd = p.odd) g s.hbm.pins } }
  if p.done ∨ p.fid.isSome then s
  else if p.next ≥ p.stop then bgDone 0x50 0 p.range .ok p.unpinned (set (fun p => { p with done := true }) s)
  else match firnLook p.range p.odd (firnGen s p.range) p.next (firnScrub p.range p.odd (firnGen s p.range) (p.next / 65536) e.owner s) with
    | (some b, s) =>
      let w := firnWrite p.range p.odd (firnGen s p.range) e.owner p.next b true s
      let pinned := (w.2.hbm.blocks.find? (isBlock p.range p.odd (firnGen s p.range) (p.next / 65536))).any (·.pinned)
      set (fun p => { p with next := p.next + 4096, unpinned := p.unpinned + b2n (!pinned && decide (p.next % 65536 = 0)) }) w.2
    | (none, s) =>
      match s.hbm.fills.find? fun f => f.range == p.range && f.odd == p.odd && f.gen == firnGen s p.range && f.loc == p.next / 4096 * 4096 with
      | some f => set (fun p => { p with fid := some f.fid }) (setFill f.fid (fun f => { f with alloc := true, pin := true }) s)
      | none =>
      if s.hbm.fills.length ≥ 4096 then s
      else
        let c := charge (polIndex e.owner 0 0) 4096 false s
        if c.1 = Colour.red then s
        else
          let w := startFill p.range (firnGen s p.range) e p.odd p.next e.owner 0 true true false (countColour c.1 e.owner 4096 c.2)
          set (fun p => { p with fid := some w.1 }) w.2

/-- A FIRN_PIN whose pin has gone ends. -/
def endPin (b : Bg) (s : State) : State :=
  if b.command = 0x50 ∧ ¬ s.hbm.pins.any (fun p => p.range == b.num) then bgDone 0x50 0 b.num .state 0 s else s

/-- Every pin in progress takes a step. -/
def stepPins (s : State) : State :=
  let s := s.hbm.pins.foldl (fun s p => pinStep p s) s
  s.mgmt.bgs.foldl (fun s b => endPin b s) s

/-! ## Replay of shadow entries (R60) -/

/-- `s` with a shadow entry changed; an overdue entry that is done leaves (R59). -/
def setShadow (rid tag : Nat) (f : ShadowEnt → ShadowEnt) (s : State) : State :=
  { s with mem := { s.mem with shadow := (modFirst (fun e => e.ent.rid = rid ∧ e.ent.tag = tag) f s.mem.shadow).filter fun e => !(e.overdue && e.ent.done) } }

/-- A replayed entry is DONE; one whose write failed is recorded TARGET_LOST (R60, AU_REPLAYED). -/
def shadowDone (rid tag : Nat) (ok : Bool) (s : State) : State :=
  bumpG .auReplayed (b2n ok) <| setShadow rid tag (fun e => { e with ent := { e.ent with
    done := true, status := if ok then e.ent.status else .targetLost, result := if ok then e.ent.result else 0 } }) s

/-- The write of an entry's line image, or of its MAC when the range is sealed; no path fails it. -/
def replayWrite (m : MirrorEnt) (mac : Bool) (s : State) : State :=
  match findRange s m.line 64 with
  | none => shadowDone m.rid m.tag false s
  | some (_, e) =>
    let odd := !ownOdd s
    let iset := isetOf s e.iset
    let x := selectPort m.line e iset (planes s) odd
    let ct := if e.sealed then sealLine s e.owner (lineOf m.line) m.image else m.image
    let ma := macAddr e iset.length (planes s) odd x.2
    let base : Acc := { aid := 0, port := x.1, kind := .store, addr := x.2, data := ct, rid := m.rid, part := m.part, cls := 0,
                        owner := .replay m.rid m.tag, writeClass := true, poison := m.poison, execEnd := s.now + 11000, odd := odd }
    let a := if mac then { base with kind := .storeMasked, addr := ma / 64 * 64, mask := 0xFF * 2 ^ (ma % 64), isMac := true, poison := false,
                                     data := overlay (zeros 64) (ma % 64) (sealMac s e.owner (lineOf m.line) ct) } else base
    let w := issue a s
    if w.1 then w.2 else shadowDone m.rid m.tag false w.2

/-- Whether an access replays a shadow entry. -/
def isReplay (a : Acc) : Bool := match a.owner with
  | .replay _ _ => true
  | _ => false

/-- The replay of an entry is under way: one whose bound has passed is not, its late answer is discarded (R60, R537). -/
def replaying (a : Acc) : Bool := isReplay a && decide (a.state ≠ .late)

/-- An entry that is PENDING: stored and not DONE. One sent at S3 while its request ran has no image to write (R433). -/
def pendingEnt (e : ShadowEnt) : Bool := !e.ent.done && !e.ent.running

/-- While an adoption is pending, the next PENDING entry in order of arrival is written once the one before it has been answered (R60). -/
def stepReplay : Nat → State → State
  | 0, s => s
  | n + 1, s =>
    if s.twn.adoptPending && !s.mem.accs.any replaying then
      match s.mem.shadow.find? pendingEnt with
      | some e => stepReplay n (replayWrite e.ent false s)
      | none => s
    else s

/-- A replay's write has come back. -/
def replayBack (a : Acc) (rid tag : Nat) (st : Status) (s : State) : State :=
  match s.mem.shadow.find? fun e => e.ent.rid = rid ∧ e.ent.tag = tag with
  | none => s
  | some e =>
    if st ≠ .ok then shadowDone rid tag false s
    else if !a.isMac && ((findRange s e.ent.line 64).any fun x => x.2.sealed) then replayWrite e.ent true s
    else shadowDone rid tag true s

/-! ## Flash: relocations (R101 to R107) -/

/-- A relocation of a block. -/
def findReloc (s : State) (p pblock : Nat) : Option Reloc := s.ftl.relocs.find? fun r => r.port = p ∧ r.old = pblock

/-- `s` with a relocation changed. -/
def setReloc (p pblock : Nat) (f : Reloc → Reloc) (s : State) : State :=
  { s with ftl := { s.ftl with relocs := modFirst (fun r => r.port = p ∧ r.old = pblock) f s.ftl.relocs } }

/-- The tier 3 range whose extent of a role on this port holds a logical block, with its stripe group. -/
def lblockRange (s : State) (p : Nat) (odd : Bool) (lblock : Nat) : Option (Nat × Nat) :=
  (s.img.ranges.filter fun e => e.2.valid && e.2.tier == 1).findSome? fun e =>
    let iset := isetOf s e.2.iset
    let m := iset.findIdx (· == p)
    if m = iset.length then none
    else
      let base := extentBase e.2 odd
      let row0 := base / 131072 / (iset.length / 10)
      let rows := ceilDiv (stripePages e.2 (planes s) * 4096) 131072 / (iset.length / 10) + 1
      if row0 / upbOf s p ≤ lblock ∧ lblock ≤ (row0 + rows - 1) / upbOf s p ∧ (odd = ownOdd s ∨ s.twn.servesTwin) then some (e.1, m / 10) else none

/-- Role and logical block a physical block is mapped at. -/
def lblockOf (s : State) (p pblock : Nat) : Option (Bool × Nat) :=
  (s.ftl.map.find? fun e => decide (e.1.1 = p) && e.2.valid && decide (pblockOf e.2 = pblock)).map fun e => e.1.2

/-- A relocation of a mapped block is requested, unless it is already (R101, R98). -/
def requestReloc (p pblock : Nat) (s : State) : State :=
  match findReloc s p pblock, lblockOf s p pblock with
  | none, some (odd, lb) => match lblockRange s p odd lb with
    | some (range, grp) =>
      let m := ((isetOf s (rangeOf s range).iset).findIdx (· == p))
      flashEvent 2 m range odd (lb * upbOf s p)
        { s with ftl := { s.ftl with relocs := s.ftl.relocs ++ [{ port := p, old := pblock, lblock := lb, odd := odd, range := range, grp := grp }] } }
    | none => s
  | _, _ => s

/-- First block of a die and last + 1 that this plane's translation layer may take on a port (R107): the pool of its role, and the twin's while it
has adopted it. -/
def poolSpan (s : State) (p : Nat) (g : Geom) : (Nat × Nat) × Option (Nat × Nat) :=
  match aget s.img.flashPool p with
  | none => ((0, 0), none)
  | some split =>
    let m := min split g.blocks
    let (own, twin) := if ownOdd s then ((m, g.blocks), (0, m)) else ((0, m), (m, g.blocks))
    (own, if s.twn.servesTwin then some twin else none)

/-- Block number `i` of a pool that holds `w` blocks of each die from `lo` on. -/
def poolBlock (g : Geom) (lo w i : Nat) : Nat :=
  pblockOf { block := lo + i % w, die := i / w % max 1 g.dies, chan := i / (w * max 1 g.dies) }

/-- Blocks that a port's map names, present and future. -/
def mappedBlocks (s : State) (p : Nat) : List Nat :=
  (s.ftl.map.filter fun e => e.1.1 == p && e.2.valid).flatMap fun e =>
    pblockOf e.2 :: (if e.2.relocating then [pblockOf { block := e.2.newBlock, die := e.2.newDie, chan := e.2.newChan }] else [])

/-- Erase count of a block: as this plane has it, or for a block of the adopted pool as the twin had it, which is free (R108). -/
def eraseOf (s : State) (p b : Nat) (adopted : Bool) : Nat := (aget s.ftl.erases (p, b)).getD (if adopted then Config.twinErase p b else 0)

/-- Blocks of a port that are not free: taken out of the pool, bad, or named by the map. -/
def takenBlocks (s : State) (p : Nat) : List Nat := agetD s.ftl.used p [] ++ agetD s.ftl.bad p [] ++ mappedBlocks s p

/-- The free block of the adopted pool with the lowest erase count: which it is, is free among those not taken (R107, R108). -/
def twinFree (s : State) (p : Nat) (g : Geom) (lo hi : Nat) : Option Nat :=
  let w := hi - lo
  let n := w * g.dies * g.chans
  let taken := takenBlocks s p
  ((List.range (min n (taken.length + 1))).map fun i => poolBlock g lo w ((Config.twinBest p taken + i) % max 1 n)).find? fun b => decide (b ∉ taken)

/-- The free block of a pool with the lowest erase count (R107): of its own pool, among as many blocks as are sure to hold one that was never erased and
those that were erased, and of the adopted pool. -/
def bestFree (s : State) (p : Nat) : Option Nat :=
  match (port s p).geom with
  | none => none
  | some g =>
    let ((lo, hi), other) := poolSpan s p g
    let w := hi - lo
    let taken := takenBlocks s p
    let worn := (s.ftl.erases.filter fun e => e.1.1 == p).map fun e => e.1.2
    let fresh := (List.range (min (w * g.dies * g.chans) (taken.length + worn.length + 1))).map (poolBlock g lo w)
    let mine := (fresh ++ worn.filter fun b => decide (lo ≤ b % 65536 ∧ b % 65536 < hi)).filter fun b => decide (b ∉ taken)
    let theirs := (other.bind fun o => twinFree s p g o.1 o.2).toList
    (minBy (·.2) (mine.map (fun b => (b, eraseOf s p b false)) ++ theirs.map fun b => (b, eraseOf s p b true))).map (·.1)

/-- The read and erase counters of every block that has one: port, block, reads, erases. -/
def ftlCounts (s : State) : List (Nat × Nat × Nat × Nat) :=
  ((s.ftl.reads.map (·.1) ++ s.ftl.erases.map (·.1)).foldl addOnce []).map fun k => (k.1, k.2, agetD s.ftl.reads k 0, agetD s.ftl.erases k 0)

/-- A block leaves the pool. -/
def takeBlock (p b : Nat) (s : State) : State := { s with ftl := { s.ftl with used := amod s.ftl.used p [] fun l => addOnce l b } }

/-- A block returns to the pool. -/
def giveBlock (p b : Nat) (s : State) : State := { s with ftl := { s.ftl with used := amod s.ftl.used p [] fun l => l.filter (· ≠ b) } }

/-- A block is bad (R105). -/
def markBad (p b : Nat) (s : State) : State := { s with ftl := { s.ftl with bad := amod s.ftl.bad p [] fun l => addOnce l b } }

/-- Bits of a map entry that name its destination, and relocating (Table 3.4). -/
def withNew (m : MapEnt) (b : Nat) : MapEnt :=
  let n := mapEntOf b
  { m with relocating := true, newBlock := n.block, newDie := n.die, newChan := n.chan }

/-- `s` with a map entry changed. -/
def setMap (p : Nat) (odd : Bool) (lb : Nat) (f : MapEnt → MapEnt) (s : State) : State :=
  { s with ftl := { s.ftl with map := amod s.ftl.map (p, odd, lb) {} f } }

/-- Relocations of the same group and logical block that have not flipped and are under way (R104). -/
def relocsBeside (s : State) (r : Reloc) : Nat :=
  (s.ftl.relocs.filter fun x => x.range == r.range && x.odd == r.odd && x.grp == r.grp && x.lblock == r.lblock
    && decide (x.step = 2 ∨ x.step = 3 ∨ x.step = 6)).length

/-- Steps 1 and 2 of Table 3.6: a free block is chosen, and the map entry names it. -/
def relocStart (p pblock : Nat) (s : State) : State :=
  match findReloc s p pblock with
  | none => s
  | some r =>
    if r.step ≠ 1 ∨ relocsBeside s r ≥ 2 then s
    else match bestFree s p with
      | none => s
      | some b => setReloc p pblock (fun r => { r with step := 2, new := b, pos := 0 }) (setMap p r.odd r.lblock (withNew · b) (takeBlock p b s))

/-- Whether an access or a rebuild is out for a relocation's copy. -/
def copyOut (s : State) (p pblock : Nat) : Bool :=
  s.mem.accs.any (fun a => a.owner == .ftl p pblock) || s.ftl.rebuilds.any fun r => r.acc.any fun a => a.owner == .ftl p pblock

/-- The flash location of a sector of a relocation's block. -/
def relocLoc (s : State) (r : Reloc) : FlashLoc :=
  let iset := isetOf s (rangeOf s r.range).iset
  let m := iset.findIdx (· == r.port)
  { grp := r.grp, u := r.lblock * upbOf s r.port + r.pos / 4, col := m % 10, member := m, lblock := r.lblock, page := r.pos / 4,
    sector := r.pos % 4, byte := 0 }

/-- A template of the translation layer's accesses. -/
def ftlAcc (s : State) (owner : AccOwner) (part : Nat) (odd : Bool) : Acc :=
  { aid := 0, port := 0, kind := .flRead, addr := 0, len := 4096, owner := owner, part := part, cls := 0, odd := odd, execEnd := s.now + 20000000 }

/-- Step 3 of Table 3.6: the next sector of the old block is read, by rebuild when the block is diverted; after the last the copy is whole. -/
def relocStep (r : Reloc) (s : State) : State :=
  if r.step ≠ 2 ∨ copyOut s r.port r.old then s
  else if r.pos ≥ 4 * upbOf s r.port then setReloc r.port r.old (fun r => { r with step := 3 }) s
  else
    let l := relocLoc s r
    let e := rangeOf s r.range
    let f : FlashRef := { range := r.range, entry := e, gen := firnGen s r.range, loc := l, cols := flashCols s (isetOf s e.iset) r.odd l }
    let a := { ftlAcc s (.ftl r.port r.old) e.owner r.odd with fl := some f }
    if rowBad s r.range r.odd l then setReloc r.port r.old (fun r => { r with pos := r.pos + 1 }) s
    else if r.diverted then startRebuild f { a with port := r.port } (bumpG .ftlDivert 1 s)
    else (issueFlash r.port r.old l.page l.sector .flRead [] a s).2

/-- A copy's access has come back: a sector read is programmed, a sector programmed moves the copy on, a failed program is noted (R105). -/
def relocBack (a : Acc) (p pblock : Nat) (st : Status) (data : Bytes) (s : State) : State :=
  match findReloc s p pblock with
  | none => s
  | some r =>
    if r.step ≠ 2 then s
    else if a.kind = .flProg then
      setReloc p pblock (fun r => if st = .ok then { r with pos := r.pos + 1 } else { r with step := 6 }) s
    else if st ≠ .ok then setReloc p pblock (fun r => { r with pos := r.pos + 1 }) s
    else (issueFlash p r.new (r.pos / 4) (r.pos % 4) .flProg data (ftlAcc s (.ftl p pblock) a.part r.odd) s).2

/-- RELOCATION_PROG_FAIL (R105): the new block is bad; another is chosen and the relocation restarts from step 2. -/
def relocProgFail (p pblock : Nat) (s : State) : State :=
  match findReloc s p pblock with
  | none => s
  | some r =>
    if r.step ≠ 6 then s
    else
      let m := ((isetOf s (rangeOf s r.range).iset).findIdx (· == p))
      let s := flashEvent 4 m r.range r.odd (r.lblock * upbOf s p) (markBad p r.new s)
      match bestFree s p with
      | some b => setReloc p pblock (fun r => { r with step := 2, new := b, pos := 0 }) (setMap p r.odd r.lblock (withNew · b) (takeBlock p b s))
      | none => setReloc p pblock (fun r => { r with step := 1, new := 0, pos := 0 }) s

/-- A dataset load in progress takes note that a block of the old dataset has moved: at its end the new block is erased, the old one already is (R112). -/
def loadMoved (r : Reloc) (old : Nat) (l : DsLoad) : DsLoad :=
  if l.target = r.range ∧ l.odd = r.odd ∧ l.flipAt.isNone then
    { l with oldBlocks := l.oldBlocks.map fun b => if b = (r.port, old) then (r.port, r.new) else b } else l

/-- RELOCATION_FLIP: the new entry is mirrored, then takes effect (Table 3.6 step 4, R108). -/
def relocFlip (p pblock : Nat) (s : State) : State :=
  match findReloc s p pblock with
  | none => s
  | some r =>
    if r.step ≠ 3 then s
    else
      let m := mapEntOf r.new
      let s := sendTwin (.mapEntry p r.odd r.lblock (BitVec.ofNat 64 (packMap m))) s
      let s := { s with ftl := { s.ftl with loads := s.ftl.loads.map (loadMoved r pblock) } }
      setReloc p pblock (fun r => { r with step := 4, flipAt := s.now }) (setMap p r.odd r.lblock (fun _ => m) (takeBlock p pblock s))

/-- An erase is sent to a block. -/
def sendErase (p pblock part : Nat) (odd : Bool) (s : State) : Bool × State :=
  issueFlash p pblock 0 0 .flErase [] { ftlAcc s (.erase p pblock) part odd with len := 0 } s

/-- RELOCATION_ERASE: 16 us after the flip the old block is erased (Table 3.6 steps 5 and 6). -/
def relocErase (p pblock : Nat) (s : State) : State :=
  match findReloc s p pblock with
  | none => s
  | some r =>
    if r.step ≠ 4 ∨ s.now < r.flipAt + 16000 then s
    else
      let w := sendErase p pblock (rangeOf s r.range).owner r.odd s
      if w.1 then setReloc p pblock (fun r => { r with step := 5 }) w.2 else s

/-- The block lies in the pool of the twin that this plane has adopted. -/
def inTwinPool (s : State) (p b : Nat) : Bool := match (port s p).geom with
  | some g => (poolSpan s p g).2.any fun o => decide (o.1 ≤ b % 65536 ∧ b % 65536 < o.2)
  | none => false

/-- A load whose old blocks are all erased is over (R112). -/
def loadsOver (s : State) : State := { s with ftl := { s.ftl with loads := s.ftl.loads.filter fun l => !(l.flipAt.isSome && l.oldBlocks == []) } }

/-- An erase has come back: the block is free again, its counters cleared; one that cannot be erased is bad. -/
def eraseBack (p pblock : Nat) (ok : Bool) (s : State) : State :=
  let s := { s with ftl := { s.ftl with relocs := s.ftl.relocs.filter fun r => !(r.port = p ∧ r.old = pblock ∧ r.step = 5) } }
  let s := loadsOver { s with ftl := { s.ftl with
    loads := s.ftl.loads.map fun l => if l.flipAt.isSome then { l with oldBlocks := l.oldBlocks.filter (· ≠ (p, pblock)) } else l } }
  if ok then
    giveBlock p pblock { s with ftl := { s.ftl with reads := adel s.ftl.reads (p, pblock), erases := aset s.ftl.erases (p, pblock) (eraseOf s p pblock (inTwinPool s p pblock) + 1) } }
  else markBad p pblock s

/-- Relocations of a range are abandoned: their new blocks return to the pool (R106). -/
def abandonRelocs (f : Reloc → Bool) (s : State) : State :=
  let gone := s.ftl.relocs.filter fun r => f r && decide (r.step = 1 ∨ r.step = 2 ∨ r.step = 3 ∨ r.step = 6)
  let s := gone.foldl (fun s r =>
    if r.step = 1 then s
    else setMap r.port r.odd r.lblock (fun m => { m with relocating := false, newBlock := 0, newDie := 0, newChan := 0 })
      (if r.step = 6 then markBad r.port r.new s else giveBlock r.port r.new s)) s
  { s with ftl := { s.ftl with relocs := s.ftl.relocs.filter fun r => !(f r && decide (r.step = 1 ∨ r.step = 2 ∨ r.step = 3 ∨ r.step = 6)) } }

/-! ## Dataset loads (R109 to R112) -/

/-- `s` with a load changed. -/
def setLoad (t : Nat) (f : DsLoad → DsLoad) (s : State) : State :=
  { s with ftl := { s.ftl with loads := modFirst (fun l => l.target = t) f s.ftl.loads } }

/-- A sector of the source is read for a row. The byte at a plane-local offset of the source's stripe goes to the same plane-local offset of the target's:
DESIGN CHOICE, the spec does not say how the two stripes correspond when their hashes differ (assumption 59). -/
def dsRead (l : DsLoad) (i : Nat) (s : State) : State :=
  match aget s.img.ranges l.source with
  | none => setLoad l.target (fun l => { l with left := l.left - 1, failed := true }) s
  | some e =>
    let loc := l.row * 131072 + i * 4096
    let (id, s) := takeId s
    let h : ReqHdr := {
      port := 0, rid := 0, part := e.owner, cls := 0, cmark := false, poison := false, tag := 0, reissue := false,
      addr := fabricOf e (planes s) (rolePlane s l.odd) loc, key := e.key }
    goLock id { s with mem := { s.mem with reqs := s.mem.reqs ++
      [{ id := id, hdr := h, kind := .loadStream 4096, src := .ds l.target (i * 4096), accAt := s.now, phase := .lock, view := some (l.source, e, l.odd), fgen := firnGen s l.source }] } }

/-- The ten columns of a row of 128 KiB (chapter 3, Stripes and the map): P and Q over the data units. -/
def dsCols (u : Nat) (row : Bytes) : List (Nat × Bytes) :=
  let ds := (List.range 8).map fun i => (i, slice row (i * 16384) 16384)
  (ds.map fun d => ((dataCols u).getD d.1 0, d.2)) ++ [(u % 10, parityP 16384 ds), ((u + 1) % 10, parityQ 16384 ds)]

/-- A row's columns are programmed into the new blocks, four sectors each. -/
def dsProgram (l : DsLoad) (s : State) : State :=
  let e := rangeOf s l.target
  let iset := isetOf s e.iset
  let fl := locateFlash (extentBase e l.odd + l.row * 131072) iset.length (isetUpb s iset)
  let row := l.buf.foldl (fun b d => overlay b d.1 d.2) (zeros 131072)
  (dsCols fl.u row).foldl (fun s c =>
    let p := iset.getD (fl.grp * 10 + c.1) 0
    match l.newMap.find? fun m => m.1 = p ∧ m.2.1 = fl.lblock with
    | none => setLoad l.target (fun l => { l with failed := true }) s
    | some m => (List.range 4).foldl (fun s k =>
        let w := issueFlash p (pblockOf m.2.2) fl.page k .flProg (slice c.2 (k * 4096) 4096) (ftlAcc s (.ds l.target) e.owner l.odd) s
        if w.1 then setLoad l.target (fun l => { l with left := l.left + 1 }) w.2
        else setLoad l.target (fun l => { l with failed := true }) w.2) s)
    (setLoad l.target (fun l => { l with stage := 2, left := 0, buf := [] }) s)

/-- A load that cannot go on is abandoned: its new blocks return to the pool. -/
def dsAbort (l : DsLoad) (s : State) : State :=
  let s := l.newMap.foldl (fun s m => giveBlock m.1 (pblockOf m.2.2) s) s
  bgDone 0x52 0 l.target .state 0 { s with ftl := { s.ftl with loads := s.ftl.loads.filter fun x => x.target ≠ l.target } }

/-- One step of a load: the row is read from the source once, then its ten columns are programmed (R109). -/
def dsStep (l : DsLoad) (s : State) : State :=
  if l.left ≠ 0 ∨ l.stage = 3 then s
  else if l.failed then dsAbort l s
  else match l.stage with
    | 0 =>
      if l.row ≥ l.rows then setLoad l.target (fun l => { l with stage := 3 }) s
      else
        let bytes := stripePages (rangeOf s l.target) (planes s) * 4096
        let n := min 32 ((bytes - l.row * 131072) / 4096)
        (List.range n).foldl (fun s i => dsRead l i s) (setLoad l.target (fun l => { l with stage := 1, left := n, buf := [] }) s)
    | 1 => dsProgram l s
    | _ => setLoad l.target (fun l => { l with stage := 0, row := l.row + 1 }) s

/-- A program of a load has come back. -/
def dsProgBack (t : Nat) (ok : Bool) (s : State) : State := setLoad t (fun l => { l with left := l.left - 1, failed := l.failed || !ok }) s

/-! ## What an access's answer leads to -/

/-- Bytes of a flash sector an access asked for. -/
def sectorPart (a : Acc) (data : Bytes) : Bytes := if a.len = 4096 then data else slice data a.off a.len

/-- The answer of an access goes to whom it was for; a rebuild's column is taken separately. -/
def deliverAcc (a : Acc) (st : Status) (data : Bytes) (s : State) : State :=
  match a.owner with
  | .req id i => reqPiece id i false st data s
  | .reqMac id i => reqPiece id i true st data s
  | .fill fid => fillBack fid a st data s
  | .replay rid tag => replayBack a rid tag st s
  | .ftl p b => relocBack a p b st data s
  | .ds t => dsProgBack t (decide (st = .ok)) s
  | .erase p b => eraseBack p b (decide (st = .ok)) s
  | .rebuild _ _ | .geom _ => s

/-! ## Rebuilds (R98, R99) -/

/-- `s` with a rebuild changed. -/
def setRebuild (n : Nat) (f : Rebuild → Rebuild) (s : State) : State :=
  { s with ftl := { s.ftl with rebuilds := modFirst (fun r => r.reb = n) f s.ftl.rebuilds } }

/-- Member index of a rebuild's column. -/
def rebMember (r : Rebuild) : Nat := r.grp * 10 + r.col

/-- The flash location a rebuild makes good. -/
def rebLoc (s : State) (r : Rebuild) : FlashLoc :=
  let upb := isetUpb s (isetOf s r.entry.iset)
  { grp := r.grp, u := r.u, col := r.col, member := rebMember r, lblock := r.u / upb, page := r.u % upb, sector := r.sector, byte := 0 }

/-- Fewer than eight correct copies have arrived and none is still out: the row is bad, and the access is answered POISON (R99). -/
def rebuildLost (n : Nat) (s : State) : State :=
  match s.ftl.rebuilds.find? fun r => r.reb = n with
  | none => s
  | some r =>
    if r.got.length + r.bad.length < 10 ∨ r.got.length ≥ 8 then s
    else
      let s := markRowBad r.range r.odd r.grp r.u (rebMember r) { s with ftl := { s.ftl with rebuilds := s.ftl.rebuilds.filter fun x => x.reb ≠ n } }
      match r.acc with
      | some a => deliverAcc a .poison [] s
      | none => s

/-- A column of a rebuild comes back. -/
def rebuildBack (n col : Nat) (ok : Bool) (data : Bytes) (s : State) : State :=
  rebuildLost n (setRebuild n (fun r => if ok then { r with got := r.got ++ [(col, data)] } else { r with bad := r.bad ++ [col] }) s)

/-- The other sectors of the unit are rebuilt for Firn. -/
def rebuildRest (r : Rebuild) (a : Acc) (s : State) : State :=
  let l := rebLoc s r
  ((List.range 4).filter (· ≠ r.sector)).foldl (fun s k =>
    let n := s.nextId
    setRebuild n (fun x => { x with acc := none }) (startRebuild { range := r.range, entry := r.entry, gen := r.gen, loc := { l with sector := k }, cols := r.cols } a s)) s

/-- Plane-local offset of a rebuild's sector. -/
def rebOffset (s : State) (r : Rebuild) : Nat :=
  let e := r.entry
  let g := (isetOf s e.iset).length / 10
  let k := (dataCols r.u).findIdx (· == r.col)
  (r.u * g + r.grp) * 131072 + k * 16384 + r.sector * 4096 - extentBase e r.odd

/-- FLASH_REBUILD (R98): eight correct copies are in hand; the sector is decoded, answers its access, and is written into Firn where it may, in the view of the read (R32, R93). -/
def flashRebuilt (n : Nat) (s : State) : State :=
  match s.ftl.rebuilds.find? fun r => r.reb = n with
  | none => s
  | some r =>
    if r.got.length < 8 then s
    else
      let data := decodeCol r.u r.col r.got
      let e := r.entry
      let l := rebLoc s r
      let p := (isetOf s e.iset).getD (rebMember r) 0
      let pb := pblockOf (colEnt s { range := r.range, entry := e, gen := r.gen, loc := l, cols := r.cols } r.odd r.col)
      let s := bumpG .ftlRebuild 1 { s with ftl := { s.ftl with rebuilds := s.ftl.rebuilds.filter fun x => x.reb ≠ n } }
      let s := if e.firn && decide (r.col ≠ r.u % 10 ∧ r.col ≠ (r.u + 1) % 10) then
          (firnWrite r.range r.odd r.gen e.owner (rebOffset s r) data false s).2 else s
      match r.acc with
      | none => s
      | some a =>
        let s := if diverted s p pb then s
          else requestReloc p pb (rebuildRest r a (flashEvent 0 (rebMember r) r.range r.odd r.u s))
        deliverAcc a .ok (sectorPart a data) s

/-! ## Answers by kind of tray -/

/-- An access of an engine's own request, not of a fill it caused. -/
def engOwn (a : Acc) : Bool := a.eng && match a.owner with
  | .req _ _ | .reqMac _ _ => true
  | _ => false

/-- A DRAM tray, or the twin for a rerouted access, has answered (R44, R45, R145). A late answer is discarded (R537). -/
def trayBack (eng : Bool) (aid : Nat) (st : Status) (data : Bytes) (s : State) : State :=
  match findAcc s aid with
  | none => s
  | some a =>
    if engOwn a ≠ eng ∨ a.state = .queued ∨ a.state = .held ∨ a.kind = .flRead ∨ a.kind = .flProg ∨ a.kind = .flErase ∨ a.kind = .flGeom then s
    else
      let s := accGone a s
      if a.state = .late then lateDone a s
      else deliverAcc a st (if a.kind = .load ∧ st = .ok then slice data 0 a.len else []) s

/-- A tray port of a flash tray: a pool of its blocks is divided, or a tier 3 range lies on it. -/
def flashTray (s : State) (p : Nat) : Bool :=
  (aget s.img.flashPool p).isSome || s.img.ranges.any fun e => e.2.valid && e.2.tier == 1 && decide (p ∈ isetOf s e.2.iset)

/-- The geometry of a flash tray is asked for (R94, Table 12.9). -/
def askGeom (p page : Nat) (s : State) : State :=
  let a : Acc := { aid := 0, port := p, kind := .flGeom, addr := 0, len := 4096, owner := .geom p, cls := 0, odd := ownOdd s, execEnd := s.now + 11000 }
  (issueFlash p 0 page 0 .flGeom [] a s).2

/-- A port that is UP to a flash tray whose geometry has not been admitted since, nor asked for, asks for it (R94, R396). -/
def geomStep (s : State) (e : Nat × PortRec) : State :=
  if decide (e.2.role = 1 ∧ e.2.protocol = 1) && portUp s e.1 && !(port s e.1).geomOk && flashTray s e.1 && !s.mem.accs.any fun a => a.owner == .geom e.1
  then askGeom e.1 0 s else s

/-- The flash machinery takes the steps that wait for nothing outside. -/
def stepFlash (s : State) : State :=
  let s := byPaste (fun s => s.img.ports.foldl geomStep s) s
  let s := s.ftl.rebuilds.foldl (fun s r => rebuildLost r.reb s) s
  byPaste (fun s =>
    let s := s.ftl.relocs.foldl (fun s r => relocStep r s) s
    s.ftl.loads.foldl (fun s l => dsStep l s) s) s

end Sys2Proof.Machine
end

