-- ==== Sys2Proof/Machine/Engines.lean ====
section
/-! DEFINITION. Every op of the engines by its code, the time limit of a flit, and what the engines, pins, relocations and loads do by themselves
at the end of each command. -/

namespace Sys2Proof.Machine

/-- One transition of a flit's op (Tables 7.3, 7.5, 7.9, 8.8, 9.1, 10.2, 11.1). -/
def opStep (f : Flit) (s : State) : State :=
  match fEngine f.word, fOp f.word with
  | 1, _ => stepProxy f s
  | 2, 1 => stepGroupArm f s
  | 2, 2 => stepGroupDisarm f s
  | 2, 3 => stepReduceMem f s
  | 3, _ => stepGtu f s
  | 4, 1 => stepCollDefine f s
  | 4, 2 => stepCollDrop f s
  | 4, 3 => stepAppend f s
  | 4, 4 => stepScan f s
  | 4, 5 => stepCompact f s
  | 4, 6 => stepCollRebase f s
  | 4, 7 => stepCollAck f s
  | 5, 1 => stepSeqOpen f s
  | 5, 2 => stepSeqClose f s
  | 5, 3 => stepPageMap f s
  | 5, 4 => stepKvAppend f s
  | 5, 5 => stepAttend f s
  | 6, 1 => stepScrAlloc f s
  | 6, 2 => stepScrFree f s
  | 6, 3 => stepScrFill f s
  | _, _ => s

/-- A flit goes on by itself: its record write has come back, or what its op waited for is there. A result write of an armed group that failed
faults the group (Table 8.7). -/
def settleFlit (s : State) (k : Nat × Nat) : State :=
  let s := recordBack k.1 k.2 s
  match flitAt s k.1 k.2 with
  | none => s
  | some f =>
    if f.prov then provStep f s
    else if fEngine f.word = 2 ∧ fOp f.word = 1 ∧ f.fin.isNone ∧ f.failed.isSome then
      (match f.failed with
       | some (st, d) => if f.out.isEmpty then groupFault (fw f.word 0x18 0 10) st d s else s
       | none => s)
    else opLoop opStep k.1 k.2 opFuel s

/-- The engines and the flash machinery go on as far as they can without an answer from outside. -/
def settleEng (s : State) : State :=
  stepReplay 65536 (stepPins (stepFlash (collSettle ((s.eng.flits.map fun f => (f.part, f.slot)).foldl settleFlit s))))

/-- A stream's unit whose every part is in hand is stored once and queued for its slot (R199, R141, R115). -/
def stepUnits (s : State) : State :=
  let done := s.ftm.units.filter fun u => u.left = 0
  if done = [] then s
  else done.foldl (fun s u =>
    let data := (sortBy (·.1) u.buf).flatMap (·.2)
    let h : StreamHdr := {
      port := 256, rid := 0, part := u.part, cls := 7, cmark := false, poison := u.poison, schedId := u.schedId, dest := u.dest, dkind := 1, seq := 0,
      payload := data }
    let x : StreamOut := { utype := 0xD0, hdr := h }
    multicast (.stream x) .sch u.cells (streamBytes x) u.part 7 u.poison false (some u.slot) (agetD s.img.mcasts u.dest {}).members s)
    { s with ftm := { s.ftm with units := s.ftm.units.filter fun u => u.left ≠ 0 } }

/-- What follows a command: calvings and flushes its answers have triggered, and the engines. -/
def settleAll (s : State) : State := settle (stepUnits (settleEng (settle s)))

/-- A command that may finish requests or accesses. -/
def runE (f : State → State) (s : State) : Outcome := run (fun s => settleAll (f s)) s

/-- The armed group of a GROUP_ARM flit. -/
def groupOfArm (s : State) (f : Flit) : Option Nat :=
  (s.eng.groups.find? fun e => decide (e.2.part = f.part ∧ e.2.armSlot = f.slot) && (decide (e.2.state = .armed) || decide (e.2.state = .draining))).map
    fun e => e.1

/-- The engine scratch of a running flit is lost (Table 14.2, R412): it ends POISON, detail 0x0B; an armed group is faulted, an open sequence closes, and a
flit whose output has begun finishes it (assumption 8). -/
def unitPoison (f : Flit) (s : State) : State :=
  match groupOfArm s f with
  | some g => groupFault g .poison 0x0B s
  | none =>
    match s.eng.seqs.find? fun (e : Nat × Seq) => e.2.part = f.part ∧ e.2.openSlot = f.slot with
    | some (ix, q) => endFlit f.part f.slot { status := .poison, detail := 0x0B, lo := q.attends % 2 ^ 32, hi := q.tokens % 2 ^ 32 } (freeSeq ix s)
    | none => if outputBegun f then s else releaseAnswer f (endOp f.part f.slot .poison 0x0B s)

/-- FLIT_TIME_LIMIT (R230, Tables 8.7, 10.10, 11.6). -/
def flitExpire (part slot : Nat) (s : State) : State :=
  match flitAt s part slot with
  | none => s
  | some f =>
    let ms := fTimeMs f.word
    if ms = 0 ∨ s.now < f.accAt + ms * 1000000 ∨ f.fin.isSome ∨ f.prov then s
    else if f.waiting then releaseAnswer f (endOp part slot .retryLater 0x09 s)
    else match fEngine f.word, fOp f.word with
      | 1, _ => if rg f 2 = 1 then s else endOp part slot .retryLater 0x09 s
      | 2, 1 => if rg f 2 = 1 then groupExpire (fw f.word 0x18 0 10) s else releaseAnswer f (endOp part slot .retryLater 0x09 s)
      | 5, 1 => releaseAnswer f (seqExpire part slot s)
      | _, _ => if outputBegun f then s else endOp part slot .retryLater 0x09 s

/-- ENG_CELL_RESERVE (R137): the flit's next access, result chunk or returned unit takes its cells and goes. -/
def cellReserve (part slot : Nat) (s : State) : State :=
  match flitAt s part slot with
  | none => s
  | some f =>
    if f.todo ≠ [] then engIssue part slot s
    else if fEngine f.word = 2 ∧ fOp f.word = 1 then retryChunks (fw f.word 0x18 0 10) s
    else attSend part slot s

end Sys2Proof.Machine
end

