-- ==== Sys2Proof/Machine/Ports.lean ====
section
/-! DEFINITION. How a port goes down (R144, R145, R372) and trains again (R370), drain markers (R67, R424), and what else follows from a lost
link: TARGET_LOST answers, the pair of twins (R427, R434). -/

namespace Sys2Proof.Machine

/-! ## Requests whose access cannot be answered -/

/-- A request is answered TARGET_LOST (R39, R144): what of it waits in a queue leaves, what was sent stays outstanding (R537). A tagged request's
outcome is recorded under its tag, and a write already mirrored is reported DONE. -/
def targetLost (id : Nat) (s : State) : State :=
  match findReq s id with
  | none => s
  | some r =>
    let s := dropQueued (accOf id) s
    if r.released then s
    else if kindTagged r.kind ∧ r.phase ≠ .fwd ∧ r.phase ≠ .joined then
      let s := recordAnswer id .targetLost 0 s
      let s := if r.phase = .auWrite && r.mirAck && twinUp s then sendTwin (.done r.hdr.rid r.hdr.tag) s else s
      auRelease id false s
    else finishRetire id .targetLost 0 [] s

/-- A request leaves its port's staging without an answer, because the port is down (R144). -/
def discardReq (id : Nat) (s : State) : State :=
  match findReq s id with
  | none => s
  | some r =>
    let s := dropQueued (accOf id) (notApplied r s)
    let s := poolGive .rsp r.quanta (setPort r.hdr.port (fun q => { q with rspUsed := q.rspUsed - r.quanta }) s)
    let s := if r.counted then outDec r.hdr.rid r.hdr.part s else s
    retire id (noteDone id .retryLater (setReq id (fun r => { r with released := true }) s))

/-- An unanswered request that a port's fall touches, counted at that port (PRT_FLUSH_LOST). -/
def flushLost (p id : Nat) (s : State) : State :=
  if (findReq s id).any fun r => !r.released then bumpP p .flushLost 1 s else s

/-- A piece of a request is lost with its path: a tagged request ends TARGET_LOST; another waits for its other pieces, and the first failing one decides
(R17). -/
def pieceLost (id i : Nat) (mac : Bool) (s : State) : State :=
  match findReq s id with
  | none => s
  | some r => if kindTagged r.kind then targetLost id s else reqPiece id i mac .targetLost [] s

/-- An access that a port's fall ends (R144, R537). What a request, a fill, a replay, a rebuild or a load waits for ends TARGET_LOST; a copy of
a relocation is read or programmed again, and an erase is asked for again. -/
def accLost (p : Nat) (a : Acc) (s : State) : State :=
  let s := if a.state = .queued ∨ a.state = .held then dropQueued (fun x => x.aid == a.aid) s else accGone a s
  if a.state = .late then lateDone a s
  else match a.owner with
    | .req id i => pieceLost id i false (flushLost p id s)
    | .reqMac id i => pieceLost id i true (flushLost p id s)
    | .fill fid => fillBack fid a .targetLost [] s
    | .replay rid tag => replayBack a rid tag .targetLost s
    | .rebuild n c => rebuildBack n c false [] s
    | .ds t => dsProgBack t false s
    | .erase q b => setReloc q b (fun r => if r.step = 5 then { r with step := 4 } else r) s
    | .ftl _ _ | .geom _ => s

/-! ## Drain markers (R67) -/

/-- A marker has returned: what waits for it goes on. -/
def markerBack (mid : Nat) (s : State) : State :=
  { s with mem := { s.mem with
      markers := s.mem.markers.filter fun m => m.mid ≠ mid
      reqs := s.mem.reqs.map fun r => { r with markers := r.markers.filter (· ≠ mid) } } }

/-- A marker goes down the path of port `p` behind the accesses `behind` (R67, R424). -/
def sendMarker (p why : Nat) (behind rids : List Nat) (s : State) : State :=
  let (n, s) := takeId s
  enqueueCtl p (.marker n) 32 { s with mem := { s.mem with markers := s.mem.markers ++ [
    { mid := n, port := p, why := why, sentAt := s.now, behind := behind, rids := rids }] } }

/-- Traffic returns from the twin's path to a tray port that is up again: a marker follows what is still out on the old path (R67). -/
def rerouteBack (p : Nat) (s : State) : State :=
  let out := s.mem.accs.filter fun a => a.viaTwin && a.port == p
  match out, twinPort s with
  | _ :: _, some t =>
    let n := s.nextId
    let waits (r : Req) : Bool := decide (r.phase = .fence) && out.any fun a => r.waits.any fun w => accOf w a
    let s := sendMarker t 0 (out.map (·.aid)) ((out.map (·.rid)).foldl addOnce []) s
    { s with mem := { s.mem with reqs := s.mem.reqs.map fun r => if waits r then { r with markers := r.markers ++ [n] } else r } }
  | _, _ => s

/-! ## The pair of twins after a lost link -/

/-- A range has addresses in the stripe of a role. -/
def onStripe (s : State) (e : RangeEntry) (odd : Bool) : Bool :=
  e.valid && (if e.pinned then decide (e.pinnedPlane = rolePlane s odd)
    else (stripeSpan e (planes s) (rolePlane s odd) (e.base * mib2) (e.size * mib2)).isSome)

/-- Partitions that own a range with addresses in a stripe. -/
def stripeOwners (s : State) (odd : Bool) : List Nat :=
  (s.img.ranges.filter fun e => onStripe s e.2 odd).map fun e => e.2.owner

/-- Partitions that hold the A right on a range of a stripe (R61). -/
def stripeAtomics (s : State) (odd : Bool) : List Nat :=
  (activeParts s).filter fun p => s.img.ranges.any fun e => onStripe s e.2 odd && (e.2.shared || e.2.owner == p) && (rightsFor e.2 p).a

/-- Several partitions are calved by one trigger, the lowest first. -/
def calveSome (cause : Nat) (parts : List Nat) (s : State) : State :=
  calve cause (allParts.filter fun p => decide (p ∈ parts)) s

/-- The pair is lost (R434). -/
def pairLost (s : State) : State :=
  let s := { s with twn := { s.twn with state := .lost, servesOwn := false, servesTwin := false, returning := false } }
  twinEvent 7 (calveSome 7 (stripeOwners s false ++ stripeOwners s true) s)

/-- Step 4 of Table 2.4 is past: the line is written, or an answer without a write is given. -/
def mirrorPast (id : Nat) (s : State) : State :=
  match findReq s id with
  | none => s
  | some r =>
    if r.phase ≠ .auMirror then s
    else if r.newLine ≠ [] then auWrite id s
    else auRelease id false (recordAnswer id r.finalSt r.result s)

/-- The drain of this plane is abandoned: it serves its own stripe and stays in RUN, and that is reported (R493). -/
def drainAbandon (s : State) : State :=
  if s.mgmt.state ≠ .draining then s
  else
    let s := bgDone 0x30 2 0 .state 0 { s with mgmt := { s.mgmt with state := .run }, twn := { s.twn with servesOwn := true } }
    twinEvent 10 s

/-- The twin link has gone down (R427, R61, R144): what went to the twin is answered TARGET_LOST and tagged requests skip the steps with the twin. The link
alone does not tell whether the twin has stopped serving, so that is a free bit (assumption 53): if it has not, what it executes meanwhile is
unmirrored (R61); if it has, a plane in resynchronisation
or drained loses the pair (R434, R493) and a drain is abandoned (R493); if not, resynchronisation starts again and a drain goes on. -/
def twinLinkLost (p : Nat) (s : State) : State :=
  let s := bumpG .hbMiss 1 { s with
    mem := { s.mem with mirrorActive := false, catchup := [] }
    twn := { s.twn with pairKey := none, s2ok := false } }
  let s := ((s.mem.reqs.filter fun r => r.phase = .fwd).map (·.id)).foldl (fun s id => targetLost id (flushLost p id s)) s
  let s := ((s.mem.reqs.filter fun r => r.phase = .auMirror).map (·.id)).foldl (fun s id => mirrorPast id s) s
  let s := ((s.mem.reqs.filter fun r => decide (r.phase = .auDone) && r.released).map (·.id)).foldl (fun s id => retire id s) s
  let (gone, s) := freeBit s
  let s := if gone then s else { s with mem := { s.mem with mirrorGap := true } }
  let stopped := gone && decide (s.twn.state = .resyncDst ∨ s.twn.returning ∨ s.mgmt.state = .draining ∨ s.mgmt.state = .drained)
  if stopped then (if s.mgmt.state = .draining then { drainAbandon s with twn := { (drainAbandon s).twn with state := .alone } } else pairLost s)
  else match s.twn.state with
  | .resyncDst | .paired => { s with twn := { s.twn with state := .alone, resyncPct := 0 } }
  | .resyncSrc => { s with twn := { s.twn with state := .adopted, resyncPct := 0 } }
  | _ => s

/-! ## Catch-up of the mirror (R61) -/

/-- Entries recorded without mirroring and still held. -/
def unmirrored (s : State) : List IdemEnt := s.mem.idem.filter fun e => decide (e.state = .recorded) && !e.mirrored

/-- Mirroring can resume: what was recorded without it is sent as shadow entries; with nothing to send it is active at once. -/
def startCatchup (s : State) : State :=
  if !(s.mem.mirrorEn && twinUp s) then s
  else
    let es := unmirrored s
    let s := es.foldl (fun s e => sendTwin (.mirror (doneEnt e) (ownClaims s)) s) s
    { s with mem := { s.mem with
      catchup := es.map fun e => (e.rid, e.tag), mirrorActive := es.isEmpty, mirrorGap := s.mem.mirrorGap && !es.isEmpty } }

/-! ## Down and training -/

/-- Units of the queues of a port are discarded (R144): responses and control units give back their quanta and cells, markers return. -/
def flushQueues (p : Nat) (s : State) : State :=
  let q := port s p
  let s := purgePort p (fun _ => true) s
  let s := q.rspQ.foldl (fun s d => let s := descGone d s; if d.counted then outDec (match d.item with
    | .rsp _ r => r.rid
    | _ => 0) d.part s else s) s
  let s := q.ctlQ.foldl (fun s d => descGone d s) s
  let s := poolGive .ctl (sumOf (q.ctlHeld.map (·.2))) s
  let s := setPort p (fun x => { x with rspQ := [], ctlQ := [], ctlWait := [], ctlHeld := [], rspUsed := x.rspUsed - sumOf (q.rspQ.map (·.cells)) }) s
  ((s.mem.markers.filter fun m => m.port = p).map (·.mid)).foldl (fun s m => markerBack m s) s

/-- The staging of a port and its part of Whey are discarded (R144). -/
def flushStaging (p : Nat) (s : State) : State :=
  let us := (port s p).stg
  let s := us.foldl (fun s u => match u.item with
    | .req id => discardReq id s
    | .stream x _ held => if held then poolGive .shr (streamCells x) s else s
    | .frame .. | .dead => s) s
  setPort p (fun q => { q with stg := [] }) s

/-- Grants a port has issued lapse, and their cells with them (R206). -/
def dropGrants (p : Nat) (s : State) : State :=
  let q := port s p
  let n := sumOf (q.grantsOut.map (·.cells)) + (q.capGrant.map (·.cells)).getD 0
  poolGive .shr n (setPort p (fun q => { q with grantsOut := [], capGrant := none, grantsIn := [] }) s)

/-- REQUESTER and UPLINK ports are held DISABLED but in RUN and DRAINING (Table 16.2). -/
def heldPort (s : State) (p : Nat) : Bool :=
  decide ((portRec s p).role = 0 ∨ (portRec s p).role = 3) && !(decide (s.mgmt.state = .run) || decide (s.mgmt.state = .draining))

/-- A lane of the port lies in an octet whose UCIe module has failed (R355). -/
def octetOut (s : State) (p : Nat) : Bool :=
  let r := portRec s p
  s.flt.modulesOut.any fun m => decide (r.firstLane / 8 ≤ m ∧ m ≤ (r.firstLane + r.width - 1) / 8)

/-- A port starts at step T1 (R370). A CXL or Ethernet port waits for its link (R374); a failed module keeps its ports failed (R355); in Park every
port is down (Table 17.4). -/
def portRestart (p : Nat) (s : State) : State :=
  let r := portRec s p
  let off := heldPort s p
  let park := decide (s.mgmt.state = .parked)
  let out := octetOut s p
  setPort p (fun q =>
    let q := { q with
      link := if out then .failed else if park then .down else if q.disable || off then .disabled else if r.protocol = 1 then .training else .down
      trainStep := 0, attempts := 0, gen := if r.maxRate = 6 then 1 else 2, stepAt := s.now, capFailed := false, widthNow := 0, rateNow := 0, laneMask := 0
      txSeq := 0, unacked := [], items := [], resends := 0, rxExp := 0, rxUnacked := 0, nakAt := none, rxCmd := [], rxStm := [], rxUnits := [],
      farReq := 0, farMsg := 0, ownReq := 0, ownMsg := 0, lastTos := none, lastTosPs := (0, 0), tosRxAt := none, delayAt := none, idle := false, paced := false, geomOk := false }
    { q with trainStep := if q.link = .training then 1 else 0 }) s

/-- What only a tray port's fall brings: Paste reports it with the partitions that have a range behind it (R426). -/
def trayDownReport (p : Nat) (s : State) : State :=
  if portIs s p 1 1 || portIs s p 2 1 then
    emit (.trayDown p (allParts.filter fun a => s.img.ranges.any fun e => e.2.valid && e.2.owner == a && decide (p ∈ isetOf s e.2.iset))) s
  else s

/-- Answers of the requests that came in by a port are discarded from now on (R144). -/
def loseAnswers (p : Nat) (s : State) : State :=
  { s with mem := { s.mem with reqs := s.mem.reqs.map fun r => match r.src with
      | .bamom | .cxl _ => if r.hdr.port = p then { r with gone := true } else r
      | .twin _ => if twinPort s = some p then { r with gone := true } else r
      | _ => r } }

/-- A port goes down with a cause (R372): DOWN is sent if it can be, R144 is applied, the cause is recorded, and the port restarts. -/
def portGoesDown (p cause : Nat) (s : State) : State :=
  let up := portUp s p
  let s := if up && decide ((portRec s p).protocol = 1) && decide (cause ≠ 6) then wireOut p (.item (.down cause)) s else s
  let s := setPort p (fun q => { q with link := .down, downLog := q.downLog.orElse fun _ => some (cause, ft s) }) s
  let s := if s.ftm.source = 4 ∧ s.ftm.refPort = p ∧ s.ftm.qualified then disqualify s else s
  let s := if up then
      let s := flushStaging p s
      let twin := decide (twinPort s = some p)
      let gone := s.mem.accs.filter fun a => if a.viaTwin then twin else a.port == p
      let s := gone.foldl (fun s a => match findAcc s a.aid with
        | some a => accLost p a s
        | none => s) s
      let s := flushQueues p s
      let s := if twin then twinLinkLost p s else s
      trayDownReport p (groupPortDown p (loseAnswers p s))
    else s
  portRestart p (dropGrants p s)

end Sys2Proof.Machine
end

