-- ==== Sys2Proof/Machine/Mem.lean ====
section
/-! DEFINITION. The memory requests of Table 2.2 as they arrive on a requester's port: each is staged and accepted (R38, R118), leaves its command
FIFO under its limits (R154), passes the checks of Table 1.6 and goes its way (`arriveBamom`). -/

namespace Sys2Proof.Machine

/-- LOAD_LINE (R45, Table 2.2). -/
def execLoadLine (h : ReqHdr) (s : State) : Outcome := runE (arriveBamom h .loadLine) s

/-- LOAD_STREAM (R45, R17, R362). -/
def execLoadStream (h : ReqHdr) (len : Nat) (s : State) : Outcome := runE (arriveBamom h (.loadStream len)) s

/-- STORE_LINE (R44). -/
def execStoreLine (h : ReqHdr) (data : Bytes) (s : State) : Outcome := runE (arriveBamom h (.storeLine data)) s

/-- STORE_MASKED (R46). -/
def execStoreMasked (h : ReqHdr) (data : Bytes) (mask : Word64) (s : State) : Outcome := runE (arriveBamom h (.storeMasked data mask)) s

/-- STORE_GUARDED (R62). -/
def execStoreGuarded (h : ReqHdr) (data : Bytes) (s : State) : Outcome := runE (arriveBamom h (.storeGuarded data)) s

/-- AT_ADD (R42, R51, Table 2.2). -/
def execAtAdd (h : ReqHdr) (opa : Word64) (s : State) : Outcome := runE (arriveBamom h (.atomic .add opa)) s

/-- AT_AND (R42, R51, Table 2.2). -/
def execAtAnd (h : ReqHdr) (opa : Word64) (s : State) : Outcome := runE (arriveBamom h (.atomic .and opa)) s

/-- AT_OR (R42, R51, Table 2.2). -/
def execAtOr (h : ReqHdr) (opa : Word64) (s : State) : Outcome := runE (arriveBamom h (.atomic .or opa)) s

/-- AT_XOR (R42, R51, Table 2.2). -/
def execAtXor (h : ReqHdr) (opa : Word64) (s : State) : Outcome := runE (arriveBamom h (.atomic .xor opa)) s

/-- AT_SWAP (R42, R51, Table 2.2). -/
def execAtSwap (h : ReqHdr) (opa : Word64) (s : State) : Outcome := runE (arriveBamom h (.atomic .swap opa)) s

/-- AT_MIN (R42, R51, Table 2.2). -/
def execAtMin (h : ReqHdr) (opa : Word64) (s : State) : Outcome := runE (arriveBamom h (.atomic .min opa)) s

/-- AT_MAX (R42, R51, Table 2.2). -/
def execAtMax (h : ReqHdr) (opa : Word64) (s : State) : Outcome := runE (arriveBamom h (.atomic .max opa)) s

/-- AT_UMIN (R42, R51, Table 2.2). -/
def execAtUmin (h : ReqHdr) (opa : Word64) (s : State) : Outcome := runE (arriveBamom h (.atomic .umin opa)) s

/-- AT_UMAX (R42, R51, Table 2.2). -/
def execAtUmax (h : ReqHdr) (opa : Word64) (s : State) : Outcome := runE (arriveBamom h (.atomic .umax opa)) s

/-- CAS64 (R42, R51). -/
def execCas64 (h : ReqHdr) (cmp swp : Word64) (s : State) : Outcome := runE (arriveBamom h (.cas64 cmp swp)) s

/-- CAS128 (R42, R43, R51). -/
def execCas128 (h : ReqHdr) (cmp swp : BitVec 128) (s : State) : Outcome := runE (arriveBamom h (.cas128 cmp swp)) s

/-- FLUSH_RANGE (R63, R64). -/
def execFlushRange (h : ReqHdr) (len : Nat) (s : State) : Outcome := runE (arriveBamom h (.flushRange len)) s

/-- FENCE (R66, R68). -/
def execFence (h : ReqHdr) (s : State) : Outcome := runE (arriveBamom h .fence) s

/-- PUBLISH (R63, R70). -/
def execPublish (h : ReqHdr) (rbase rlen : Nat) (expd new : Word64) (s : State) : Outcome := runE (arriveBamom h (.publish rbase rlen expd new)) s

/-- OP_FLIT (R212, R217). -/
def execOpFlit (h : ReqHdr) (flit : BitVec 512) (s : State) : Outcome := runE (arriveBamom h (.opFlit flit)) s

end Sys2Proof.Machine
end

