-- ==== Sys2Proof/Machine/Path.lean ====
section
/-! DEFINITION. The request path after acceptance (chapters 1 and 2): the twin's part of it, tray answers, deadlines, line locks, the mirror of the
atomic unit, fences, drain markers and the device level. -/

namespace Sys2Proof.Machine

/-! ## The twin serves or has served a request (R13) -/

/-- TWIN_FORWARDED_REQUEST (R13): the twin has checked and policed the request, and sends the view its step 1 took (R32); it is executed as accepted
when the twin accepted it. The checks are not made again; a partition that this plane has itself calved executes nothing any more (R419). -/
def twinRequest (ref : Nat) (h : ReqHdr) (k : ReqKind) (acceptedAt range : Nat) (e : RangeEntry) (region : Option (Nat × RangeEntry)) (s : State) : State :=
  if !twinUp s then s
  else
    let sv : Serve := match k with
      | .flushRange n => serveFlush s e h.addr n
      | _ => serve s (servingPlane s e h.addr)
    let (id, s) := takeId s
    let s := { s with mem := { s.mem with reqs := s.mem.reqs ++ [{
      id := id, hdr := h, kind := k, src := .twin ref, accAt := acceptedAt, phase := .lock, fgen := firnGen s range,
      view := some (range, e, servingPlane s e h.addr % 2 == 1), region := region, covered := kindWrite k }] } }
    if partState s h.part = 2 then finishRetire id .partitionDown 0 [] s
    else if sv = .lost then finishRetire id .targetLost 0 [] s
    else if sv ≠ .here then finishRetire id .retryLater 0 [] s
    else dispatch id false s

/-- Row TWIN_FORWARDED_REQUEST. -/
def execTwinForwardedRequest (ref : Nat) (h : ReqHdr) (k : ReqKind) (view : FwdView) (s : State) : Outcome :=
  runE (twinRequest ref h k view.acceptedAt view.range view.e view.region) s

/-- FORWARDED_RESPONSE (R13): the twin's answer goes to the requester with this plane's LOAD field (R72). -/
def execForwardedResponse (ref : Nat) (r : Rsp) (s : State) : Outcome :=
  runE (fun s => match findReq s ref with
    | some q => if q.phase = .fwd then finishRetire ref r.status r.result r.data s else s
    | none => s) s

/-! ## Trays (R44, R39, R537) -/

/-- TRAY_RESPONSE (R44, R45): a tray answers an access of a request, a fill, a replay, or the twin one that was rerouted. -/
def execTrayResponse (aid : Nat) (st : Status) (data : Bytes) (s : State) : Outcome := runE (trayBack false aid st data) s

/-- A request in its dispatch phase (Table 2.1). -/
def inDispatch (r : Req) : Bool :=
  r.dispAt.isNone && (decide (r.phase = .fifo) || decide (r.phase = .lock) || decide (r.phase = .rsp) || decide (r.phase = .admitting)
    || decide (r.phase = .queued) || decide (r.phase = .fill))
    && match r.src with
      | .eng _ | .tap | .gwLoc .. | .ds .. | .strm .. => false
      | _ => true

/-- A submission whose acceptance is still open when its dispatch deadline passes is withdrawn: it waits under fence_before, or for its descriptor block. It
is answered RETRY_LATER and leaves nothing behind but its refusal (R39, R217; assumption 41). -/
def submitExpire (id : Nat) (s : State) : State :=
  match s.eng.flits.find? fun f => f.answer = some id with
  | none => s
  | some f =>
    if !(f.waiting || f.prov) || f.fin.isSome then s
    else
      let s := f.out.foldl (fun s o => forget o.req s) (poolGive .eng (sumOf (f.out.map (·.cells))) s)
      let s := granFree f.granules { s with eng := { s.eng with flits := delFirst (fun x => x.part = f.part ∧ x.slot = f.slot) s.eng.flits } }
      finishRetire id .retryLater 0 [] (refuseFlit f.part f.slot f.word .retryLater .opfRefuse (bumpG .deadlineDisp 1 s))

/-- The payload of a request answered from its header stays in its FIFO until it comes to the head (R122). -/
def payloadStays (r : Req) (s : State) : State :=
  setPort r.hdr.port (fun q => { q with stg := q.stg.map fun u => if u.item = .req r.id then { u with item := .dead } else u }) s

/-- DISPATCH_DEADLINE (R39): 3 us after acceptance an undispatched request is answered RETRY_LATER, and with it the retries that joined it. -/
def dispatchExpire (id : Nat) (s : State) : State :=
  match findReq s id with
  | none => s
  | some r =>
    if s.now < r.accAt + 3000 then s
    else if r.phase = .auDone ∧ !kindTagged r.kind then submitExpire id s
    else if !inDispatch r then s
    else
      let joined := if kindTagged r.kind then (findIdem s r.hdr.rid r.hdr.tag).elim [] (·.joined) else []
      let s := dropQueued (accOf id) (notApplied r (bumpG .deadlineDisp 1 s))
      let s := if r.phase = .fifo then payloadStays r s else s
      let s := finishRetire id .retryLater 0 [] s
      let s := joined.foldl (fun s j => finishRetire j .retryLater 0 [] s) s
      pump r.hdr.port (s.mem.reqs.length + 1) s

/-- Row DISPATCH_DEADLINE. -/
def execDispatchDeadline (req : Nat) (s : State) : Outcome := runE (dispatchExpire req) s

/-- A tray port is reported as suspect (R39). -/
def suspectPort (p : Nat) (s : State) : State := emit (.traySuspect p) { s with mem := { s.mem with suspect := addOnce s.mem.suspect p } }

/-- The first byte of [off, off + len) of a fill that has not come back. -/
def fillMissing (f : Fill) (off len : Nat) : Nat :=
  off + (((List.range (len / 64 + 1)).map fun i => min (i * 64) (len - 1)).find? fun i => !fillDone f (off + i) 1).getD len

/-- What a load that waits for a fill ends with at its execution deadline: the first of its pieces that has failed, or whose MAC does not match, when that
lies before the first that has not come back, which has failed TARGET_LOST (R17, R39). -/
def fillExpired (s : State) (f : Fill) (e : RangeEntry) (off len : Nat) : Status :=
  let m := fillMissing f off len
  let x := fillFail f off len
  let cut := min m ((x.map (·.1)).getD m)
  let macs := (List.range ((cut - off) / 64)).all fun i => f.macs.any fun d => decide (8 * d.1 ≤ off + 64 * i) && decide (off + 64 * i < 8 * (d.1 + d.2.length))
  if decide (off < cut) && macs && (fillOpen s f e off (cut - off)).isNone then .poison
  else match x with
    | some (o, st) => if o ≤ m then st else .targetLost
    | none => .targetLost

/-- The fill a load waits for. -/
def fillWaited (s : State) (id : Nat) : Option Fill := s.hbm.fills.find? fun f => decide (id ∈ f.waiters)

/-- The execution deadline of a request has passed: what has not come back has failed TARGET_LOST, and the first failing piece decides (R17, R39). -/
def expired (id : Nat) (s : State) : State :=
  match findReq s id with
  | none => s
  | some r =>
    let lost (p : Piece) : Piece := if p.done then p else { p with done := true, status := .targetLost }
    let st := pieceStatus { r with pieces := r.pieces.map lost, macs := r.macs.map lost }
    if r.phase = .fill then
      match fillWaited s id, r.view with
      | some f, some (_, e, _) => finishRetire id (fillExpired s f e (planeLocal r.hdr.addr e (planes s) % 4096) (kindLen r.kind)) 0 [] s
      | _, _ => targetLost id s
    else if kindTagged r.kind ∨ r.pieces = [] ∨ st = .ok then targetLost id s
    else if kindLoad r.kind && r.view.any fun v => macFirst s { r with pieces := r.pieces.map lost, macs := r.macs.map lost } v.2.1 r.hdr.addr then
      finishRetire id .poison 0 [] (dropQueued (accOf id) (bumpG .sealMacErr 1 s))
    else finishRetire id st 0 [] (dropQueued (accOf id) s)

/-- EXECUTION_DEADLINE (R39): 11 us after dispatch the request is answered TARGET_LOST and the tray ports it waits for are suspect. The replay of
a shadow entry has the same bound (R60); its operand is the access. -/
def execExpire (id : Nat) (s : State) : State :=
  match findReq s id with
  | some r =>
    match r.dispAt with
    | none => s
    | some t =>
      if r.released ∨ r.phase = .fence ∨ s.now < t + 11000 then s
      else
        let ps := ((s.mem.accs.filter fun a => decide (id ∈ servedBy s a) && decide (a.state = .sent) && !a.viaTwin).map (·.port)).foldl addOnce []
        expired id (ps.foldl (fun s p => suspectPort p s) (bumpG .deadlineExec 1 s))
  | none => match findAcc s id with
    | some a => match a.owner with
      | .replay rid tag =>
        if a.state ≠ .sent ∨ s.now < a.execEnd then s
        else
          let s := suspectPort a.port (bumpG .deadlineExec 1 s)
          shadowDone rid tag false { s with mem := { s.mem with accs := modAll (fun x => x.aid == id) (fun x => { x with state := .late }) s.mem.accs } }
      | _ => s
    | none => s

/-- Row EXECUTION_DEADLINE. -/
def execExecutionDeadline (req : Nat) (s : State) : Outcome := runE (execExpire req) s

/-- TRAY_ANSWER_TIMEOUT (R537): an access still unanswered 1 ms after its execution deadline takes its tray port down, cause 9. -/
def execTrayAnswerTimeout (aid : Nat) (s : State) : Outcome :=
  runE (fun s => match findAcc s aid with
    | some a => if a.state ≠ .queued ∧ a.state ≠ .held ∧ !a.viaTwin ∧ a.execEnd ≠ 0 ∧ s.now ≥ a.execEnd + 1000000 then portGoesDown a.port 9 s else s
    | none => s) s

/-! ## Line locks and the mirror (R51, R59 to R61) -/

/-- LINE_LOCK_ACQUIRED (R51): a waiting request takes its lock, if it may, and goes on. -/
def execLineLockAcquired (req : Nat) (s : State) : Outcome :=
  runE (fun s => match findReq s req with
    | some r =>
      if r.phase ≠ .lock then s
      else match r.kind with
        | .publish .. => if r.stage = 2 then casStart req s else goLock req s
        | _ => goLock req s
    | none => s) s

/-- MIRROR_ACK (R59): the twin holds the entry; the round trip is noted, and the line is written or the answer released. -/
def execMirrorAck (req : Nat) (s : State) : Outcome :=
  runE (fun s => match findReq s req with
    | some r =>
      if r.phase ≠ .auMirror then s
      else mirrorPast req <| setReq req (fun r => { r with mirAck := true }) { s with mem := { s.mem with
        mirrorRtt := s.now - agetD s.mem.mirrorAt req s.now, mirrorAt := adel s.mem.mirrorAt req } }
    | none => s) s

/-- MIRROR_DONE (R59): the shadow entry is DONE; one whose 256 us have passed is freed. -/
def execMirrorDone (rid tag : Nat) (s : State) : Outcome :=
  runE (fun s =>
    if !twinUp s then s
    else sendTwin (.doneAck rid tag) (setShadow rid tag (fun e => { e with ent := { e.ent with done := true } }) s)) s

/-- MIRROR_DONE_ACK (R59): the line lock is released. -/
def execMirrorDoneAck (req : Nat) (s : State) : Outcome :=
  runE (fun s => match findReq s req with
    | some r => if r.phase = .auDone ∧ r.released then retire req s else s
    | none => s) s

/-- IDEM_ENTRY_EXPIRE (R55): an entry is freed 256 us after its answer. -/
def execIdemEntryExpire (rid tag : Nat) (s : State) : Outcome :=
  runE (fun s => match findIdem s rid tag with
    | some e => match e.ansAt with
      | some t =>
        if s.now < t + 256000 then s
        else { s with mem := { s.mem with idem := s.mem.idem.filter fun e => !(e.rid == rid && e.tag == tag) } }
      | none => s
    | none => s) s

/-- SHADOW_ENTRY_FREE (R59): a shadow entry is freed 256 us after it was stored, or kept until it is DONE. -/
def execShadowEntryFree (rid tag : Nat) (s : State) : Outcome :=
  runE (fun s => match s.mem.shadow.find? fun e => e.ent.rid = rid ∧ e.ent.tag = tag with
    | some e =>
      if s.now < e.storedAt + 256000 then s
      else if e.ent.done || e.ent.running then { s with mem := { s.mem with shadow := s.mem.shadow.filter fun e => !(e.ent.rid == rid && e.ent.tag == tag) } }
      else setShadow rid tag (fun e => { e with overdue := true }) s
    | none => s) s

/-- The twin has acknowledged the catch-up: mirroring is active, unless more was recorded meanwhile, which is sent next (R61). -/
def catchupDone (s : State) : State :=
  if s.mem.catchup = [] ∨ !(s.mem.mirrorEn && twinUp s) then s
  else
    let c := s.mem.catchup
    startCatchup { s with mem := { s.mem with
      catchup := [], idem := s.mem.idem.map fun e => if (e.rid, e.tag) ∈ c then { e with mirrored := true } else e } }

/-- Row MIRROR_CATCHUP_DONE. -/
def execMirrorCatchupDone (s : State) : Outcome := runE catchupDone s

/-! ## Fences and markers (R66 to R68) -/

/-- FENCE_COMPLETE (R66, R68): nothing it covers is outstanding, or something of it failed. -/
def execFenceComplete (req : Nat) (s : State) : Outcome := runE (fenceTry req) s

/-- FENCE_TIMEOUT (R68): 16 us after its acceptance a FENCE with work outstanding ends FENCE_INCOMPLETE. -/
def execFenceTimeout (req : Nat) (s : State) : Outcome :=
  runE (fun s => match findReq s req with
    | some r => if r.phase = .fence ∧ s.now ≥ r.accAt + 16000 then fenceFail req s else s
    | none => s) s

/-- DRAIN_MARKER_RETURN (R67): the old path has answered everything ahead of the marker. -/
def execDrainMarkerReturn (mid : Nat) (s : State) : Outcome :=
  runE (fun s => match s.mem.markers.find? fun m => m.mid = mid with
    | some m => if m.behind = [] then markerBack mid s else s
    | none => s) s

/-! ## The device level (R72) -/

/-- LOAD_WINDOW_END (R72): the worst state of the window is what responses carry from now on, and a window begins in the present state. -/
def loadWindowEnd (s : State) : State :=
  track { s with mem := { s.mem with
    winIx := ft s / 64000
    loadLevel := s.mem.winLevel, loadVatPct := s.mem.winVat, loadWheyPct := s.mem.winWhey, loadThrottle := s.mem.winThrottle, loadDone := true
    winLevel := 0, winVat := 0, winWhey := 0, winThrottle := false } }

/-- Row LOAD_WINDOW_END: FT has reached the multiple of 64,000 ns that ends the window in progress (R72); a step of FT ends one itself (R181). -/
def execLoadWindowEnd (s : State) : Outcome := runE (fun s => if ft s / 64000 = s.mem.winIx then s else loadWindowEnd s) s

/-! ## The mirror's control (R77) -/

/-- A partition holds the A right on some range. -/
def someAtomics (s : State) : Bool := s.img.ranges.any fun e => e.2.valid && (e.2.ownerRights.a || (e.2.shared && e.2.otherRights.a))

/-- AU_CTL_WRITE (R77): Paste writes mirror_en, only while no partition holds the A right on any range; a request whose step 1 is past keeps the setting
it found. -/
def auCtlWrite (v : Word64) (s : State) : State :=
  if someAtomics s then s
  else
    let en := bitAt v.toNat 0
    let was := s.mem.mirrorEn
    let old (r : Req) : Req := if en || !was then r else { r with mirrored := r.mirrored && s.mem.mirrorActive }
    let s := { s with mem := { s.mem with
      mirrorEn := en, mirrorActive := s.mem.mirrorActive && en, mirrorSound := s.mem.mirrorSound && en, reqs := s.mem.reqs.map old } }
    if en && !was then startCatchup s else s

/-- Row AU_CTL_WRITE. -/
def execAuCtlWrite (v : Word64) (s : State) : Outcome := runE (byPaste (auCtlWrite v)) s

end Sys2Proof.Machine
end

