-- ==== Sys2Proof/Machine/Cxl.lean ====
section
/-! DEFINITION. CXL.mem transactions of host ports (R29, R31, R48, R74 to R76, R233). -/

namespace Sys2Proof.Machine

/-- A CXL.mem transaction takes a request credit of its port, and a write a data credit beside it (R376, R160). -/
def cxlTake (p : Nat) (wr : Bool) (s : State) : State :=
  setPort p (fun q => { q with cxlReq := q.cxlReq - 1, cxlDat := q.cxlDat - b2n wr }) s

/-- A CXL.mem transaction arrives on a host port (R74) under the credits of Table 12.10; at 64 GT/s the port's FEC has run. A host sends none without its
credits, so one that comes without them changes nothing. -/
def cxlArrive (p dpa : Nat) (poison : Bool) (k : ReqHdr → ReqKind) (s : State) : State :=
  let none := k { port := p, rid := 0, part := 0, cls := 0, cmark := false, poison := poison, tag := 0, reissue := false, addr := 0, key := 0 }
  if portIs s p 2 0 && portUp s p && decide (1 ≤ (port s p).cxlReq) && (kindLoad none || decide (1 ≤ (port s p).cxlDat)) then
    let s := cxlTake p (!kindLoad none) (if (port s p).rateNow = 5 then fecSeen p s else s)
    match windowAt s p dpa with
    | .none => cxlReturn p (noWindow p dpa none s)
    | some w =>
      let h := windowHdr s w p dpa poison
      cxlCredits p (arrive h (k h) (.cxl (!kindLoad (k h))) dpa s)
  else s

/-- CXL_MEMRD (R74): a LOAD_LINE. -/
def execCxlMemrd (port dpa : Nat) (s : State) : Outcome := runE (cxlArrive port dpa false fun _ => .loadLine) s

/-- CXL_MEMWR (R74, R233). -/
def execCxlMemwr (port dpa : Nat) (data : Bytes) (s : State) : Outcome := runE (cxlArrive port dpa false (fullLine data)) s

/-- CXL_MEMWRPTL (R74): a STORE_MASKED, which step 3 refuses in aperture space (R233). -/
def execCxlMemwrptl (port dpa : Nat) (data : Bytes) (mask : Word64) (s : State) : Outcome :=
  runE (cxlArrive port dpa false fun _ => .storeMasked (slice data 0 64) mask) s

/-- CXL_MEMWR_POISON (R48): the line is stored with the poison marker. To a submission slot, where the spec says nothing of poison, it is taken as an
ordinary OP_FLIT: DESIGN CHOICE (assumption 61). -/
def execCxlMemwrPoison (port dpa : Nat) (data : Bytes) (s : State) : Outcome := runE (cxlArrive port dpa true (fullLine data)) s

/-- CXL_WERR_COMPLETION (R75): a failed write is completed normally once K1 has set its partition DOWN. -/
def werrComplete (id : Nat) (s : State) : State :=
  match findReq s id with
  | none => s
  | some r =>
    if r.phase ≠ .werr ∨ partActive s r.hdr.part then s
    else retire id (portAnswer r (rspOf s r r.finalSt 0 []) s)

/-- Row CXL_WERR_COMPLETION. -/
def execCxlWerrCompletion (req : Nat) (s : State) : Outcome := runE (werrComplete req) s

end Sys2Proof.Machine
end

