-- ==== Sys2Proof/Machine/Switch.lean ====
section
/-! DEFINITION. The switch core (chapters 4, 5, 6 and 12): frames and stream units that arrive, staging, what an uncorrectable Vat cell leads to,
and what an egress port sends next. -/

namespace Sys2Proof.Machine

/-! ## Stream units that arrive (R361, R200, R205 to R207) -/

/-- Slot time of a window entry, widened by one slot at each end, holds slot `t` of a frame (R200). -/
def winOpen (w : SchWinRec) (t : Nat) : Bool :=
  let d := (t + 1 + 65536 - w.start % 65536) % 65536
  let r := if w.period = 0 then 0 else min w.rep (d / w.period)
  decide (d - r * w.period ≤ w.len + 1)

/-- Slots from slot `t` of a frame to the end of the repeat of an open window. -/
def winLeft (w : SchWinRec) (t : Nat) : Nat :=
  let d := (t + 1 + 65536 - w.start % 65536) % 65536
  w.len + 1 - (d - (if w.period = 0 then 0 else min w.rep (d / w.period)) * w.period)

/-- The windows of a flow that are open on a port, with their indices (R200). -/
def openWindows (s : State) (schedId p : Nat) : List (Nat × SchWinRec) :=
  s.ftm.active.wins.filter fun w => decide (w.2.schedId = schedId ∧ w.2.port = p) && winOpen w.2 (ftSlot s % 65536)

/-- The window has allowance left for `n` bytes. -/
def winHolds (s : State) (n : Nat) (w : Nat × SchWinRec) : Bool := decide (agetD s.ftm.sent w.1 0 + n ≤ w.2.slotBytes * w.2.len)

/-- The open window that a unit of `n` bytes is counted in: of several, that which ends first of those whose allowance holds it (R200, R204, assumption 58). -/
def openWindow (s : State) (schedId p n : Nat) : Option (Nat × SchWinRec) :=
  minBy (fun w => winLeft w.2 (ftSlot s % 65536)) ((openWindows s schedId p).filter (winHolds s n))

/-- check_slot (R200): the flow a class 7 unit is admitted under with the state that has counted it, or the reason it is demoted for. -/
def checkSlot (h : StreamHdr) (s : State) : Except Nat (FlowRec × State) :=
  if !s.ftm.schedActive then .error 4
  else match aget s.ftm.active.flows h.schedId with
    | none => .error 2
    | some f =>
      if !f.valid ∨ f.kind = 3 then .error 2
      else if f.rid ≠ h.rid ∨ f.part ≠ h.part then .error 3
      else
        let n := 16 + h.payload.length
        match openWindow s h.schedId h.port n with
        | none => .error (if openWindows s h.schedId h.port = [] then 0 else 1)
        | some (i, _) => .ok (f, { s with ftm := { s.ftm with sent := aset s.ftm.sent i (agetD s.ftm.sent i 0 + n) } })

/-- A unit whose cells are taken finds its place: a contribution goes to its group, which needs none, data to its port or group (R259, R361). -/
def placeStream (u : StreamOut) (pool : Pool) (cls : Nat) (yellow : Bool) (s : State) : State :=
  if u.hdr.dkind = 2 then takeContrib u.hdr (poolGive pool (streamCells u) s)
  else deliverStream u pool cls yellow none s

/-- Whether a demoted unit may enter its queue (R135); a yellow one is admitted as a green one (Table 5.2). A group's copies are admitted one by
one. -/
def streamAdmits (u : StreamOut) (cls : Nat) (s : State) : Bool :=
  if u.hdr.dkind = 0 then admits s u.hdr.dest cls (streamCells u) false
  else decide (streamCells u ≤ shrFree s) && decide (s.vat.desc < 1048576)

/-- A demoted unit is placed (R135, R142): copies that a member cannot take are dropped for it alone. -/
def placeDemoted (u : StreamOut) (cls : Nat) (yellow : Bool) (s : State) : State :=
  let n := streamCells u
  if u.hdr.dkind = 1 then
    let g := agetD s.img.mcasts u.hdr.dest {}
    let ms := g.members.filter fun p => (g.loopback || p ≠ u.hdr.port) && portUp s p
    let ok := admitCopies s ms cls n false
    let s := bumpG .vatMcDrop (ms.length - ok.length) (poolTake .shr n s)
    multicast (.stream u) .shr n (streamBytes u) u.hdr.part cls u.hdr.poison yellow none ok s
  else placeStream u .shr cls yellow (poolTake .shr n s)

/-- A unit of `units` may pass a FIFO at once: none waits in it, and staging has room, else the next unit goes to Whey (R118, R119). -/
def fifoOpen (s : State) (p fifo units : Nat) : Bool :=
  !((port s p).stg.any fun u => u.fifo == fifo) && decide (stgUsed (port s p) + units ≤ 1024)

/-- Units of staging that a unit of `n` bytes takes. -/
def stgUnits (n : Nat) : Nat := ceilDiv n 256

/-- A demoted unit is admitted, or waits in staging behind what waits there; one that neither can hold is discarded (R119, R135). -/
def enterDemoted (u : StreamOut) (yellow : Bool) (s : State) : State :=
  if fifoOpen s u.hdr.port 1 (stgUnits (streamBytes u)) && streamAdmits u 6 s then placeDemoted u 6 yellow s
  else
    let t := stage u.hdr.port 1 (stgUnits (streamBytes u)) false (.stream u yellow false) s
    if t.1 then t.2 else dropAdmit u.hdr.port s

/-- Step 8 for a stream unit: red ones are discarded and their port's grants withheld until the policer's tp is positive (Table 5.2). -/
def streamPolice (cls : Nat) (h : StreamHdr) (s : State) : Colour × State :=
  let b := max 64 h.payload.length
  let i := polIndex h.part cls (subOf s h.rid)
  let (c, s) := charge i b false s
  let s := countColour c h.part b s
  (c, if c = Colour.red ∧ h.port < 256 then setPort h.port (fun q => { q with withheld := true, redPols := addOnce q.redPols i }) s else s)

/-- A grant that a unit of `n` bytes may use now: unused bytes, and the limit of the slot (R205, R207). A unit uses the first grant that holds it whole
(assumption 58). -/
def grantFor (gs : List Grant) (slot n : Nat) : Option Grant :=
  gs.find? fun g => decide (slot < g.expiry) && decide (n ≤ g.left) && decide ((if g.slot = slot then g.inSlot else 0) + n ≤ g.perSlot)

/-- A grant after a unit of `n` bytes in `c` cells. -/
def grantUse (gid slot n c : Nat) (gs : List Grant) : List Grant :=
  modFirst (fun g => g.gid = gid) (fun g => { g with
    left := g.left - n, cells := g.cells - c, slot := slot, inSlot := (if g.slot = slot then g.inSlot else 0) + n }) gs

/-- The destination of a class 7 unit: its flow's, or for a flow of kind 2 the group that its reduce fields name (R200, R259). -/
def flowDest (f : FlowRec) (h : StreamHdr) : StreamHdr := { h with dest := if f.kind = 2 then h.dest else f.dest, dkind := f.kind }

/-- The SCH pool can take the unit (R136). -/
def schRoom (u : StreamOut) (s : State) : Bool := decide (s.vat.sch + streamCells u ≤ poolCells s .sch)

/-- A class 7 unit: admitted to the SCH pool in its window, waiting behind what waits in its FIFO (R118, R204), or demoted (R136, R200, R201). -/
def enterClass7 (u : StreamOut) (s : State) : State :=
  let h := u.hdr
  let n := streamCells u
  let demote (reason : Nat) (s : State) : State :=
    let s := tapCopy h.part 7 1 h.rid (packStream u) (demoteCount reason h.port h.schedId h.rid u.accSlot s)
    let c := streamPolice 6 h s
    if c.1 = Colour.red then c.2 else enterDemoted { u with hdr := { h with cls := 6 } } (decide (c.1 = Colour.yellow)) c.2
  match checkSlot h s with
  | .error reason => demote reason s
  | .ok (f, s) =>
    let x := { u with hdr := flowDest f h }
    if fifoOpen s h.port 1 (stgUnits (streamBytes u)) then
      if schRoom u s then placeStream x .sch 7 false (poolTake .sch n (tapCopy h.part 7 1 h.rid (packStream u) s)) else demote 6 s
    else
      let t := stage h.port 1 (stgUnits (streamBytes u)) false (.stream x false false) (tapCopy h.part 7 1 h.rid (packStream u) s)
      if t.1 then t.2 else dropAdmit h.port s

/-- An elastic unit whose cells are taken from a grant's reservation (R206): policed, tapped, placed. -/
def enterElastic (u : StreamOut) (s : State) : State :=
  let h := u.hdr
  let c := streamPolice h.cls h s
  if c.1 = Colour.red then poolGive .shr (streamCells u) c.2
  else
    let s := tapCopy h.part h.cls 1 h.rid (packStream u) c.2
    let yellow := decide (c.1 = Colour.yellow)
    if fifoOpen s h.port 1 (stgUnits (streamBytes u)) then placeStream u .shr h.cls yellow s
    else
      let t := stage h.port 1 (stgUnits (streamBytes u)) false (.stream u yellow true) s
      if t.1 then t.2 else poolGive .shr (streamCells u) (dropAdmit h.port s)

/-- A stream unit arrives on a requester's port (R361): its identity and partition, its grant, its destination, then its class. Cells of a unit beyond what
its grant has left of its reservation, since each unit's are rounded up, are taken from the shared pool without a test (assumption 58). -/
def streamArrive (utype : Nat) (h : StreamHdr) (s : State) : State :=
  if !(portIs s h.port 1 0 && portUp s h.port) then s
  else
    let u : StreamOut := { utype := utype, hdr := h, accSlot := ftSlot s }
    let bad := (check12 s { port := h.port, rid := h.rid, part := h.part, cls := h.cls, cmark := false, poison := false, tag := 0,
                            reissue := false, addr := 0, key := 0 }).isSome
    if h.payload = [] ∨ h.payload.length > 16368 ∨ bad then dropAdmit h.port s
    else if !destOk s h then dropAdmit h.port s
    else if h.cls = 7 then enterClass7 u s
    else
      let n := streamBytes u
      match grantFor (port s h.port).grantsOut (ftSlot s) n with
      | none => dropAdmit h.port s
      | some g =>
        let c := streamCells u
        let s := poolTake .shr (c - g.cells) (setPort h.port (fun q => { q with grantsOut := grantUse g.gid (ftSlot s) n c q.grantsOut }) s)
        enterElastic u s

/-- DATA (R361): a unit for a port or a multicast group. -/
def execData (h : StreamHdr) (s : State) : Outcome := runE (fun s => if h.dkind = 2 then s else streamArrive 0xD0 h s) s

/-- REDUCE (R259): a contribution to a reduction group. -/
def execReduce (h : StreamHdr) (s : State) : Outcome := runE (fun s => if h.dkind = 2 then streamArrive 0xD1 h s else s) s

/-! ## Frames that arrive (R117, R363, R378 to R381) -/

/-- A pause or priority-flow-control frame (R378). -/
def isPause (f : Bytes) : Bool := frType f == 0x8808

/-- A frame of an uplink leaves the message FIFO (R378): pause frames are dropped; a frame of the gateway's EtherType is left to GATEWAY_FRAME; it belongs
to the lowest partition that has its VID (assumption 12). -/
def ethGo (p : Nat) (f : Bytes) (s : State) (acc : Option (Nat × Nat) := none) : State :=
  if isPause f then bumpP p .l2Drop 1 s
  else if frType f = (dev s).gwEtype then s
  else if !frTagged f then
    if frType f = 0x8809 ∨ frType f = 0x88F7 then { s with eth := { s.eth with toPaste := (p, f) :: s.eth.toPaste } } else bumpP p .l2Drop 1 s
  else match allParts.find? fun q => (aget s.img.parts q).isSome && vidOf s q (frVid f) with
    | none => bumpP p .l2Drop 1 s
    | some part => bridge p part 0 0 (frVid f) (frPcp f) (frClass s p f) f s acc

/-- A frame of a MSG unit leaves the message FIFO (R363, R379): it takes its partition's default VID when untagged; a VID outside the partition's set is
dropped. -/
def msgGo (p rid part : Nat) (cmark : Bool) (f : Bytes) (s : State) (acc : Option (Nat × Nat) := none) : State :=
  let bad := (check12 s { port := p, rid := rid, part := part, cls := 0, cmark := cmark, poison := false, tag := 0,
                          reissue := false, addr := 0, key := 0 }).isSome
  if bad ∨ f.length < 64 ∨ f.length > 9220 then dropAdmit p s
  else if isPause f then bumpP p .l2Drop 1 s
  else if frTagged f && !vidOf s part (frVid f) then bumpP p .l2Drop 1 s
  else
    let vid := if frTagged f then frVid f else (partRec s part).defaultVid
    bridge p part rid (subOf s rid) vid (if frTagged f then frPcp f else 0) (frClass s p f) f s acc

/-- A frame has been received whole (R118, R119): it passes the message FIFO at once, or waits in it behind earlier frames or in Whey; one that neither can
hold is dropped (R120). -/
def frameIn (p units : Nat) (it : StgItem) (go : State → State) (s : State) : State :=
  if fifoOpen s p 2 units then go s
  else let t := stage p 2 units false it s; if t.1 then t.2 else dropAdmit p s

/-- ETH_FRAME (R117): a frame on an uplink. One whose check sequence fails was never accepted. -/
def ethFrame (p : Nat) (fcsOk : Bool) (f : Bytes) (s : State) : State :=
  if !(portIs s p 3 3 && portUp s p) then s
  else
    let s := fecSeen p s
    if !fcsOk ∨ f.length < 64 ∨ f.length > 9220 then dropAdmit p s
    else frameIn p (ceilDiv f.length 256) (.frame true 0 0 false f) (ethGo p f) s

/-- Row ETH_FRAME. -/
def execEthFrame (port : Nat) (fcsOk : Bool) (frame : Bytes) (s : State) : Outcome := runE (ethFrame port fcsOk frame) s

/-- MSG (R363): a MSG unit has taken its credits, which return when it leaves staging (R364). -/
def msgArrive (p rid part : Nat) (cmark : Bool) (f : Bytes) (s : State) : State :=
  if !(portIs s p 1 0 && portUp s p) then s
  else
    let n := ceilDiv (8 + f.length) 256
    let s := setPort p (fun q => { q with farMsg := q.farMsg - n }) s
    frameIn p n (.frame false rid part cmark f) (fun s => msgGo p rid part cmark f (returnCredits p 0 n s)) s

/-- Row MSG. -/
def execMsg (port rid part : Nat) (cmark : Bool) (frame : Bytes) (s : State) : Outcome := runE (msgArrive port rid part cmark frame) s

/-! ## Staging (R118 to R123, R133, R135, R154) -/

/-- The first unit of a FIFO, if it is in staging. -/
def fifoFirst (s : State) (p : Nat) (u : StgUnit) : Bool :=
  !u.spilled && ((port s p).stg.find? fun v => v.fifo == u.fifo).any fun v => v.uid == u.uid

/-- MSG_AGE_DISCARD (R123): a message or stream unit held longer than msg_age is discarded. -/
def ageDiscard (p uid : Nat) (s : State) : State :=
  match (port s p).stg.find? fun u => u.uid = uid with
  | none => s
  | some u =>
    if s.now < u.since + (dev s).msgAgeMs * 1000000 then s
    else
      let out := setPort p (fun q => { q with stg := q.stg.filter fun v => v.uid ≠ uid }) s
      let aged (s : State) : State := unspill p (bumpG .vatWheyAged 1 (bumpP p .dropAge 1 s))
      match u.item with
      | .req _ | .dead => s
      | .stream x _ held => aged (if held then poolGive .shr (streamCells x) out else out)
      | .frame eth _ _ _ _ => aged (if eth then out else returnCredits p 0 u.units out)

/-- Row MSG_AGE_DISCARD. -/
def execMsgAgeDiscard (port unit : Nat) (s : State) : Outcome := runE (ageDiscard port unit) s

/-- A unit leaves its port's staging. -/
def leaveStream (p uid : Nat) (s : State) : State := unspill p (setPort p (fun q => { q with stg := q.stg.filter fun v => v.uid ≠ uid }) s)

/-- A class 7 unit that waits in staging is demoted there: a red one is discarded, another waits on in class 6 with its colour (R201, Table 5.2). -/
def stagedDemote (reason p uid : Nat) (x : StreamOut) (s : State) : Option (StreamOut × Bool) × State :=
  let c := streamPolice 6 x.hdr (demoteCount reason p x.hdr.schedId x.hdr.rid x.accSlot s)
  if c.1 = Colour.red then (none, leaveStream p uid c.2)
  else
    let y := { x with hdr := { x.hdr with cls := 6 } }
    let yellow := decide (c.1 = Colour.yellow)
    (some (y, yellow), setPort p (fun q => { q with stg := modFirst (fun v => v.uid = uid) (fun v => { v with item := .stream y yellow false }) q.stg }) c.2)

/-- STAGING_ADMIT (R135): a unit that waits in staging enters its queue if there is room now; units enter in the order of their FIFO. -/
def stagingAdmit (p uid : Nat) (s : State) : State :=
  let s := unspill p s
  match (port s p).stg.find? fun u => u.uid = uid with
  | none => s
  | some u => match u.item with
    | .req id => match findReq s id with
      | some r => if r.phase = .admitting then pump p (s.mem.reqs.length + 1) (goAdmit id s) else pump p (s.mem.reqs.length + 1) s
      | none => s
    | .dead => pump p (s.mem.reqs.length + 1) s
    | .frame eth rid part cmark f =>
      if !fifoFirst s p u then s
      else
        let s := unspill p (setPort p (fun q => { q with stg := q.stg.filter fun v => v.uid ≠ uid }) s)
        let acc := some (u.since, u.ft)
        if eth then ethGo p f s acc else msgGo p rid part cmark f (returnCredits p 0 u.units s) acc
    | .stream x yellow held =>
      if !fifoFirst s p u then s
      else if x.hdr.cls = 7 then
        if schRoom x s then placeStream x .sch 7 false (poolTake .sch (streamCells x) (leaveStream p uid s))
        else match stagedDemote 6 p uid x s with
          | (some y, s) => if streamAdmits y.1 6 s then placeDemoted y.1 6 y.2 (leaveStream p uid s) else s
          | (none, s) => s
      else if held || streamAdmits x 6 s then
        let s := leaveStream p uid s
        if held then placeStream x .shr x.hdr.cls yellow s else placeDemoted x 6 yellow s
      else s

/-- Row STAGING_ADMIT. -/
def execStagingAdmit (port unit : Nat) (s : State) : Outcome := runE (stagingAdmit port unit) s

/-- RSP_RESERVATION (R133): a request that waits in dispatch gets its response's quanta, if they fit now. -/
def execRspReservation (req : Nat) (s : State) : Outcome :=
  runE (fun s => match findReq s req with
    | some r =>
      if r.phase ≠ .rsp then s
      else match r.kind with
        | .opFlit _ => goSubmit req s
        | _ => goRsp req s
    | none => s) s

/-- LIMIT_HOLD_RELEASE (R154): the request at the head of its command FIFO leaves once its counts allow it. -/
def execLimitHoldRelease (req : Nat) (s : State) : Outcome :=
  runE (fun s => match findReq s req with
    | some r => if r.phase = .fifo then pump r.hdr.port (s.mem.reqs.length + 1) s else s
    | none => s) s

/-- PORT_DOWN (R144, R372). -/
def execPortDown (port cause : Nat) (s : State) : Outcome := runE (portGoesDown port cause) s

/-! ## Uncorrectable cells (R128, R129) -/

/-- A request not yet dispatched is answered RETRY_LATER and not executed (R128). -/
def reqUnc (id : Nat) (s : State) : State :=
  match findReq s id with
  | none => s
  | some r =>
    if r.released then s
    else
      let joined := if kindTagged r.kind then (findIdem s r.hdr.rid r.hdr.tag).elim [] (·.joined) else []
      let s := dropQueued (accOf id) (notApplied r s)
      joined.foldl (fun s j => finishRetire j .retryLater 0 [] s) (finishRetire id .retryLater 0 [] s)

/-- A queued access whose unit cannot be read: its request is answered RETRY_LATER if it has not been dispatched, else what asked for the access
gets POISON (R128). -/
def accUnc (aid : Nat) (s : State) : State :=
  match findAcc s aid with
  | none => s
  | some a =>
    let poison (s : State) : State := deliverAcc a .poison [] (dropQueued (fun x => x.aid == aid) s)
    match a.owner with
    | .req id _ | .reqMac id _ => match findReq s id with
      | some r => match r.src with
        | .eng _ | .tap | .gwLoc .. | .ds .. | .strm .. => poison s
        | _ => if r.dispAt.isNone then reqUnc id s else poison s
      | none => poison s
    | .rebuild n c => rebuildBack n c false [] (dropQueued (fun x => x.aid == aid) s)
    | .geom _ | .ftl _ _ | .erase _ _ => accLost a.port a s
    | _ => poison s

/-- A response with an uncorrectable cell goes out with status POISON (R128). -/
def rspUnc (r : Rsp) : Rsp := { r with status := .poison, data := [], result := 0, streamed := false }

/-- A queue descriptor's unit with an uncorrectable cell (R128): `none` when it leaves its queue and is not sent. A control unit, a message of the pair or
a drain marker, goes on unchanged, since R128 names none (assumption 59). -/
def descUnc (d : Desc) : Option Desc :=
  match d.item with
  | .rsp id r => some { d with item := .rsp id (rspUnc r) }
  | .stream u => some { d with item := .stream { u with hdr := { u.hdr with poison := true } }, poison := true }
  | .copy _ => some { d with poison := true }
  | .twin (.fwdRsp ref r) => some { d with item := .twin (.fwdRsp ref (rspUnc r)) }
  | .twin (.fwd ..) => none
  | .twin _ | .marker _ => some d
  | .frame _ | .gateway _ => none
  | .acc _ => none

/-- The frame a stored multicast unit holds, if it is one. -/
def copyFrame (s : State) (d : Desc) : Option Bytes :=
  match d.item with
  | .copy mc => (s.vat.mcs.find? fun m => m.mc = mc).bind fun m => match m.item with
    | .frame f => some f
    | _ => none
  | _ => none

/-- A request that was to go to the twin cannot be read: it is answered RETRY_LATER (R128). -/
def forwardUnc (d : Desc) (s : State) : State :=
  match d.item with
  | .twin (.fwd ref ..) => reqUnc ref s
  | _ => s

/-- A unit in a class queue has an uncorrectable cell (R128). -/
def queuedUnc (p : Nat) (d : Desc) (s : State) : State :=
  match d.item with
  | .acc aid => accUnc aid s
  | _ =>
    let drop := (copyFrame s d).isSome || (descUnc d).isNone
    if drop then forwardUnc d (purgePort p (fun x => x.uid == d.uid) s)
    else match descUnc d with
      | none => s
      | some e =>
        let upd (l : List Desc) : List Desc := modFirst (fun x => x.uid = d.uid) (fun _ => e) l
        setPort p (fun q => { q with q := q.q.map upd, rspQ := upd q.rspQ, ctlQ := upd q.ctlQ }) s

/-- A unit in staging or Whey with an uncorrectable error, as one with such a Vat cell (R128, R412, Table 14.2). -/
def stagedUnc (p : Nat) (u : StgUnit) (s : State) : State :=
  match u.item with
  | .req id => reqUnc id s
  | .stream x y h => setPort p (fun q => { q with stg := modFirst (fun v => v.uid = u.uid) (fun v => { v with
      item := .stream { x with hdr := { x.hdr with poison := true } } y h }) q.stg }) s
  | .frame eth _ _ _ _ =>
    let s := setPort p (fun q => { q with stg := q.stg.filter fun v => v.uid ≠ u.uid }) s
    if eth then s else returnCredits p 0 u.units s
  | .dead => s

/-- The stored multicast units that hold a cell of a failed bank, each counted once: which do is not stated. -/
def bankStored (s : State) : List Nat × State :=
  s.vat.mcs.foldl (fun (x : List Nat × State) m =>
    let b := freeBit x.2
    if b.1 then (x.1 ++ [m.mc], bumpG .vatEccUnc 1 b.2) else (x.1, b.2)) ([], s)

/-- Each unit of a port's queues, in its turn, holds a cell of the failed bank or not: which units do is not stated. Copies of one stored unit share its
cells (R141). -/
def bankUnits (hit : List Nat) (p : Nat) (s : State) : State :=
  let q := port s p
  (q.q.flatten ++ q.rspQ ++ q.ctlQ).foldl (fun s d => match d.item with
    | .copy mc => if mc ∈ hit then queuedUnc p d s else s
    | _ => let b := freeBit s; if b.1 then queuedUnc p d (bumpG .vatEccUnc 1 b.2) else b.2) s

/-- Units that a stream reads into their SCH cells, each with a cell of the failed bank or not: such a one goes out with its poison marker. -/
def bankStreams (s : State) : State :=
  s.ftm.units.foldl (fun s u =>
    let b := freeBit s
    if b.1 then
      let f (x : StrmUnit) : StrmUnit := if x.schedId = u.schedId ∧ x.slot = u.slot then { x with poison := true } else x
      bumpG .vatEccUnc 1 { b.2 with ftm := { b.2.ftm with units := b.2.ftm.units.map f } }
    else b.2) s

/-- The plane stops serving and tells its twin (R428, R499); its relocations are abandoned (R106). -/
def stopServing (s : State) : State :=
  let s := abandonRelocs (fun _ => true) (if s.twn.servesOwn || s.twn.servesTwin then sendTwin .failing s else s)
  { s with twn := { s.twn with servesOwn := false, servesTwin := false } }

/-- Banks in service. -/
def banksIn (s : State) : Nat := 64 - s.vat.bankFail.length

/-- BANK_FAIL (R129, R130): the bank leaves service, units with cells in it are handled under R128, and a Vat too small is reported as failed (by which
events: assumption 57). -/
def bankFail (b : Nat) (s : State) : State :=
  if b ∈ s.vat.bankFail ∨ b ≥ 64 then s
  else
    let s := { s with vat := { s.vat with bankFail := s.vat.bankFail ++ [b] } }
    let hit := bankStored (faultEvent 4 5 b 0 0 s)
    let s := bankStreams ((s.ports.map (·.1)).foldl (fun s p => bankUnits hit.1 p s) hit.2)
    if (banksIn s < 32 ∨ shrCells s < 65536) ∧ !s.vat.failed then
      calve 8 allParts (faultEvent 6 5 b 8 0 (stopServing { s with vat := { s.vat with failed := true } }))
    else s

/-- Row BANK_FAIL. -/
def execBankFail (bank : Nat) (s : State) : Outcome := runE (bankFail bank) s

/-! ## Egress (R134, R139, R143, R166, R167, R198, R208, R364) -/

/-- The port is in class 7 slot time now (R194). -/
def slotTime (s : State) (p : Nat) : Bool := bitAt (agetD s.ftm.active.maps p 0) (ftSlot s % 65536)

/-- Time a unit of `n` bytes takes on a port, ns. -/
def wireTime (s : State) (p n : Nat) : Nat := ceilDiv (n * 1000) (max 1 (payloadMB s p))

/-- A unit of `n` bytes started now would end before the next set slot of the port's map (R198). -/
def endsBeforeSlot (s : State) (p n : Nat) : Bool :=
  let last := (ft s + wireTime s p n - 1) / 256
  (List.range (last - ftSlot s)).all fun i => !bitAt (agetD s.ftm.active.maps p 0) ((ftSlot s + 1 + i) % 65536)

/-- A request as a tray access of it goes out: its header in tray addresses (R359, R375) and its payload. -/
def packAcc (mark : Bool) (a : Acc) : Bytes :=
  let op : Nat := match a.kind with
    | .load => if a.len = 64 ∧ a.addr % 64 = 0 then kindCode .loadLine else kindCode (.loadStream a.len)
    | .store => kindCode (.storeLine [])
    | .storeMasked => kindCode (.storeMasked [] 0)
    | .flush => kindCode (.flushRange 0)
    | .flRead => 0x80
    | .flProg => 0x81
    | .flErase => 0x82
    | .flGeom => 0x83
  let len := if op = kindCode (.loadStream a.len) then a.len else 0
  packReqHdr { port := 0, rid := a.rid, part := a.part, cls := a.cls, cmark := mark, poison := a.poison, tag := a.aid % 65536, reissue := false,
               addr := a.addr, key := BitVec.ofNat 32 a.fkey } op len
    ++ a.data ++ (if a.kind = .storeMasked then natLe 8 a.mask else [])

/-- Elastic stream bytes to a requester go only within its grants (R208); others need none. -/
def grantOk (s : State) (p cls n : Nat) : Bool :=
  decide (cls = 7) || !portIs s p 1 0 || (grantFor (port s p).grantsIn (ftSlot s) n).isSome

/-- Flits that a unit takes on a Bamom port (R356): a RESP unit has flits of its own beside its response, and a frame may gain a tag. -/
def unitFlits (d : Desc) : Nat :=
  match d.item with
  | .rsp _ r => if r.streamed then 1 + ceilDiv (16 + r.data.length) 250 else ceilDiv d.bytes 250
  | .frame f => ceilDiv (12 + f.length) 250
  | .copy _ => ceilDiv (12 + d.bytes) 250
  | _ => ceilDiv d.bytes 250

/-- The port has room for the flits of a unit. -/
def unitRoom (s : State) (p : Nat) (d : Desc) : Bool := flitsFit s p (unitFlits d)

/-- The unit at the head of a class queue may go now: its line is not held, and credits, grants and flits allow it. -/
def headOk (s : State) (p cls : Nat) (d : Desc) : Bool :=
  match d.item with
  | .acc aid => match findAcc s aid with
    | some a => !lineHeld s a && (a.viaTwin || (portRec s p).protocol != 1 || decide (ceilDiv d.bytes 256 ≤ (port s p).ownReq)) && unitRoom s p d
    | none => true
  | .stream u => grantOk s p cls (streamBytes u) && unitRoom s p d
  | .copy _ =>
    (match copyFrame s d with
     | some f => !portIs s p 1 0 || decide (ceilDiv (8 + f.length) 256 ≤ (port s p).ownMsg)
     | none => grantOk s p cls d.bytes) && unitRoom s p d
  | .frame f => (!portIs s p 1 0 || decide (ceilDiv (8 + f.length) 256 ≤ (port s p).ownMsg)) && unitRoom s p d
  | .marker _ => ((portRec s p).role == 2 || (portRec s p).protocol != 1 || decide (1 ≤ (port s p).ownReq)) && unitRoom s p d
  | _ => unitRoom s p d

/-- The shaper of a class queue lets it send (R167). -/
def shaperOk (s : State) (p cls : Nat) : Bool :=
  !(shaperNow s (p * 8 + cls)).shaped || decide ((agetD s.tmc.shps (p * 8 + cls) {}).credit ≥ 0)

/-- What a port sends next: 0 to 7 a class queue, 8 responses, 9 control (R134, R167, R198). Nothing elastic goes ahead of a waiting response. Where
the head of a class queue cannot go, a lower class may: DESIGN CHOICE (assumption 64). -/
def chooseQueue (s : State) (p : Nat) : Option (Nat × Desc) :=
  let q := port s p
  let slot := slotTime s p
  let c7 := if slot then match queue q 7 with
      | d :: _ => if (d.slot.all fun t => decide (t ≤ ftSlot s)) && headOk s p 7 d then some (7, d) else none
      | [] => none
    else none
  let go (n : Nat) (d : Desc) : Option (Nat × Desc) := if headOk s p n d then some (n, d) else none
  let low := if slot then none else [6, 5, 4, 3, 2, 1, 0].findSome? fun c => match queue q c with
      | d :: _ => if shaperOk s p c && headOk s p c d && endsBeforeSlot s p d.bytes then some (c, d) else none
      | [] => none
  c7.orElse fun _ => match q.rspQ, q.ctlQ with
    | d :: _, _ => go 8 d
    | [], d :: _ => go 9 d
    | [], [] => low

/-- ECN of an IP frame set to CE where it is ECT(0) or ECT(1), with the IPv4 checksum and the FCS made anew (R143). -/
def markFrame (f : Bytes) : Bytes :=
  let o := if frTagged f then 18 else 14
  let body := f.take (f.length - 4)
  if frType f = 0x0800 then
    let tos := fieldAt f (o + 1) 1
    if tos % 4 = 1 ∨ tos % 4 = 2 then
      let b := overlay body (o + 1) (natLe 1 (tos / 4 * 4 + 3))
      let hl := fieldAt f o 1 % 16 * 4
      let z := overlay b (o + 10) [0, 0]
      let sum := sumOf ((List.range (hl / 2)).map fun i => beField z (o + 2 * i) 2)
      let f1 := sum % 65536 + sum / 65536
      let f2 := f1 % 65536 + f1 / 65536
      let c := 65535 - f2
      let g := overlay z (o + 10) (natLe 2 c).reverse
      g ++ fcs g
    else f
  else if frType f = 0x86DD then
    let w := fieldAt f (o + 1) 1
    let ecn := w / 16 % 4
    if ecn = 1 ∨ ecn = 2 then
      let g := overlay body (o + 1) (natLe 1 (w - ecn * 16 + 48))
      g ++ fcs g
    else f
  else f

/-- The unit leaves marked (R143): its queue, with it, is deeper than the threshold, at half of it for a yellow unit. -/
def marks (q : Port) (cls : Nat) (d : Desc) : Bool :=
  decide (cls < 7) && decide (depth (queue q cls) * (if d.yellow then 2 else 1) > q.markThr.getD cls 0 * 16)

/-- The unit is one that a mark changes (R143): on Bamom its header's bit is set; on Ethernet a frame changes when its ECN field is ECT(0) or ECT(1). -/
def markable (s : State) (p : Nat) (d : Desc) : Bool :=
  let frame (f : Bytes) : Bool := (portRec s p).protocol == 1 || decide (markFrame f ≠ f)
  match d.item with
  | .frame f => frame f
  | .copy _ => (match copyFrame s d with
    | some f => frame f
    | none => true)
  | .stream _ | .acc _ => (portRec s p).protocol == 1
  | .rsp .. | .twin _ | .marker _ | .gateway _ => false

/-- A unit has left its queue: its descriptor and its cells are free, but for the ENG cells of an access, held until it is answered (R137), and the CTL
cells of a control unit, held until its flits are acknowledged (Table 4.3). -/
def sentGone (p : Nat) (d : Desc) (s : State) : State :=
  match d.item, d.pool with
  | .acc _, .eng => descGive 1 s
  | _, .ctl => ctlFree p (setPort p (fun q => { q with ctlHeld := q.ctlHeld ++ [((q.txSeq + 1023) % 1024, d.cells)] }) (descGive 1 s))
  | _, _ => descGone d s

/-- A frame leaves: on Bamom as a MSG unit under MSG credits (R363, R364). -/
def sendFrameOut (p part : Nat) (mark : Bool) (f : Bytes) (s : State) : State :=
  let f := if mark then markFrame f else f
  if portIs s p 1 0 then
    let b := natLe 4 (0xE0 + part % 128 * 2 ^ 20 + b2n mark * 2 ^ 27) ++ natLe 4 (f.length % 16384) ++ f
    sendUnit p false b (.frame f) (setPort p (fun q => { q with ownMsg := q.ownMsg - ceilDiv b.length 256 }) s)
  else wireOut p (.frame f) s

/-- A stream unit leaves; an elastic one uses a grant of the far end (R208). -/
def sendStreamOut (p cls : Nat) (mark poison : Bool) (u : StreamOut) (s : State) : State :=
  let n := streamBytes u
  let u := { u with hdr := { u.hdr with cls := cls, cmark := u.hdr.cmark || mark, poison := u.hdr.poison || poison } }
  let s := if cls = 7 then s else match grantFor (port s p).grantsIn (ftSlot s) n with
    | some g => setPort p (fun q => { q with grantsIn := grantUse g.gid (ftSlot s) n 0 q.grantsIn }) s
    | none => s
  sendUnit p true (packStream u) (.stream u) s

/-- A TWIN unit leaves, sealed by AES-256-GCM under the pair key with the next message counter (R454); how it lays out what it seals is internal to the
pair (R354). -/
def sendInternal (p n : Nat) (w : Wire) (s : State) : State :=
  let c := Config.gcmSeal (s.twn.pairKey.getD 0) s.twn.msgCtr (freeBytes s n)
  let b := (0xE8 : Byte) :: (List.range (n - 1)).map fun i => c.getD i 0
  sendUnit p false b w (nextCtr { s with freeIx := s.freeIx + n, twn := { s.twn with sentAt := s.now } })

/-- An access leaves for its tray: its request is dispatched (R39), its credits are used (R364), the last write of its stripe is noted (R431). -/
def sendAccOut (p aid : Nat) (mark : Bool) (s : State) : State :=
  match findAcc s aid with
  | none => s
  | some a =>
    let late := match a.owner with
      | .req _ _ | .reqMac _ _ => a.execEnd
      | .ftl _ _ | .ds _ | .erase _ _ => if a.kind = .flRead then s.now + 11000 else s.now + 20000000
      | _ => s.now + 11000
    let ids := servedBy s a
    let a := { a with state := .sent, execEnd := late }
    let s := countRead a s
    let s := { s with mem := { s.mem with
      accs := modAll (fun x => x.aid == aid) (fun _ => a) s.mem.accs
      lastWrite := if a.writeClass then aset s.mem.lastWrite a.odd (ft s) else s.mem.lastWrite } }
    let s := match fillOf s a with
      | some fid => setFill fid (fun f => { f with sent := true }) s
      | none => s
    let s := ids.foldl (fun s id => beginExec id (setReq id (fun r => if r.phase = .queued then { r with phase := .exec } else r) s)) s
    if a.viaTwin then sendInternal p (accBytes a) (sealTwin (.reroute a) s) s
    else
    let b := packAcc (mark && (portRec s p).protocol == 1) a
    let s := setPort p (fun q => { q with ownReq := q.ownReq - ceilDiv b.length 256 }) s
    sendUnit p false b (.acc a) s

/-- A response leaves: on a CXL port as read data, poisoned unless OK, or as a completion; LOAD_STREAM data as a RESP unit (R74, R362). -/
def sendRspOut (p : Nat) (r : Rsp) (s : State) : State :=
  if (portRec s p).protocol = 2 then
    if r.opcode = kindCode .loadLine then
      if r.status = .ok then wireOut p (.cxlData (slice r.data 0 64) false) s else wireOut p (.cxlData (zeros 64) true) s
    else wireOut p .cxlCmpl s
  else
    let s := sendUnit p false (packRsp r) (.rsp r) s
    if r.streamed then
      let u := natLe 4 (0xD2 + r.rid % 4096 * 2 ^ 8 + r.part % 128 * 2 ^ 20) ++ natLe 4 (r.data.length % 32768 * 2 ^ 16) ++ natLe 4 (r.tag % 65536)
        ++ natLe 4 (statusCode r.status * 2 ^ 24 + r.load % 16 * 2 ^ 28) ++ r.data
      let fl := numberFlits true (port s p).txSeq (bodies (u.length / 250 + 1) u)
      setPort p (fun q => { q with unacked := q.unacked ++ fl, txSeq := (q.txSeq + fl.length) % 1024 }) s
    else s

/-- A drain marker leaves. Between the pair it is a TWIN unit. The spec gives it no unit toward a tray, where Table 12.3 allows requests alone:
there it leaves as a FLUSH_RANGE of no bytes, which a tray answers behind what it has before it (R360), under a REQ credit: DESIGN CHOICE
(assumption 14). -/
def sendMarkerOut (p mid : Nat) (s : State) : State :=
  if (portRec s p).role = 2 then sendInternal p 32 (.marker mid) s
  else
    let b := packReqHdr { port := 0, rid := 0, part := 0, cls := 0, cmark := false, poison := false, tag := mid % 65536, reissue := false,
                          addr := 0, key := 0 } (kindCode (.flushRange 0)) 0 ++ natLe 8 0
    sendUnit p false b (.marker mid) (setPort p (fun q => { q with ownReq := q.ownReq - 1 }) s)

/-- What leaves with a descriptor. -/
def sendDesc (p cls : Nat) (mark : Bool) (d : Desc) (s : State) : State :=
  match d.item with
  | .acc aid => sendAccOut p aid mark s
  | .rsp _ r => sendRspOut p r s
  | .stream u => sendStreamOut p cls mark d.poison u s
  | .frame f => sendFrameOut p d.part mark f s
  | .twin m => sendInternal p d.bytes (sealTwin m s) s
  | .marker mid => sendMarkerOut p mid s
  | .gateway h => wireOut p (.gateway (dev s).gwEtype h) s
  | .copy mc =>
    let s := bumpG .vatMcCopies 1 s
    match s.vat.mcs.find? fun m => m.mc = mc with
    | some m => match m.item with
      | .stream u => sendStreamOut p cls mark d.poison u s
      | .frame f => sendFrameOut p d.part mark (frFor s (frVid f) (frPcp f) p f) s
      | _ => s
    | none => s

/-- The bytes of a unit fall from its queue's shaper credit: b x (1 - idle_slope / rate), in milli-bytes (R166); how the product is rounded is the
model's choice (assumption 54). -/
def shaperCharge (p cls n : Nat) (s : State) : State :=
  let r := shaperNow s (p * 8 + cls)
  if !r.shaped then s
  else
    let fall : Int := (n * 1000 : Nat) - ((n * 1000 * r.idleSlope / max 1 (payloadMB s p) : Nat) : Int)
    { s with tmc := { s.tmc with shps := amod s.tmc.shps (p * 8 + cls) {} fun c => { c with credit := c.credit - fall } } }

/-- The chosen unit leaves its queue and is sent. Whether a single-bit error of its cells was corrected (R128) is a free bit. -/
def sendChosen (p c : Nat) (d : Desc) (s : State) : State :=
  let mark := marks (port s p) c d
  let s := if mark && markable s p d then bumpP p .marked 1 s else s
  let s := setPort p (fun q =>
    let q := if c = 8 then { q with rspQ := q.rspQ.drop 1, rspUsed := q.rspUsed - (if d.pool = .rsp then d.cells else 0) }
      else if c = 9 then { q with ctlQ := q.ctlQ.drop 1 }
      else setQueue c ((queue q c).drop 1) { q with sentBytes := q.sentBytes.mapIdx fun i n => if i = c then n + d.bytes else n }
    { q with busyUntil := s.now + wireTime s p d.bytes, sendCls := if c < 7 then some c else none }) s
  let corr := freeBit s
  let s := bumpG .vatEccCorr (b2n corr.1) corr.2
  let s := sentGone p d (sendDesc p c mark d (if c < 7 then shaperCharge p c d.bytes s else s))
  match d.item with
  | .rsp _ r => if d.counted then outDec r.rid r.part s else s
  | _ => s

/-- A Bamom port that sends no unit sends a NULL flit (R357), which is not kept for a resend; it takes no time of the port in the model
(assumption 14). -/
def sendNull (p : Nat) (s : State) : State := if (portRec s p).protocol = 1 then wireOut p (.flit nullFlit) s else s

/-- EGRESS_SELECT (R134): the port, when it is free, sends its next unit. `unc` tells that a cell of it was uncorrectable (R128). -/
def egressSelect (p : Nat) (unc : Bool) (s : State) : State :=
  let q := port s p
  if q.link ≠ .up ∨ s.now < q.busyUntil ∨ q.idle then s
  else match chooseQueue s p with
    | none => sendNull p s
    | some (c, d) =>
      if unc then
        let s := bumpG .vatEccUnc 1 s
        match d.item with
        | .acc aid => accUnc aid s
        | _ =>
          if (copyFrame s d).isSome || (descUnc d).isNone then forwardUnc d (purgePort p (fun x => x.uid == d.uid) s)
          else sendChosen p c ((descUnc d).getD d) s
      else sendChosen p c d s

/-- Row EGRESS_SELECT; requests that wait for cells try again. -/
def execEgressSelect (port : Nat) (unc : Bool) (s : State) : Outcome := runE (fun s => wakeAdmit (egressSelect port unc s)) s

end Sys2Proof.Machine
end

