-- ==== Sys2Proof/Machine/Tiers.lean ====
section
/-! DEFINITION. Events of the stacks, Firn and the flash trays (chapters 3 and 14, R412). -/

namespace Sys2Proof.Machine

/-- FIRN_FILL_COMPLETE (R86). -/
def execFirnFillComplete (fid : Nat) (s : State) : Outcome := runE (fillComplete fid) s

/-! ## A stack channel leaves service (R81, R82, R412) -/

/-- A sector of a block in its new place: opened at the old stack address, sealed at the new one (R456). -/
def moveSec (s : State) (old new : FirnBlock) (x : Nat × StackSec) : Option (Nat × StackSec) :=
  (stackRead s (.firn old.owner) (firnAddr old x.1) x.2).map fun b => (x.1, stackWrite s (.firn old.owner) (firnAddr new x.1) b)

/-- A block of the Firn before channel `c` failed, `out` being the channels out before: the sectors whose page lay on the channel are dropped (R80, R81),
and what is left takes its place among the sets of the smaller Firn, pinned only while its set has fewer than 12 pinned ways (R90). A block whose new
set is full, or of which nothing is left, is dropped. That blocks that stay take the place the smaller Firn gives them is DESIGN CHOICE: the spec does
not say what becomes of them (assumption 59). -/
def rehash (c : Nat) (out : List Nat) (sets : Nat) (s : State) (b : FirnBlock) : State :=
  let set := Config.firnSet b.range b.odd b.block sets
  let here := s.hbm.blocks.filter fun x => x.set = set
  let b2 := { b with set := set, way := freeWay s.hbm.blocks set, pinned := b.pinned && decide ((here.filter fun x => x.pinned).length < 12) }
  let kept := (b.secs.filter fun x => pageChan out (firnPage b.set b.way x.1) ≠ c).filterMap (moveSec s b b2)
  if kept = [] ∨ here.length ≥ 16 ∨ sets = 0 then s else { s with hbm := { s.hbm with blocks := s.hbm.blocks ++ [{ b2 with secs := kept }] } }

/-- Firn sectors on the failed channel are dropped, and blocks fall into the sets of the smaller Firn (`rehash`). -/
def dropSectors (c : Nat) (s : State) : State :=
  s.hbm.blocks.foldl (rehash c (s.hbm.chanFail.filter (· ≠ c)) (firnSets s)) { s with hbm := { s.hbm with blocks := [] } }

/-- The channel of a page of Whey, engine spill or the control window, `out` being the channels that have left service, in order: pages go over the channels
in turn (R80), and each time the channel of a page leaves, the page is re-homed on a healthy one (R81); on which, and the order of the pages, is
DESIGN CHOICE (assumption 16). -/
def homeChan (out : List Nat) (page : Nat) : Nat :=
  (out.foldl (fun (x : Nat × List Nat) c =>
    let gone := x.2 ++ [c]
    (if x.1 = c then pageChan gone page else x.1, gone)) (page % 128, [])).1

/-- One of the pages lay on the channel that has just left, the last of those out. -/
def pageHit (s : State) (c : Nat) (pages : List Nat) : Bool := pages.any fun n => homeChan (s.hbm.chanFail.filter (· ≠ c)) n == c

/-- Units of Whey on the channel are handled as units with an uncorrectable cell (R412, R128): a request is answered RETRY_LATER, a stream unit
carries its poison marker. -/
def wheyLost (c p : Nat) (s : State) : State :=
  ((port s p).stg.filter fun u => u.spilled && pageHit s c ((List.range (u.units / 16 + 1)).map (Config.wheyPage u.uid))).foldl (fun s u => stagedUnc p u s) s

/-- Flits that used a spilled page of the channel end POISON, detail 0x0B (R412). -/
def spillLost (c : Nat) (s : State) : State :=
  (s.eng.flits.filter fun f => f.begun && f.fin.isNone && pageHit s c (Config.spillPages f.order)).foldl (fun s f => unitPoison f s) s

/-- Collections with a side-list page on the channel get lost_side (R412, R321). -/
def sidesLost (c : Nat) (s : State) : State :=
  let used (x : Nat × Coll) : List Nat := (List.range (ceilDiv (x.2.side.length * (x.2.codeLen + 16)) 4096)).map (Config.sidePage x.1)
  (s.eng.colls.filter fun x => pageHit s c (used x)).foldl (fun s x => setColl x.1 (fun y => { y with lostSide := true }) s) s

/-- A map entry, and the counters of its block, whose page is lost with no copy: what is read of them from now on is free (R81). -/
def entLost (s : State) (k : Nat × Bool × Nat) : State :=
  let b := pblockOf (mapEnt s k.1 k.2.1 k.2.2)
  let (n, s) := takeFree s
  let (c, s) := takeFree s
  let (e, s) := takeFree s
  setMap k.1 k.2.1 k.2.2 (fun _ => unpackMap n) { s with ftl := { s.ftl with
    reads := aset s.ftl.reads (k.1, b) (c % 2 ^ 32), erases := aset s.ftl.erases (k.1, b) e } }

/-- The counters of a map entry's block as the twin was last sent them (R108, R412). -/
def entBack (s : State) (k : Nat × Bool × Nat) : State :=
  let b := pblockOf (mapEnt s k.1 k.2.1 k.2.2)
  let x := (s.ftl.synced.find? fun x => x.1 = k.1 ∧ x.2.1 = b).map (·.2.2)
  { s with ftl := { s.ftl with reads := aset s.ftl.reads (k.1, b) ((x.map (·.1)).getD 0), erases := aset s.ftl.erases (k.1, b) ((x.map (·.2)).getD 0) } }

/-- The twin holds a copy of this plane's flash maps and counters: the pair is PAIRED, or has come past step S3 (R108, Table 14.7). -/
def twinHolds (s : State) : Bool :=
  twinUp s && (decide (s.twn.state = .paired) || ((decide (s.twn.state = .resyncSrc) || decide (s.twn.state = .resyncDst)) && s.twn.resyncPct == 100))

/-- Keys of the map entries of a range. -/
def rangeEnts (s : State) (range : Nat) : List (Nat × Bool × Nat) :=
  (s.ftl.map.map (·.1)).filter fun k => (lblockRange s k.1 k.2.1 k.2.2).any fun x => x.1 == range

/-- Flash maps and counters of the control window's lost pages, 512 entries each, come back from the twin's copy: map entries as they are, since each has
reached it before it took effect, counters as last sent. With no copy an owner of a tier 3 range whose map pages are lost is calved (R412, cause 9), and the
content of the pages is lost (R81). -/
def mapsLost (c : Nat) (s : State) : State :=
  let lost (k : Nat × Bool × Nat) : Bool := pageHit s c [Config.mapPage k.1 k.2.1 (k.2.2 / 512)]
  if twinHolds s then ((s.ftl.map.map (·.1)).filter lost).foldl entBack s
  else
    let hit := (s.img.ranges.filter fun e => e.2.valid && e.2.tier == 1).foldl (fun (acc : List Nat × State) e =>
      let ks := (rangeEnts acc.2 e.1).filter lost
      if ks ≠ [] then (e.2.owner :: acc.1, ks.foldl entLost acc.2) else acc) (([] : List Nat), s)
    if hit.1 = [] then hit.2 else calveSome 9 hit.1 hit.2

/-- The failed capacity exceeds the Firn carve: the stacks are reported as failed and every partition is calved (R82). The report is a fault event of
kind 6, the calving, with unit_kind 6, the stack (Table 14.3; assumption 57). -/
def stacksCheck (c : Nat) (s : State) : State :=
  if 3 * s.hbm.chanFail.length > (dev s).firnGib ∧ !s.hbm.failed then
    calve 8 allParts (faultEvent 6 6 c 8 0 (stopServing { s with hbm := { s.hbm with failed := true } }))
  else s

/-- STACK_CHANNEL_OUT (R81, R82, R412). -/
def channelOut (c : Nat) (s : State) : State :=
  if c ∈ s.hbm.chanFail ∨ c ≥ 128 then s
  else
    let s := faultEvent 1 6 c 0 0 { s with hbm := { s.hbm with chanFail := s.hbm.chanFail ++ [c] } }
    let s := (s.ports.map (·.1)).foldl (fun s p => wheyLost c p s) (dropSectors c s)
    stacksCheck c (mapsLost c (sidesLost c (spillLost c s)))

/-- A channel has had more than 16 uncorrectable errors within one second (R81). -/
def chanBeyond (s : State) (c : Nat) : Bool :=
  decide (16 < (s.hbm.chanErrs.filter fun e => e.1 == c && decide (s.now < e.2 + 1000000000)).length)

/-- Channels beyond the threshold of R81 are taken out of service. -/
def chanThreshold (s : State) : State :=
  (((s.hbm.chanErrs.map (·.1)).foldl addOnce []).filter (chanBeyond s)).foldl (fun s c => channelOut c s) s

/-- Row STACK_CHANNEL_OUT. -/
def execStackChannelOut (chan : Nat) (s : State) : Outcome := runE (channelOut chan) s

/-- FIRN_SWEEP_DONE (R93): the clear of a range whose generation came round is over. -/
def execFirnSweepDone (range : Nat) (s : State) : Outcome :=
  runE (fun s => { s with hbm := { s.hbm with sweeps := s.hbm.sweeps.filter (· ≠ range) } }) s

/-! ## Flash (R98 to R112) -/

/-- FLASH_REBUILD (R98). -/
def execFlashRebuild (reb : Nat) (s : State) : Outcome := runE (flashRebuilt reb) s

/-- RELOCATION_REQUEST (R101): the block's count has reached T. -/
def execRelocationRequest (port pblock : Nat) (s : State) : Outcome :=
  runE (fun s => if agetD s.ftl.reads (port, pblock) 0 ≥ (dev s).readThr then requestReloc port pblock s else s) s

/-- RELOCATION_START (R102). -/
def execRelocationStart (port pblock : Nat) (s : State) : Outcome := runE (byPaste (relocStart port pblock)) s

/-- RELOCATION_FLIP (R102). -/
def execRelocationFlip (port pblock : Nat) (s : State) : Outcome := runE (byPaste (relocFlip port pblock)) s

/-- RELOCATION_ERASE (R102). -/
def execRelocationErase (port pblock : Nat) (s : State) : Outcome := runE (byPaste (relocErase port pblock)) s

/-- RELOCATION_PROG_FAIL (R105). -/
def execRelocationProgFail (port pblock : Nat) (s : State) : Outcome := runE (byPaste (relocProgFail port pblock)) s

/-- DISTURB_LIMIT (R103): before the flip, reads of the block are served by rebuild from now on. -/
def disturb (p pblock : Nat) (s : State) : State :=
  if agetD s.ftl.reads (p, pblock) 0 < disturbOf s p ∨ disturbOf s p = 0 then s
  else
    let s := requestReloc p pblock s
    match findReloc s p pblock with
    | none => s
    | some r =>
      if r.diverted ∨ r.step = 4 ∨ r.step = 5 then s
      else
        let m := (isetOf s (rangeOf s r.range).iset).findIdx (· == p)
        flashEvent 3 m r.range r.odd (r.lblock * upbOf s p) (setReloc p pblock (fun r => { r with diverted := true }) s)

/-- Row DISTURB_LIMIT. -/
def execDisturbLimit (port pblock : Nat) (s : State) : Outcome := runE (disturb port pblock) s

/-- FTL_TWIN_SYNC (R108): read and erase counters go to the twin. -/
def ftlSync (s : State) : State :=
  if twinUp s then sendTwin (.counters (ftlCounts s)) { s with ftl := { s.ftl with syncAt := s.now, synced := ftlCounts s } } else s

/-- Row FTL_TWIN_SYNC. -/
def execFtlTwinSync (s : State) : Outcome := runE (byPaste ftlSync) s

/-- DATASET_FLIP (R112): the range's map entries and its Firn generation change in one view; relocations of the old dataset are abandoned
(R106). -/
def datasetFlip (range : Nat) (s : State) : State :=
  match s.ftl.loads.find? fun l => l.target = range with
  | none => s
  | some l =>
    if l.stage ≠ 3 ∨ l.failed ∨ l.flipAt.isSome then s
    else
      let s := abandonRelocs (fun r => r.range == range && r.odd == l.odd) s
      let s := l.newMap.foldl (fun s m =>
        setMap m.1 l.odd m.2.1 (fun _ => m.2.2) (sendTwin (.mapEntry m.1 l.odd m.2.1 (BitVec.ofNat 64 (packMap m.2.2))) s)) s
      let s := l.oldBlocks.foldl (fun s b => takeBlock b.1 b.2 s) s
      let s := { s with ftl := { s.ftl with
        badRows := s.ftl.badRows.filter fun b => !(b.1 == range && b.2.1 == l.odd), badRanges := s.ftl.badRanges.filter (· ≠ range) } }
      bgDone 0x52 0 range .ok 0 (setLoad range (fun l => { l with flipAt := some s.now }) (firnInvalidate range s))

/-- Row DATASET_FLIP. -/
def execDatasetFlip (range : Nat) (s : State) : Outcome := runE (byPaste (datasetFlip range)) s

/-- DATASET_OLD_ERASE (R112): the old dataset's blocks are erased no earlier than 16 us after the flip, those whose erase is not out; the load is over
when the last is. -/
def oldErase (range : Nat) (s : State) : State :=
  match s.ftl.loads.find? fun l => l.target = range with
  | none => s
  | some l => match l.flipAt with
    | none => s
    | some t =>
      if s.now < t + 16000 then s
      else
        loadsOver ((l.oldBlocks.filter fun b => !s.mem.accs.any fun a => a.owner == .erase b.1 b.2).foldl
          (fun s b => (sendErase b.1 b.2 (rangeOf s range).owner l.odd s).2) s)

/-- Row DATASET_OLD_ERASE. -/
def execDatasetOldErase (range : Nat) (s : State) : Outcome := runE (byPaste (oldErase range)) s

/-- GLB_FTL_EVENT's fields (Table 3.9). -/
def packFtlEvent (e : FtlEvent) : Nat :=
  1 + e.kind % 8 * 2 + e.member % 32 * 2 ^ 4 + e.range % 16384 * 2 ^ 9 + b2n e.odd * 2 ^ 23 + e.unit % 2 ^ 32 * 2 ^ 32

/-- FTL_EVENT_READ (R116): the oldest flash event is returned and removed. -/
def execFtlEventRead (s : State) : Outcome :=
  runE (byPaste fun s =>
    let v := (s.ftl.events.head?.map packFtlEvent).getD 0
    tell (.reg 0x320 (BitVec.ofNat 64 v)) { s with ftl := { s.ftl with events := s.ftl.events.drop 1 } }) s

end Sys2Proof.Machine
end

