-- ==== Sys2Proof/Machine/Time.lean ====
section
/-! DEFINITION. Fabric time and the scheduled plane (chapter 6): the servo and its lock states, the pulse output, timing ordered sets, schedule
banks, plane-sourced streams, and window grants. -/

namespace Sys2Proof.Machine

/-! ## The servo (R182 to R188) -/

/-- 500 ppm of the nominal increment (R179). -/
def slewMax : Nat := 879609302

/-- The nominal increment: 1.6 ns with 40 fractional bits (R179). -/
def nominalIncr : Nat := 1759218604442

/-- FT is stepped by the offset: the LOAD window in progress ends (R181), the step is counted, and the state becomes ACQUIRING (R185). -/
def ftStep (o : Int) (s : State) : State :=
  let s := setFtm (fun m => { m with ftFix := ((Int.ofNat m.ftFix + o * 2 ^ 40) % 2 ^ 104).toNat }) s
  bumpG .ftmSteps 1 (enterFt .acquiring (loadWindowEnd s))

/-- Slewing: the increment the servo chooses lies within 500 ppm of nominal (R179, R185). -/
def ftSlew (o : Int) (s : State) : State :=
  let (v, s) := takeFree s
  let incr := nominalIncr - slewMax + v % (2 * slewMax + 1)
  let good := if o.natAbs ≤ 10 then s.ftm.good + 1 else 0
  let s := setFtm (fun m => { m with incr := incr, good := good }) s
  match s.ftm.state with
  | .acquiring => if good ≥ 8 then enterFt .locked s else s
  | .holdover => if o.natAbs ≤ 10 then enterFt .locked s else enterFt .acquiring s
  | _ => s

/-- A command of the time unit, which runs on through a held warm reset, and where no Rind has booted (R180). -/
def runT (f : State → State) (s : State) : Outcome :=
  if !live s && s.pwr.on && !s.pwr.heldCold then .next (afterCmd s (f s)) else runE f s

/-- The offset would step FT back under an ACTIVE partition (R185). -/
def stepBarred (o : Int) (s : State) : Bool := decide (s.ftm.stepThr < o.natAbs ∧ o < 0 ∧ activeParts s ≠ [])

/-- One servo update with measured offset `o`: reference less FT (R185, FTM_OFFSET). -/
def servo (o : Int) (s : State) : State :=
  if !s.ftm.qualified ∨ s.ftm.state = .free then s
  else
    let s := setFtm (fun m => { m with offset := o }) s
    if o.natAbs ≤ s.ftm.stepThr then ftSlew o s
    else if stepBarred o s then
      let s := setFtm (fun m => { m with incr := nominalIncr - slewMax, good := 0 }) s
      if s.ftm.state = .holdover then enterFt .acquiring s else s
    else ftStep o s

/-- Least and greatest time between two PPS edges that the window of Table 6.2 allows, at the limits of TREF_10M, ns. -/
def ppsMin : Nat := 999949900
def ppsMax : Nat := 1000050100

/-- A time source meets what this plane sees of its condition (Table 6.2): a PPS edge in the last second, a Sync message in the last 2 s, timing ordered
sets on a port that is up. What it does not see, TREF_10M and the selection of a master, is told by the commands (assumption 18). -/
def sourceReady (s : State) (src : Nat) : Bool :=
  match src with
  | 1 => s.ftm.ppsAt.any fun t => decide (s.now ≤ t + ppsMax)
  | 2 | 3 => (aget s.ftm.syncAt (src - 2)).any fun t => decide (s.now ≤ t + 2000000000)
  | 4 => portUp s s.ftm.refPort && (port s s.ftm.refPort).tosRxAt.any fun t => decide (s.now ≤ t + 8192)
  | _ => false

/-- PPS_EDGE (R182): FT at the edge is a whole second and pps_delay_ns; the seconds are those set, or those nearest to FT. Seconds that were set hold on,
one more at each edge, while a step back to them is barred and FT slews (R185). An edge outside the window after
the one before it disqualifies the source (Table 6.2). -/
def ppsEdge (s : State) : State :=
  let bad := s.ftm.ppsAt.any fun t => decide (s.now < t + ppsMin ∨ t + ppsMax < s.now)
  let s := setFtm (fun m => { m with ppsAt := some s.now }) s
  if s.ftm.source ≠ 1 ∨ !s.ftm.qualified then s
  else if bad then disqualify s
  else
    let k : Int := match s.ftm.setSecs with
      | some n => n
      | none => (Int.ofNat (ft s) - s.ftm.ppsDelayNs + 500000000) / 1000000000
    let o := k * 1000000000 + s.ftm.ppsDelayNs - ft s
    servo o (setFtm (fun m => { m with setSecs := if stepBarred o s then m.setSecs.map (· + 1) else none }) s)

/-- Row PPS_EDGE. -/
def execPpsEdge (s : State) : Outcome := runT ppsEdge s

/-- PTP_SYNC (R183): a Sync message of a master in the selected domain, from a one-step transmitter or with its Follow_Up, over either transport: `t1` the
time it left the master, with its correction, and `t2` the FT it arrived at. A delay request-response exchange since the last one brings `t3`, the FT its
request left at, and `t4`, when the master received it; the mean of the two ways is the path delay. A source whose Sync stayed away for 2 s is
disqualified. -/
def ptpSync (mgmtPort domain t1 t2 : Nat) (delay : Option (Nat × Nat)) (s : State) : State :=
  if domain ≠ s.ftm.ptpDomain ∨ 2 ≤ mgmtPort then s
  else
    let late := (aget s.ftm.syncAt mgmtPort).any fun t => decide (t + 2000000000 < s.now)
    let d : Int := match delay with
      | some (t3, t4) => ((Int.ofNat t2 - t1) + (Int.ofNat t4 - t3)) / 2
      | none => agetD s.ftm.ptpDelay mgmtPort 0
    let s := setFtm (fun m => { m with syncAt := aset m.syncAt mgmtPort s.now, ptpDelay := aset m.ptpDelay mgmtPort d }) s
    if s.ftm.source ≠ 2 + mgmtPort ∨ !s.ftm.qualified then s
    else if late then disqualify s
    else servo (Int.ofNat t1 + d - t2) s

/-- Row PTP_SYNC; one-step and two-step transmitters and both transports have the same effect. -/
def execPtpSync (mgmtPort domain : Nat) (sync : PtpExchange) (s : State) : Outcome :=
  runT (ptpSync mgmtPort domain sync.t1 sync.t2 sync.delay) s

/-- TOS_SERVO_UPDATE (R182): the timing ordered sets of the reference port measure the offset; where they have stopped, the source is disqualified. -/
def tosServo (s : State) : State :=
  if s.ftm.source ≠ 4 then s
  else if !sourceReady s 4 then (if s.ftm.qualified then disqualify s else s)
  else match (port s s.ftm.refPort).lastTos with
    | none => s
    | some (t, a) => servo (Int.ofNat t + (port s s.ftm.refPort).delayPs / 1000 - Int.ofNat a) s

/-- Row TOS_SERVO_UPDATE. -/
def execTosServoUpdate (s : State) : Outcome := runT tosServo s

/-- SOURCE_QUALIFY (R184, Table 6.2): a source that meets its condition is qualified: FREE leaves for ACQUIRING; in HOLDOVER the next servo update
decides. -/
def sourceQualify (s : State) : State :=
  if !sourceReady s s.ftm.source then s
  else
    let s := setFtm (fun m => { m with qualified := true }) s
    if s.ftm.state = .free then enterFt .acquiring s else s

/-- Row SOURCE_QUALIFY. -/
def execSourceQualify (s : State) : Outcome := runT sourceQualify s

/-- SOURCE_DISQUALIFY (R184). -/
def execSourceDisqualify (s : State) : Outcome := runT disqualify s

/-- Error estimate of R186 in ns times 10^9: 6 ns and drift_ppb of the time since the source was lost. While no
image is loaded the defaults of R536 stand for its values: DESIGN CHOICE (assumption 64). -/
def holdErr (s : State) : Nat := 6 * 10 ^ 9 + (dev s).driftPpb * (s.now - s.ftm.lostAt)

/-- HOLDOVER_EXPIRE (R186). -/
def execHoldoverExpire (s : State) : Outcome :=
  runT (fun s =>
    if s.ftm.state = .holdover ∧ (holdErr s > 128 * 10 ^ 9 ∨ s.now - s.ftm.lostAt > (dev s).holdoverMs * 1000000) then enterFt .free s else s) s

/-- SCHED_ACTIVATE (R188): the first frame boundary after 64 frames of LOCKED has come. -/
def execSchedActivate (s : State) : Outcome :=
  runT (fun s =>
    if s.ftm.state = .locked ∧ ftFrame s ≥ s.ftm.lockedFrom + 64 then setFtm (fun m => { m with schedActive := true }) s else s) s

/-- PPS_OUT_RISE (R189): FT, which moves by up to 2 ns at a time, has reached a multiple of 10^9. -/
def execPpsOutRise (s : State) : Outcome :=
  runT (fun s =>
    if s.ftm.ppsEn ∧ !s.ftm.ppsOut ∧ ft s % 1000000000 < 2 then
      setFtm (fun m => { m with ppsOut := true, ppsRise := ft s - ft s % 1000000000 }) s
    else s) s

/-- Width of PPS_OUT, us: the code 0 selects 10 (Table 13.4, R536). -/
def ppsWidth (s : State) : Nat := if s.ftm.ppsWidthUs = 0 then 10 else s.ftm.ppsWidthUs

/-- PPS_OUT_FALL (R189). -/
def execPpsOutFall (s : State) : Outcome :=
  runT (fun s =>
    if s.ftm.ppsOut ∧ (ft s ≥ s.ftm.ppsRise + ppsWidth s * 1000 ∨ ft s < s.ftm.ppsRise) then
      setFtm (fun m => { m with ppsOut := false }) s
    else s) s

/-- TOS_SEND (R190, R368): a timing ordered set with the FT at which it leaves, and the echo of the last one received. -/
def tosSend (p : Nat) (s : State) : State :=
  if !(portUp s p && decide ((portRec s p).protocol = 1) && (port s p).tosTx) ∨ s.now < (port s p).tosAt + 4096 ∨
      !((port s p).items = [] && flitsFit s p 1) then s
  else
    let q := port s p
    let e := q.lastTos.getD (0, 0)
    setPort p (fun q => { q with tosAt := s.now }) (sendItem p (.tos q.lastTos.isSome (ftPs s) (ft s) q.lastTosPs.1 e.1 q.lastTosPs.2 e.2) s)

/-- Row TOS_SEND. -/
def execTosSend (port : Nat) (s : State) : Outcome := runE (tosSend port) s

/-- FTM_CTL_WRITE (R209, Table 6.8): a write that changes source or ref_port puts the unit into ACQUIRING if the new source is qualified and
into FREE otherwise. Of sources 1 to 3, one that stays is qualified as it was; of another, what this plane sees of its condition must hold (Table 6.2), and for sources 1
to 3 a free bit tells the rest. -/
def ftmCtlWrite (v : Nat) (s : State) : State :=
  let src := bits v 0 3
  let rp := bits v 8 8
  let thr := bits v 32 16
  let new := src ≠ s.ftm.source ∨ rp ≠ s.ftm.refPort
  let same := src = s.ftm.source
  let was := s.ftm.qualified
  let s := setFtm (fun m => { m with source := src, refPort := rp, ptpDomain := bits v 16 8, stepThr := if thr = 0 then 1000 else thr }) s
  if new then
    let (b, s) := freeBit s
    let ok := if same then (if src = 4 then sourceReady s 4 else was) else sourceReady s src && (b || decide (src = 4))
    enterFt (if ok then .acquiring else .free) (setFtm (fun m => { m with qualified := ok }) s)
  else s

/-- Row FTM_CTL_WRITE. -/
def execFtmCtlWrite (v : Word64) (s : State) : Outcome := runE (byPaste (ftmCtlWrite v.toNat)) s

/-! ## Schedule banks (R196, R197) -/

/-- SCHED_ARM (R196): a frame that is too near sets late, arms nothing and keeps the staged bank; else the staged bank is armed.
An arming that was pending does not outlive a later write: DESIGN CHOICE (assumption 64). -/
def schedArm (frame : Nat) (s : State) : State :=
  let s := setFtm (fun m => { m with actFrame := frame % 2 ^ 40 }) s
  if s.ftm.actFrame < ftFrame s + 2 then setFtm (fun m => { m with late := true, arm := false }) s
  else setFtm (fun m => { m with arm := true }) s

/-- Row SCHED_ARM. -/
def execSchedArm (actFrame : Nat) (s : State) : Outcome := runE (byPaste (schedArm actFrame)) s

/-- A class 7 unit taken from its queues at a swap enters class 6 toward the ports it was queued for (R197, R201); what stands in for the requester and
the port of a plane-sourced unit is the model's choice (assumption 58). -/
def swapDemote (u : StreamOut) (stored : Bool) (dests : List Nat) (s : State) : State :=
  let h := u.hdr
  let s := demoteCount 5 h.port h.schedId h.rid u.accSlot s
  let c := streamPolice 6 h s
  let s := c.2
  if c.1 = Colour.red then s
  else
    let y := decide (c.1 = Colour.yellow)
    let u := { u with hdr := { h with cls := 6 } }
    let n := streamCells u
    let ok := admitCopies s dests 6 n false
    if stored then
      multicast (.stream u) .shr n (streamBytes u) h.part 6 h.poison y none ok
        (poolTake .shr n (bumpG .vatMcDrop (dests.length - ok.length) s))
    else if ok ≠ [] ∧ fifoOpen s h.port 1 (stgUnits (streamBytes u)) then deliverStream u .shr 6 y none (poolTake .shr n s)
    else if portUp s h.port then
      let t := stage h.port 1 (stgUnits (streamBytes u)) false (.stream u y false) s
      if t.1 then t.2 else dropAdmit h.port s
    else dropAdmit h.port s

/-- The ports whose class 7 queues hold a copy of a stored unit. -/
def copyPorts (s : State) (mc : Nat) : List Nat :=
  (s.ports.filter fun e => (queue e.2 7).any fun d => decide (d.item = .copy mc)).map (·.1)

/-- Every class 7 unit still queued, whether it is stored for several members, and the ports it waits at: single units port by port, then stored ones. -/
def queued7 (s : State) : List (StreamOut × Bool × List Nat) :=
  (s.ports.flatMap fun e => (queue e.2 7).filterMap fun d => match d.item with
    | .stream u => some (u, false, [e.1])
    | _ => none) ++
  (s.vat.mcs.filterMap fun m => match m.item with
    | .stream u => match copyPorts s m.mc with
      | [] => none
      | ps => some (u, true, ps)
    | _ => none)

/-- Class 7 units that wait in staging at a swap are demoted too (assumption 58). -/
def swapStaged (s : State) : State :=
  (s.ports.flatMap fun e => e.2.stg.filterMap fun u => match u.item with
    | .stream x _ _ => if x.hdr.cls = 7 then some (e.1, u.uid, x) else none
    | _ => none).foldl (fun s y => (stagedDemote 5 y.1 y.2.1 y.2.2 s).2) s

/-- SCHED_BANK_SWAP (R197): FT has reached act_frame x 2^24. -/
def bankSwap (s : State) : State :=
  if !s.ftm.arm ∨ ft s < s.ftm.actFrame * frameNs then s
  else
    let old := s.ftm.active
    let new := s.ftm.staged
    let s := setFtm (fun m => { m with
      activeBank := !m.activeBank, active := new, staged := old, stagedValid := decide (old ≠ {}), arm := false
      actBegan := m.actFrame, sent := []
      streams := m.streams.filter fun x => decide (aget new.flows x.schedId = some x.flow) && x.flow.valid }) s
    let us := queued7 s
    swapStaged (us.foldl (fun s u => swapDemote u.1 u.2.1 u.2.2 s) (purgeAll (fun d => d.cls == 7) s))

/-- Row SCHED_BANK_SWAP. -/
def execSchedBankSwap (s : State) : Outcome := runE bankSwap s

/-- A repeat of a window entry begins one slot after slot `t` of a frame (R200). -/
def winStarts (w : SchWinRec) (t : Nat) : Bool :=
  let d := (t + 1 + 65536 - w.start % 65536) % 65536
  if w.period = 0 then decide (d = 0) else decide (d % w.period = 0 ∧ d / w.period ≤ w.rep)

/-- SCHED_WINDOW_OPEN (R200): at slot start - 1 of a repeat the window's sent count is zeroed. -/
def execSchedWindowOpen (win : Nat) (s : State) : Outcome :=
  runE (fun s => match aget s.ftm.active.wins win with
    | none => s
    | some w => if winStarts w (ftSlot s % 65536) then setFtm (fun m => { m with sent := aset m.sent win 0 }) s else s) s

/-! ## Plane-sourced streams (R199) -/

/-- Slot `t` of a frame is a send slot of a flow (R193). -/
def sendSlot (s : State) (schedId t : Nat) : Bool :=
  s.ftm.active.wins.any fun w =>
    decide (w.2.schedId = schedId) && decide (w.2.start ≤ t) &&
      decide ((t - w.2.start) - (if w.2.period = 0 then 0 else min w.2.rep ((t - w.2.start) / w.2.period)) * w.2.period < w.2.len)

/-- A part of a unit is read from its range (R114, R199). -/
def strmRead (x : Stream) (slot base : Nat) (v : Nat × RangeEntry × Bool) (s : State) (a : Nat × Nat) : State :=
  let (id, s) := takeId s
  let h : ReqHdr := {
    port := 0, rid := 0, part := x.flow.part, cls := 0, cmark := false, poison := false, tag := 0, reissue := false,
    addr := fabricOf v.2.1 (planes s) (ownPlane s) a.1, key := v.2.1.key }
  goLock id { s with mem := { s.mem with reqs := s.mem.reqs ++
    [{ id := id, hdr := h, kind := .loadStream a.2, src := .strm x.schedId slot (a.1 - base), accAt := s.now, phase := .lock, view := some v, fgen := firnGen s v.1 }] } }

/-- STREAM_UNIT_READ (R199): in slot s - lead_slots the unit's SCH cells are reserved and its bytes are read; the last unit ends the stream. -/
def unitRead (schedId : Nat) (s : State) : State :=
  match s.ftm.streams.find? fun x => x.schedId = schedId with
  | none => s
  | some x =>
    let slot := ftSlot s + x.flow.leadSlots
    let total := x.flow.length * 4096
    let at_ := x.next * x.flow.unitCells * 256
    if x.stopping then setFtm (fun m => { m with streams := m.streams.filter fun y => y.schedId ≠ schedId }) s
    else if !sendSlot s schedId (slot % 65536) ∨ slot / 65536 < x.startFrame ∨ x.lastSlot = some slot ∨ total ≤ at_ ∨ x.flow.unitCells = 0 then s
    else
      let n := min (x.flow.unitCells * 256) (total - at_)
      let cells := ceilDiv n 256
      if s.vat.sch + cells > poolCells s .sch then s
      else
        let s := poolTake .sch cells s
        let parts := pagePieces (n / 4096 + 2) (x.flow.loc + at_) n
        let streams (l : List Stream) : List Stream :=
          if total ≤ at_ + n then l.filter fun y => y.schedId ≠ schedId
          else modFirst (fun y => y.schedId = schedId) (fun y => { y with next := y.next + 1, lastSlot := some slot }) l
        let u : StrmUnit := { schedId := schedId, slot := slot, cells := cells, dest := x.flow.dest, part := x.flow.part, left := parts.length }
        let s := setFtm (fun m => { m with streams := streams m.streams, units := m.units ++ [u] }) s
        match aget s.img.ranges x.flow.range with
        | none => parts.foldl (fun s a => strmBack schedId slot (a.1 - (x.flow.loc + at_)) .poison (zeros a.2) s) s
        | some e => parts.foldl (strmRead x slot (x.flow.loc + at_) (x.flow.range, e, ownOdd s)) s

/-- Row STREAM_UNIT_READ. -/
def execStreamUnitRead (schedId : Nat) (s : State) : Outcome := runE (unitRead schedId) s

/-! ## Window grants (R205, R206) -/

/-- The stream FIFO of a port can take one more unit, in staging or in Whey (R120). -/
def streamRoom (s : State) (p : Nat) : Bool :=
  let q := port s p
  (decide (stgUsed q < 1024) && !fifoSpilled q 1) || (decide (wheyOf q + 256 ≤ wheyQuota s p) && decide (wheyUsed s + 256 ≤ wheyCarve s))

/-- GRANT_ISSUE (R205, R206): an allowance, in 64-byte units, with its per-slot limit in bytes, against SHR cells reserved for it; it expires
64 slots later. Grants of a port stay within its window; a port whose grants are withheld issues none (R120, R159). -/
def grantIssue (p allowance perSlot : Nat) (s : State) : State :=
  let bytes := allowance * 64
  let cells := ceilDiv bytes 256
  if !(portIs s p 1 0 && portUp s p) ∨ (port s p).withheld ∨ !streamRoom s p ∨ s.pwr.pstate ≠ 0 then s
  else if sumOf ((port s p).grantsOut.map (·.left)) + bytes > (portRec s p).windowKib * 1024 ∨ cells > shrFree s ∨ bytes = 0 then s
  else
    let (gid, s) := takeId s
    let x := ftSlot s + 64
    sendItem p (.grant allowance perSlot x) (poolTake .shr cells (setPort p (fun q => { q with
      grantsOut := q.grantsOut ++ [{ gid := gid, left := bytes, perSlot := perSlot, expiry := x, cells := cells }] }) s))

/-- Row GRANT_ISSUE. -/
def execGrantIssue (port allowance perSlot : Nat) (s : State) : Outcome := runE (grantIssue port allowance perSlot) s

/-- GRANT_LAPSE (R205, R206): at its expiry slot what is left of a grant lapses, and its reservation is released. -/
def grantLapse (gid : Nat) (s : State) : State :=
  let f (g : Grant) : Bool := decide (g.gid = gid) && decide (g.expiry ≤ ftSlot s)
  let cells := sumOf (s.ports.map fun e => sumOf ((e.2.grantsOut.filter f).map (·.cells)))
  poolGive .shr cells { s with ports := s.ports.map fun e => (e.1, { e.2 with
    grantsOut := e.2.grantsOut.filter fun g => !f g, grantsIn := e.2.grantsIn.filter fun g => !f g }) }

/-- Row GRANT_LAPSE. -/
def execGrantLapse (gid : Nat) (s : State) : Outcome := runE (grantLapse gid) s

end Sys2Proof.Machine
end

