-- ==== Sys2Proof/Machine/Traffic.lean ====
section
/-! DEFINITION. Policers, shapers and limits under traffic (chapter 5): their indirect registers, and what waits for a policer. -/

namespace Sys2Proof.Machine

/-- `s` with traffic control changed. -/
def setTmc (f : Tmc → Tmc) (s : State) : State := { s with tmc := f s.tmc }

/-- Records of a table of TMC_IND_SEL (Table 5.6). -/
def tmcSize (table : Nat) : Nat := match table with
  | 0 => 8192
  | 1 => 2048
  | 2 => 4096
  | _ => 128

/-- Milli-bytes as whole bytes in a signed 32-bit field (Table 5.7), rounded down: DESIGN CHOICE (assumption 64). -/
def milli (n : Int) : Nat := unsigned 32 (n / 1000)

/-- The words of a record at an index (Table 5.7): D0, D1, D2. -/
def tmcWords (s : State) (table i : Nat) : Nat × Nat × Nat :=
  match table with
  | 0 =>
    let r := agetD (policersNow s) i {}
    let p := refill r (agetD s.tmc.pols i {}) s.now
    (r.cir + r.pir * 2 ^ 32 + b2n r.en * 2 ^ 60 + b2n r.colorAware * 2 ^ 61, r.cbs + r.pbs * 2 ^ 32, milli p.tc + milli p.tp * 2 ^ 32)
  | 1 =>
    let r := shaperNow s i
    (r.idleSlope + b2n r.shaped * 2 ^ 24 + r.hiCredit * 2 ^ 32, 0, milli (agetD s.tmc.shps i {}).credit)
  | 2 =>
    (reqLimitOf s i + subOf s i * 2 ^ 16, 0, agetD s.mem.outReq i 0)
  | _ =>
    let n := agetD s.mem.outPart i 0
    (partLimitOf s i, 0, n + ownLevel s i n * 2 ^ 16)

/-- TMC_IND_CMD bit 0 (R177); an index beyond the table reads zeros and sets TMC_IND_SEL.error (Table 5.6). -/
def tmcRead (s : State) : State :=
  let ok := decide (s.tmc.selIndex < tmcSize s.tmc.selTable)
  let w := if ok then tmcWords s s.tmc.selTable s.tmc.selIndex else (0, 0, 0)
  setTmc (fun m => { m with d0 := BitVec.ofNat 64 w.1, d1 := BitVec.ofNat 64 w.2.1, d2 := BitVec.ofNat 64 w.2.2, selError := m.selError || !ok }) s

/-- Bits of D0 and D1 that Table 5.7 lists for the selected table; the others are reserved (R8). -/
def tmcMasks (table : Nat) : Nat × Nat := match table with
  | 0 => (0x30FFFFFF00FFFFFF, 0x000FFFFF000FFFFF)
  | 1 => (0x0000FFFF01FFFFFF, 0)
  | 2 => (0x0000000000070FFF, 0)
  | _ => (0x000000000000FFFF, 0)

/-- Row TMC_IND_READ. -/
def execTmcIndRead (s : State) : Outcome := runE (byPaste tmcRead) s

/-- A policer's record of words D0 and D1 (Table 5.7). -/
def polOf (d0 d1 : Nat) : PolicerRec :=
  { cir := bits d0 0 24, pir := bits d0 32 24, en := bitAt d0 60, colorAware := bitAt d0 61, cbs := bits d1 0 20, pbs := bits d1 32 20 }

/-- CXL.mem units are charged to the policer (R162): its partition has a window on a CXL port whose cxl_class is its class. -/
def polCxl (windows : List (Nat × WindowRec)) (reqs : List (Nat × ReqRec)) (ports : List (Nat × PortRec)) (i : Nat) : Bool :=
  windows.any fun w => w.2.valid && decide ((agetD reqs w.2.rid {}).part = i / 64) &&
    decide ((agetD ports w.2.port {}).protocol = 2) && decide ((agetD ports w.2.port {}).cxlClass = i / 8 % 8)

/-- The rules of R161 and R162 for a policer's record. -/
def polOk (cxl : Bool) (i : Nat) (r : PolicerRec) : Bool :=
  !r.en || (decide (i / 8 % 8 ≠ 7) && decide (r.cir ≤ r.pir) && decide (64 ≤ r.cbs) && decide (64 ≤ r.pbs) && !(cxl && decide (r.pir = 0)))

/-- R169 for a port: slopes in MB/s that sum to `sum`, its lanes and rate, and its class 7 slots. The payload rate is rate x 125 / 136 (R132). -/
def slopeOk (sum width rate slots : Nat) : Bool := decide (sum * 4352 * 65536 ≤ laneRate rate * width * 125000 * (65536 - slots))

/-- Idle slopes of the SHAPED queues of a port. An entry of class 7, which is reserved, is held and counted as any other: DESIGN CHOICE (assumption 64). -/
def slopeSum (shs : List (Nat × ShaperRec)) (p : Nat) : Nat :=
  sumOf ((shs.filter fun e => decide (e.1 / 8 = p) && e.2.shaped).map fun e => e.2.idleSlope)

/-- A policer takes a new record (R171). -/
def polSet (i : Nat) (r : PolicerRec) (s : State) : State :=
  let p := refill (agetD (policersNow s) i {}) (agetD s.tmc.pols i {}) s.now
  setTmc (fun m => { m with
    livePol := aset m.livePol i r
    pols := aset m.pols i { p with tc := min p.tc (r.cbs * 256000), tp := min p.tp (r.pbs * 256000) } }) s

/-- A shaper takes a new record (R171); its credit is kept up to date every nanosecond. -/
def shpSet (i : Nat) (r : ShaperRec) (s : State) : State :=
  setTmc (fun m => { m with
    liveShp := aset m.liveShp i r
    shps := amod m.shps i {} fun c => { credit := min (max c.credit (-16384000)) (r.hiCredit * 64000) } }) s

/-- The rule of R169 for a port with the shapers `shs`: at the width now trained (assumption 56), under the active bank and under a staged one that
may be armed. -/
def slopesFit (s : State) (shs : List (Nat × ShaperRec)) (p : Nat) : Bool :=
  let l := lanesNow s p
  slopeOk (slopeSum shs p) l.1 l.2 (egressSlots s p) &&
    (!s.ftm.stagedValid || slopeOk (slopeSum shs p) l.1 l.2 (popTree 16 (agetD s.ftm.staged.maps p 0)))

/-- TMC_IND_CMD bit 1 (R177, R170 to R172, R162, R169): a write that breaks a rule, or names no record, is ignored and reported in error. What is written
stands beside the image, which it does not change (R388, R399). -/
def tmcWrite (s : State) : State :=
  let i := s.tmc.selIndex
  let d0 := s.tmc.d0.toNat
  let err := setTmc (fun m => { m with selError := true })
  if tmcSize s.tmc.selTable ≤ i then err s
  else match s.tmc.selTable with
    | 0 =>
      let r := polOf d0 s.tmc.d1.toNat
      if polOk (polCxl s.img.windows s.img.reqs s.img.ports i) i r then polSet i r s else err s
    | 1 =>
      let r : ShaperRec := { idleSlope := bits d0 0 24, shaped := bitAt d0 24, hiCredit := bits d0 32 16 }
      if slopesFit s (aset (shapersNow s) i r) (i / 8) then shpSet i r s else err s
    | 2 =>
      let n := bits d0 0 12
      setTmc (fun m => { m with liveReq := aset m.liveReq i (if n = 0 then 256 else n, bits d0 16 3) }) s
    | _ =>
      let n := bits d0 0 16
      setTmc (fun m => { m with livePart := aset m.livePart i (if n = 0 then 4096 else n) }) s

/-- Row TMC_IND_WRITE. -/
def execTmcIndWrite (s : State) : Outcome := runE (byPaste tmcWrite) s

/-- POLICER_TOKENS_POSITIVE (R224, R159, R160): the policer's tp is above zero by refill. Red engine accesses that wait for it may go; a port whose
grants no other red policer withholds, and a CXL port that no policer holds in debt any more, are served again. -/
def tokensPositive (i : Nat) (s : State) : State :=
  let p := refill (agetD (policersNow s) i {}) (agetD s.tmc.pols i {}) s.now
  if p.tp ≤ 0 then s
  else
    let s := setTmc (fun m => { m with pols := aset m.pols i p }) s
    let free (f : Flit) : Flit := if f.pol = 1 ∧ polIndex f.part (fClass f.word) (subOf s f.rid) = i then { f with pol := 2 } else f
    let s := { s with eng := { s.eng with flits := s.eng.flits.map free } }
    let held := (s.ports.filter fun e => e.2.withheld).map (·.1)
    held.foldl (fun s p =>
      if (portRec s p).protocol = 2 then cxlCredits p s
      else setPort p (fun q =>
        let l := q.redPols.filter (· ≠ i)
        { q with redPols := l, withheld := decide (l ≠ []) }) s) s

/-- Row POLICER_TOKENS_POSITIVE. -/
def execPolicerTokensPositive (pol : Nat) (s : State) : Outcome := runE (tokensPositive pol) s

end Sys2Proof.Machine
end

