-- ==== Sys2Proof/Machine/EngCmds.lean ====
section
/-! DEFINITION. The rows of the engines (chapters 7 to 11): the ops of accepted flits, each from one wait to the next (`runOp`), and the events of
submission, scratch, groups, collections and sequences. -/

namespace Sys2Proof.Machine

/-! ## Ops of Table 7.5 (SCR) -/

/-- SCR_ALLOC (R226, Table 7.5): resident scratch is allocated. -/
def execScrAlloc (part slot : Nat) (s : State) : Outcome := runE (runOp 6 1 stepScrAlloc part slot) s

/-- SCR_FREE (R226, Table 7.5): a resident handle is freed once no running flit names it. -/
def execScrFree (part slot : Nat) (s : State) : Outcome := runE (runOp 6 2 stepScrFree part slot) s

/-- SCR_FILL (R226, Table 7.5): pool data is copied into resident scratch. -/
def execScrFill (part slot : Nat) (s : State) : Outcome := runE (runOp 6 3 stepScrFill part slot) s

/-! ## PROXY (R232, R538, Table 7.9) -/

/-- PROXY_AT_ADD (R232, Table 7.9): the flit carries the request of opcode 0x20. -/
def execProxyAtAdd (part slot : Nat) (s : State) : Outcome := runE (runOp 1 0x20 stepProxy part slot) s

/-- PROXY_AT_AND (R232, Table 7.9): the flit carries the request of opcode 0x21. -/
def execProxyAtAnd (part slot : Nat) (s : State) : Outcome := runE (runOp 1 0x21 stepProxy part slot) s

/-- PROXY_AT_OR (R232, Table 7.9): the flit carries the request of opcode 0x22. -/
def execProxyAtOr (part slot : Nat) (s : State) : Outcome := runE (runOp 1 0x22 stepProxy part slot) s

/-- PROXY_AT_XOR (R232, Table 7.9): the flit carries the request of opcode 0x23. -/
def execProxyAtXor (part slot : Nat) (s : State) : Outcome := runE (runOp 1 0x23 stepProxy part slot) s

/-- PROXY_AT_SWAP (R232, Table 7.9): the flit carries the request of opcode 0x24. -/
def execProxyAtSwap (part slot : Nat) (s : State) : Outcome := runE (runOp 1 0x24 stepProxy part slot) s

/-- PROXY_AT_MIN (R232, Table 7.9): the flit carries the request of opcode 0x25. -/
def execProxyAtMin (part slot : Nat) (s : State) : Outcome := runE (runOp 1 0x25 stepProxy part slot) s

/-- PROXY_AT_MAX (R232, Table 7.9): the flit carries the request of opcode 0x26. -/
def execProxyAtMax (part slot : Nat) (s : State) : Outcome := runE (runOp 1 0x26 stepProxy part slot) s

/-- PROXY_AT_UMIN (R232, Table 7.9): the flit carries the request of opcode 0x27. -/
def execProxyAtUmin (part slot : Nat) (s : State) : Outcome := runE (runOp 1 0x27 stepProxy part slot) s

/-- PROXY_AT_UMAX (R232, Table 7.9): the flit carries the request of opcode 0x28. -/
def execProxyAtUmax (part slot : Nat) (s : State) : Outcome := runE (runOp 1 0x28 stepProxy part slot) s

/-- PROXY_CAS64 (R232, Table 7.9): the flit carries the request of opcode 0x2c. -/
def execProxyCas64 (part slot : Nat) (s : State) : Outcome := runE (runOp 1 0x2c stepProxy part slot) s

/-- PROXY_CAS128 (R232, Table 7.9): the flit carries the request of opcode 0x2d. -/
def execProxyCas128 (part slot : Nat) (s : State) : Outcome := runE (runOp 1 0x2d stepProxy part slot) s

/-- PROXY_STORE_GUARDED (R232, Table 7.9): the flit carries the request of opcode 0x12. -/
def execProxyStoreGuarded (part slot : Nat) (s : State) : Outcome := runE (runOp 1 0x12 stepProxy part slot) s

/-- PROXY_FLUSH_RANGE (R232, Table 7.9): the flit carries the request of opcode 0x30. -/
def execProxyFlushRange (part slot : Nat) (s : State) : Outcome := runE (runOp 1 0x30 stepProxy part slot) s

/-- PROXY_FENCE (R232, Table 7.9): the flit carries the request of opcode 0x31. -/
def execProxyFence (part slot : Nat) (s : State) : Outcome := runE (runOp 1 0x31 stepProxy part slot) s

/-- PROXY_PUBLISH (R232, Table 7.9): the flit carries the request of opcode 0x32. -/
def execProxyPublish (part slot : Nat) (s : State) : Outcome := runE (runOp 1 0x32 stepProxy part slot) s

/-! ## RDU ops (Table 8.8) -/

/-- GROUP_ARM (R258): a template is armed. -/
def execGroupArm (part slot : Nat) (s : State) : Outcome := runE (runOp 2 1 stepGroupArm part slot) s

/-- GROUP_DISARM (R266): the group drains. -/
def execGroupDisarm (part slot : Nat) (s : State) : Outcome := runE (runOp 2 2 stepGroupDisarm part slot) s

/-- REDUCE_MEM (R270): buffers in memory are combined chunk by chunk. -/
def execReduceMem (part slot : Nat) (s : State) : Outcome := runE (runOp 2 3 stepReduceMem part slot) s

/-! ## GTU ops (Table 9.1) -/

/-- GATHER (R284): rows are gathered. -/
def execGather (part slot : Nat) (s : State) : Outcome := runE (runOp 3 1 stepGtu part slot) s

/-- SCATTER (R285): rows are scattered. -/
def execScatter (part slot : Nat) (s : State) : Outcome := runE (runOp 3 2 stepGtu part slot) s

/-- SCATTER_ADD (R286): rows are accumulated exactly and written back. -/
def execScatterAdd (part slot : Nat) (s : State) : Outcome := runE (runOp 3 3 stepGtu part slot) s

/-! ## FLU ops (Table 10.2) -/

/-- COLL_DEFINE (R301): a collection is defined. -/
def execCollDefine (part slot : Nat) (s : State) : Outcome := runE (runOp 4 1 stepCollDefine part slot) s

/-- COLL_DROP (R302): a collection is removed; it has been dropping since acceptance. -/
def execCollDrop (part slot : Nat) (s : State) : Outcome := runE (runOp 4 2 stepCollDrop part slot) s

/-- APPEND (R309): inserts and deletes join the side list. -/
def execAppend (part slot : Nat) (s : State) : Outcome := runE (runOp 4 3 stepAppend part slot) s

/-- SCAN (R306): a query batch is searched. -/
def execScan (part slot : Nat) (s : State) : Outcome := runE (runOp 4 4 stepScan part slot) s

/-- COMPACT (R314): the side list is folded into a new main array. -/
def execCompact (part slot : Nat) (s : State) : Outcome := runE (runOp 4 5 stepCompact part slot) s

/-- COLL_REBASE (R317): the main array is re-pointed. -/
def execCollRebase (part slot : Nat) (s : State) : Outcome := runE (runOp 4 6 stepCollRebase part slot) s

/-- COLL_ACK (R321): lost_side is cleared. -/
def execCollAck (part slot : Nat) (s : State) : Outcome := runE (runOp 4 7 stepCollAck part slot) s

/-! ## CTU ops (Table 11.1) -/

/-- SEQ_OPEN (R333): a sequence is opened. -/
def execSeqOpen (part slot : Nat) (s : State) : Outcome := runE (runOp 5 1 stepSeqOpen part slot) s

/-- SEQ_CLOSE (R335): a sequence is asked to close. -/
def execSeqClose (part slot : Nat) (s : State) : Outcome := runE (runOp 5 2 stepSeqClose part slot) s

/-- PAGE_MAP (R334): part of the page table is replaced. -/
def execPageMap (part slot : Nat) (s : State) : Outcome := runE (runOp 5 3 stepPageMap part slot) s

/-- KV_APPEND (R337): key and value rows are appended. -/
def execKvAppend (part slot : Nat) (s : State) : Outcome := runE (runOp 5 4 stepKvAppend part slot) s

/-- ATTEND (R344): partial records are computed. -/
def execAttend (part slot : Nat) (s : State) : Outcome := runE (runOp 5 5 stepAttend part slot) s

/-! ## Flits and their accesses -/

/-- FLIT_START (R215, R232): the fence wait of a flit ends. -/
def execFlitStart (part slot : Nat) (s : State) : Outcome := runE (startFlit part slot) s

/-- FLIT_TIME_LIMIT (R230). -/
def execFlitTimeLimit (part slot : Nat) (s : State) : Outcome := runE (flitExpire part slot) s

/-- ENGINE_ACCESS_RETURN (R222): a tray answers an engine access. -/
def execEngineAccessReturn (aid : Nat) (st : Status) (data : Bytes) (s : State) : Outcome := runE (trayBack true aid st data) s

/-- ENG_CELL_RESERVE (R137): a context that waits for ENG cells takes them, and its access, result or unit goes. -/
def execEngCellReserve (part slot : Nat) (s : State) : Outcome := runE (cellReserve part slot) s

/-- ENGINE_COMPLETION (R227): every result write is in; the record is written and the status line updated. -/
def execEngineCompletion (part slot : Nat) (s : State) : Outcome := runE (completeFlit part slot) s

/-- SCRATCH_ZEROED (R226): one freed granule is zero, and counts as free. -/
def execScratchZeroed (s : State) : Outcome :=
  runE (fun s =>
    if s.eng.zeroing = 0 ∨ s.eng.aclkGated then s
    else { s with eng := { s.eng with zeroing := s.eng.zeroing - 1, scrFree := s.eng.scrFree + 1 } }) s

/-- GROUP_RELEASE (R266). -/
def execGroupRelease (group : Nat) (s : State) : Outcome := runE (groupRelease group) s

/-- CHUNK_TIMEOUT (R264). -/
def execChunkTimeout (group seq : Nat) (s : State) : Outcome := runE (chunkTimeout group seq) s

/-- SCATTER_ADD_PIECE (R287). -/
def execScatterAddPiece (part slot : Nat) (s : State) : Outcome := runE (runOp 3 3 stepPiece part slot) s

/-- COLL_DROP_DONE (R302). -/
def execCollDropDone (coll : Nat) (s : State) : Outcome := runE (collDropDone coll) s

/-- COMPACT_FLIP (R315). -/
def execCompactFlip (coll : Nat) (s : State) : Outcome := runE (compactFlip coll) s

/-- COMPACT_RECORD (R316). -/
def execCompactRecord (coll : Nat) (s : State) : Outcome := runE (compactRecord coll) s

/-- SEQ_CLOSE_COMPLETE (R335). -/
def execSeqCloseComplete (part slot : Nat) (s : State) : Outcome := runE (seqCloseDone part slot) s

end Sys2Proof.Machine
end

