-- ==== Sys2Proof/Machine/Image.lean ====
section
/-! DEFINITION. The Rennet image as bytes (R389 to R394): its header, its sections and its records. -/

namespace Sys2Proof.Machine

/-- Record bytes and most records of a section type (Table 13.3). -/
def sectSpec : Nat → Option (Nat × Nat)
  | 0x01 => some (80, 1) | 0x02 => some (48, 256) | 0x03 => some (40, 256) | 0x04 => some (20, 2048) | 0x05 => some (12, 4096)
  | 0x06 => some (8, 256) | 0x10 => some (64, 128) | 0x11 => some (16, 4096) | 0x12 => some (40, 16384) | 0x13 => some (24, 4096)
  | 0x14 => some (20, 8192) | 0x15 => some (40, 4096) | 0x16 => some (20, 1024) | 0x17 => some (8, 256) | 0x18 => some (32, 8)
  | 0x19 => some (16, 16) | 0x20 => some (36, 4096) | 0x21 => some (20, 16384) | 0x22 => some (8196, 256) | 0x23 => some (8, 1)
  | _ => none

/-- The 32-bit words of a record that may hold anything but zero: offset and mask of the defined bits (R8, R393, Tables 13.4 to 13.7). -/
def sectWords : Nat → List (Nat × Nat)
  | 0x01 => [(0x00, 0xFFFF01F7), (0x04, 0xFF), (0x08, 0x01FF01FF), (0x0C, 0x000F01FF), (0x10, 0xFFFFFFFF), (0x14, 0x0FFFFFFF), (0x18, 0x1F3F),
             (0x20, 0x0FFFFFFF), (0x24, 0xFFFFFFFF), (0x28, 0xFFFFFFFF), (0x30, 0x00FFFF07), (0x34, 0xFFFF), (0x38, 0x3FFF), (0x3C, 0x3FF),
             (0x40, 0xFFFF03FF)]
  | 0x02 => [(0x00, 0xFF), (0x08, 0x01FF3FFF), (0x0C, 0x3F), (0x10, 0x3FFFFFFF), (0x18, 0xFFFFFFFF), (0x1C, 0x00FFFFFF), (0x20, 0xFFFF0001),
             (0x28, 0x7FF), (0x2C, 0xFFFFFFFF)]
  | 0x03 => [(0x00, 0xFF), (0x04, 0x3F)] ++ (List.range 8).map fun i => (8 + 4 * i, 0xFFFFFFFF)
  | 0x04 => [(0x00, 0x1FFF), (0x04, 0x01FFFFFF), (0x08, 0xFFFF)]
  | 0x05 => [(0x00, 0xFFFFFFFF), (0x04, 0x0FFFFFFF), (0x08, 0xFF)]
  | 0x06 => [(0x00, 0xFF), (0x04, 0xFFFF)]
  | 0x10 => [(0x00, 0x0001FF7F), (0x04, 0xFFFF), (0x08, 0x1FFFF), (0x0C, 0x07FF0FFF), (0x10, 0x03FF07FF), (0x14, 0xFFF), (0x18, 0x1FFFF)]
              ++ (List.range 8).map fun i => (0x1C + 4 * i, 0x0FFF0FFF)
  | 0x11 => [(0x00, 0xFFF), (0x04, 0x007FFF07), (0x0C, 0x00070FFF)]
  | 0x12 => [(0x00, 0x3FFF), (0x08, 0xFFFFFFFF), (0x0C, 0x7FFFFFFF), (0x10, 0xFFFFFFFF), (0x14, 0x0FFFFFFF), (0x18, 0xFF), (0x1C, 0x7FFFFFFF),
             (0x20, 0x7FFFFFFF)]
  | 0x13 => [(0x00, 0x0FFFFF1F), (0x04, 0x7FFFFFFF), (0x08, 0x7FFFFFFF), (0x0C, 0x7FFFFFFF), (0x10, 0xFFFFFFFF)]
  | 0x14 => [(0x00, 0x1FFF), (0x04, 0x00FFFFFF), (0x08, 0x30FFFFFF), (0x0C, 0xFFFFF), (0x10, 0xFFFFF)]
  | 0x15 => [(0x00, 0x00FFFFFF), (0x04, 0xFFF)] ++ (List.range 8).map fun i => (8 + 4 * i, 0xFFFFFFFF)
  | 0x16 => [(0x00, 0x3FF), (0x04, 0xFFFFFFFF), (0x08, 0xFFFF)]
  | 0x17 => [(0x00, 0x7FFF), (0x04, 0xFFFFFFFF)]
  | 0x18 => [(0x00, 0x00FFFFFF), (0x04, 0x0FFFFFFF), (0x08, 0x7FFFFFFF), (0x0C, 0xFFFFFFFF), (0x10, 0xFFFFFFFF), (0x14, 0xFFFF)]
  | 0x19 => [(0x00, 0xFFFF), (0x04, 0xFFFF), (0x08, 0xFFFFFFFF), (0x0C, 0xFFFF)]
  | 0x20 => [(0x00, 0xFFF), (0x04, 0x0FFFFF07), (0x08, 0xFFFF0FFF), (0x0C, 0x003FFF7F), (0x10, 0xFFFFFFFF), (0x14, 0xFFFF), (0x18, 0xFFFFFFFF),
             (0x1C, 0xFF7F)]
  | 0x21 => [(0x00, 0x3FFF), (0x04, 0xFFFFFFFF), (0x08, 0xFFFFFFFF), (0x0C, 0xFFFFF), (0x10, 0x3FFFF)]
  | 0x23 => [(0x00, 0xFFFFF)]
  | _ => []

/-- Word `off` of a record. -/
def rw (b : Bytes) (off : Nat) : Nat := fieldAt b off 4

/-- Every reserved bit of a record is zero. A slot map's words after the first are all defined. -/
def resOk (t : Nat) (b : Bytes) : Bool :=
  if t = 0x22 then decide (rw b 0 < 256)
  else (List.range (b.length / 4)).all fun i =>
    let m := agetD (sectWords t) (4 * i) 0
    decide (rw b (4 * i) &&& m = rw b (4 * i))

/-! ## Records (Tables 13.4 to 13.7) -/

/-- A DEVICE record with the zero selections of R536. -/
def deviceOf (b : Bytes) : DeviceRec :=
  let z (n d : Nat) : Nat := if n = 0 then d else n
  { planeIndex := bits (rw b 0) 0 3, planes := bits (rw b 0) 4 3 + 1, twinPresent := bitAt (rw b 0) 7, mirrorEn := bitAt (rw b 0) 8,
    domainId := bits (rw b 0) 16 16, twinPort := rw b 4, firnGib := bits (rw b 8) 0 9, wheyGib := bits (rw b 8) 16 9,
    spillGib := bits (rw b 0xC) 0 9, ctlGib := bits (rw b 0xC) 16 4, rspCells := bits (fieldAt b 0x10 8) 0 20,
    schCells := bits (fieldAt b 0x10 8) 20 20, engCells := bits (fieldAt b 0x10 8) 40 20, wheyBwPct := z (bits (rw b 0x18) 0 6) 25,
    msgAgeMs := z (bits (rw b 0x18) 8 5) 4, alpha := (List.range 7).map fun k => bits (rw b 0x20) (4 * k) 4, readThr := z (rw b 0x24) 60000,
    ageS := z (bits (rw b 0x28) 0 16) 300, gwEtype := z (bits (rw b 0x28) 16 16) 0x88B5, source := bits (rw b 0x30) 0 3,
    refPort := bits (rw b 0x30) 8 8, ptpDomain := bits (rw b 0x30) 16 8, stepThr := z (rw b 0x34) 1000, holdoverMs := z (rw b 0x38) 1000,
    driftPpb := z (rw b 0x3C) 50, ppsEn := bitAt (rw b 0x40) 0, ppsWidthUs := bits (rw b 0x40) 1 9, ppsDelayNs := bits (rw b 0x40) 16 16 }

/-- A PORT record. -/
def portOf (b : Bytes) : PortRec :=
  { protocol := bits (rw b 8) 0 2, role := bits (rw b 8) 2 2, width := bits (rw b 8) 4 5, minWidth := bits (rw b 8) 9 5,
    firstLane := bits (rw b 8) 16 9, maxRate := bits (rw b 0xC) 0 4, cxlVer := bits (rw b 0xC) 4 2,
    pcpClass := (List.range 8).map fun i => bits (rw b 0x10) (3 * i) 3, untaggedClass := bits (rw b 0x10) 24 3, cxlClass := bits (rw b 0x10) 27 3,
    thr := (List.range 7).map fun i => fieldAt b (0x18 + i) 1, tosTx := bitAt (rw b 0x20) 0, asymPs := signed 16 (bits (rw b 0x20) 16 16),
    windowKib := if rw b 0x28 = 0 then 64 else rw b 0x28, wheyMib := rw b 0x2C }

/-- A PARTITION record. -/
def partOf (b : Bytes) : PartRec :=
  let al := fieldAt b 0xC 8
  { firnGib := if bits (rw b 0) 8 9 = 0x1FF then none else some (bits (rw b 0) 8 9)
    partLimit := if rw b 4 = 0 then 4096 else rw b 4
    idemQuota := if rw b 8 = 0x1FFFF then 512 else rw b 8
    ctx := [bits al 0 11, bits al 16 10, bits al 32 10, bits al 48 9], excl := [bitAt al 11, bitAt al 26, bitAt al 42, bitAt al 57]
    scratch := rw b 0x14, defaultVid := bits (rw b 0x18) 0 12
    vids := (List.range (bits (rw b 0x18) 12 5)).map fun i => fieldAt b (0x1C + 2 * i) 2 }

/-- A REQUESTER record with its limit record. -/
def reqOf (b : Bytes) : ReqRec :=
  { enabled := bitAt (rw b 4) 0, kind := bits (rw b 4) 1 2, port := bits (rw b 4) 8 8, part := bits (rw b 4) 16 7,
    reqLimit := if bits (rw b 0xC) 0 12 = 0 then 256 else bits (rw b 0xC) 0 12, sub := bits (rw b 0xC) 16 3 }

/-- Rights of four bits (Table 1.3). -/
def rightsOf (n : Nat) : Rights := { r := bitAt n 0, w := bitAt n 1, a := bitAt n 2, e := bitAt n 3 }

/-- A RANGE record. -/
def rangeRecOf (b : Bytes) : RangeEntry :=
  let c := rw b 0x14
  { valid := bitAt (rw b 8) 31, base := bits (rw b 8) 0 31, size := rw b 0xC, key := BitVec.ofNat 32 (rw b 0x10), owner := bits c 0 7,
    shared := bitAt c 7, ownerRights := rightsOf (bits c 8 4), otherRights := rightsOf (bits c 12 4), sealed := bitAt c 16, firn := bitAt c 17,
    tier := bits c 18 2, pinned := bitAt c 20, pinnedPlane := bits c 21 3, granule := bits c 24 4, iset := rw b 0x18, offEven := rw b 0x1C,
    offOdd := rw b 0x20 }

/-- A WINDOW record. -/
def windowOf (b : Bytes) : WindowRec :=
  { valid := bitAt (rw b 0) 0, index := bits (rw b 0) 1 4, port := bits (rw b 0) 8 8, rid := bits (rw b 0) 16 12, dpaBase := rw b 4,
    size := rw b 8, fabricBase := rw b 0xC, key := BitVec.ofNat 32 (rw b 0x10) }

/-- A policer's and a shaper's record. -/
def policerOf (b : Bytes) : PolicerRec := polOf (fieldAt b 4 8) (fieldAt b 0xC 8)
def shaperOf (b : Bytes) : ShaperRec := { idleSlope := bits (rw b 4) 0 24, shaped := bitAt (rw b 4) 24, hiCredit := rw b 8 }

/-- An MCAST record. -/
def mcastOf (b : Bytes) : McastRec :=
  let m := fieldAt b 8 32
  { loopback := bitAt (rw b 0) 12, cls := bits (rw b 0) 13 3, part := bits (rw b 0) 16 7, shared := bitAt (rw b 0) 23, floodVid := rw b 4,
    members := (List.range 256).filter (bitAt m) }

/-- An RGROUP record (Table 8.6). -/
def rgroupOf (b : Bytes) : RGroupRec :=
  let w := rw b 4
  { valid := bitAt w 0, part := bits w 1 7, mcast := bits w 8 12, resultClass := bits w 20 3, resultSched := bitAt w 23,
    maxWindow := bits w 24 8 + 1, timeoutUs := rw b 8 }

/-- COLL, GW_WINDOW, GW_EXPORT and L2_STATIC records. A MAC address stands in the order in which it is sent. -/
def collOf (b : Bytes) : CollRec := { part := bits (rw b 0) 8 7, sideMib := rw b 4 }
def gwWinOf (b : Bytes) : GwWindowRec :=
  { part := bits (rw b 0) 3 7, localRange := bits (rw b 0) 10 14, peerDomain := bits (rw b 4) 0 16, vid := bits (rw b 4) 16 12,
    remoteBase := rw b 8, remoteKey := BitVec.ofNat 32 (rw b 0xC), peerMac := fieldAt b 0x10 6 }
def gwExpOf (b : Bytes) : GwExportRec := { rid := bits (rw b 0) 4 12, peerDomain := rw b 4, peerMac := fieldAt b 8 6 }
def l2Of (b : Bytes) : L2StaticRec := { mac := fieldAt b 0 6, vid := bits (rw b 4) 16 12, port := rw b 8 }

/-- A FLOW record (Table 6.4). -/
def flowOf (b : Bytes) : FlowRec :=
  { valid := bitAt (rw b 4) 0, kind := bits (rw b 4) 1 2, srcPort := bits (rw b 4) 8 8, rid := bits (rw b 4) 16 12, dest := bits (rw b 8) 0 12,
    latSlots := bits (rw b 8) 16 16, part := bits (rw b 0xC) 0 7, range := bits (rw b 0xC) 8 14, loc := rw b 0x10 + rw b 0x14 * 2 ^ 32,
    length := rw b 0x18, unitCells := bits (rw b 0x1C) 0 7, leadSlots := bits (rw b 0x1C) 8 8 }

/-- A SCHWIN record (Table 6.5). -/
def schWinOf (b : Bytes) : SchWinRec :=
  { start := bits (rw b 4) 0 16, len := bits (rw b 4) 16 16, period := bits (rw b 8) 0 16, rep := bits (rw b 8) 16 16,
    schedId := bits (rw b 0xC) 0 12, port := bits (rw b 0xC) 12 8, slotBytes := rw b 0x10 }

/-- The index of a record (Table 13.3): what must rise from record to record (R393). -/
def recIndex (t : Nat) (b : Bytes) : Nat :=
  match t with
  | 0x01 | 0x23 => 0
  | 0x05 => bits (rw b 4) 16 12 * 2 ^ 48 + fieldAt b 0 6
  | 0x10 => bits (rw b 0) 0 7
  | 0x13 => bits (rw b 0) 8 8 * 16 + bits (rw b 0) 1 4
  | 0x15 => bits (rw b 0) 0 12
  | 0x17 => bits (rw b 0) 0 8
  | 0x18 => bits (rw b 0) 0 3
  | 0x19 => bits (rw b 0) 0 4
  | _ => rw b 0

/-- Entries that a count makes reserved are zero: members of a set, VIDs of a partition; so are the source port and the requester of a flow of kind 3
(R393, Table 6.4). -/
def tailOk (t : Nat) (b : Bytes) : Bool :=
  match t with
  | 0x03 => (List.range 32).all fun i => decide (i < rw b 4) || decide (fieldAt b (8 + i) 1 = 0)
  | 0x10 => (List.range 16).all fun i => decide (i < bits (rw b 0x18) 12 5) || decide (fieldAt b (0x1C + 2 * i) 2 = 0)
  | 0x20 => decide (bits (rw b 4) 1 2 ≠ 3) || decide (bits (rw b 4) 8 8 = 0 ∧ bits (rw b 4) 16 12 = 0)
  | _ => true

/-- The records of a section in a body. -/
def putRec (t : Nat) (body : ImgBody) (b : Bytes) : ImgBody :=
  let i := recIndex t b
  let sc (f : SchedBank → SchedBank) : ImgBody := { body with sched := some (f (body.sched.getD {})) }
  match t with
  | 0x01 => { body with device := some (deviceOf b) }
  | 0x02 => { body with ports := body.ports ++ [(i, portOf b)] }
  | 0x03 => { body with isets := body.isets ++ [(i, (List.range (rw b 4)).map fun k => fieldAt b (8 + k) 1)] }
  | 0x04 => { body with shapers := body.shapers ++ [(i, shaperOf b)] }
  | 0x05 => { body with l2 := body.l2 ++ [(body.l2.length, l2Of b)] }
  | 0x06 => { body with flashPool := body.flashPool ++ [(i, rw b 4)] }
  | 0x10 => { body with parts := body.parts ++ [(i, partOf b)] }
  | 0x11 => { body with reqs := body.reqs ++ [(i, reqOf b)] }
  | 0x12 => { body with ranges := body.ranges ++ [(i, rangeRecOf b)] }
  | 0x13 => { body with windows := body.windows ++ [(i, windowOf b)] }
  | 0x14 => { body with policers := body.policers ++ [(i, policerOf b)] }
  | 0x15 => { body with mcasts := body.mcasts ++ [(i, mcastOf b)] }
  | 0x16 => { body with rgroups := body.rgroups ++ [(i, rgroupOf b)] }
  | 0x17 => { body with colls := body.colls ++ [(i, collOf b)] }
  | 0x18 => { body with gwWins := body.gwWins ++ [(i, gwWinOf b)] }
  | 0x19 => { body with gwExps := body.gwExps ++ [(i, gwExpOf b)] }
  | 0x20 => sc fun x => { x with flows := x.flows ++ [(i, flowOf b)] }
  | 0x21 => sc fun x => { x with wins := x.wins ++ [(i, schWinOf b)] }
  | 0x22 => sc fun x => { x with maps := x.maps ++ [(i, leNat (b.drop 4))] }
  | 0x23 => sc fun x => { x with schPeak := rw b 0 }
  | _ => body

/-! ## Sections (R389, R391, R393) -/

/-- A section: its type, its records, and the position of its first record that breaks the form. -/
structure Sect where
  type : Nat
  recs : List Bytes := []
  bad : Option Nat := none
  raw : Bytes := []
  deriving DecidableEq, Repr

/-- Records cut from bytes. -/
def cutRecs (size : Nat) : Nat → Bytes → List Bytes
  | 0, _ => []
  | n + 1, b => b.take size :: cutRecs size n (b.drop size)

/-- The position of the first record that breaks R393: a reserved bit, or an index that does not rise. -/
def badRec (t : Nat) : Nat → Option Nat → List Bytes → Option Nat
  | _, _, [] => none
  | pos, prev, b :: rest =>
    let i := recIndex t b
    if resOk t b && tailOk t b && prev.all (fun p => decide (p < i)) then badRec t (pos + 1) (some i) rest else some pos

/-- The sections of `b` in turn: each known one, until one breaks the form. `prev` is the type before. -/
def cutSects : Nat → Option Nat → Bytes → List Sect
  | 0, _, b => if b = [] then [] else [{ type := 0, bad := some 0 }]
  | n + 1, prev, b =>
    let t := fieldAt b 0 1
    let len := rw b 4
    let cnt := rw b 8
    let size := rw b 12
    let broken : List Sect := [{ type := t, bad := some 0 }]
    let rises := prev.all fun p => decide (p < t)
    match sectSpec t with
    | none => if t < 128 ∨ !rises ∨ len < 16 ∨ len % 4 ≠ 0 ∨ b.length < len then broken else cutSects n (some t) (b.drop len)
    | some (sz, most) =>
      if !rises ∨ b.length < 16 ∨ rw b 0 ≠ t + 256 ∨ size ≠ sz ∨ cnt > most ∨ len ≠ ceilDiv (16 + cnt * sz) 4 * 4 ∨ b.length < len ∨
          anyByte ((b.take len).drop (16 + cnt * sz)) then broken
      else
        let recs := cutRecs sz cnt ((b.take len).drop 16)
        match badRec t 0 none recs with
        | some pos => [{ type := t, recs := recs, bad := some pos }]
        | none => { type := t, recs := recs, raw := b.take len } :: cutSects n (some t) (b.drop len)

/-- The body that a list of sections gives, with the bytes of its schedule sections (Table 15.6, index 6). -/
def bodyOf (ss : List Sect) : ImgBody :=
  let b := ss.foldl (fun body x => x.recs.foldl (putRec x.type) body) ({} : ImgBody)
  let src := (ss.filter fun x => decide (0x20 ≤ x.type ∧ x.type ≤ 0x23)).flatMap (·.raw)
  if src = [] then b else { b with sched := some { b.sched.getD {} with src := src } }

/-- The bytes between header and trailer. -/
def sectBytes (raw : Bytes) : Bytes := (raw.drop 128).take (raw.length - 224)

/-- The sections of an image. -/
def sectsOf (raw : Bytes) : List Sect := cutSects (fieldAt raw 0xC 2) none (sectBytes raw)

/-- An image as its bytes give it (Table 13.1). -/
def imageOf (raw : Bytes) : Image :=
  let ss := sectsOf raw
  { fmtVer := fieldAt raw 4 2, stepping := fieldAt raw 6 1, partialSeg := bitAt (rw raw 4) 24, serial := fieldAt raw 0x10 8,
    baseSerial := fieldAt raw 0x18 8, domainId := fieldAt raw 0x20 2, planeIndex := bits (rw raw 0x20) 16 3, keyId := rw raw 0x24,
    digest := slice raw 0x28 48, scope := (List.range 128).filter (bitAt (fieldAt raw 0x58 16)), body := bodyOf ss,
    rangeBytes := (ss.filter fun x => decide (x.type = 0x12)).flatMap (·.raw), raw := raw }

end Sys2Proof.Machine
end

