-- ==== Sys2Proof/Machine/Validate.lean ====
section
/-! DEFINITION. Validation of an image (R395, Table 13.8): every rule is checked against the tables that would result, and the first failure in
section and record order is the one reported. -/

namespace Sys2Proof.Machine

/-- A failure: section type, position, class (Table 13.8). -/
abbrev Fail := Nat × Nat × Nat

/-! ## Who owns a record, and the tables that result (R394, R400) -/

/-- Partition of a requester in a list of records. -/
def partIn (reqs : List (Nat × ReqRec)) (rid : Nat) : Nat := (agetD reqs rid {}).part

/-- Two tables merged in index order. -/
def mergeIx (a b : List (Nat × α)) : List (Nat × α) := sortBy (·.1) (a ++ b)

/-- The records of a body that no partition of `scope` owns. -/
def outside (scope : List Nat) (b : ImgBody) : ImgBody :=
  let out (p : Nat) : Bool := decide (p ∉ scope)
  { b with
    parts := b.parts.filter fun e => out e.1
    reqs := b.reqs.filter fun e => out e.2.part
    ranges := b.ranges.filter fun e => out e.2.owner
    windows := b.windows.filter fun e => out (partIn b.reqs e.2.rid)
    policers := b.policers.filter fun e => out (e.1 / 64)
    mcasts := b.mcasts.filter fun e => e.2.shared || out e.2.part
    rgroups := b.rgroups.filter fun e => out e.2.part
    colls := b.colls.filter fun e => out e.2.part
    gwWins := b.gwWins.filter fun e => out e.2.part
    gwExps := b.gwExps.filter fun e => out (partIn b.reqs e.2.rid) }

/-- The tables after an image: a full image's own, or the present ones with the named partitions' records replaced (R400, R404). -/
def resulting (s : State) (im : Image) : ImgBody :=
  if !im.partialSeg then im.body
  else
    let o := outside im.scope s.img
    { o with
      parts := mergeIx o.parts im.body.parts, reqs := mergeIx o.reqs im.body.reqs, ranges := mergeIx o.ranges im.body.ranges
      windows := mergeIx o.windows im.body.windows, policers := mergeIx o.policers im.body.policers
      mcasts := mergeIx o.mcasts im.body.mcasts, rgroups := mergeIx o.rgroups im.body.rgroups, colls := mergeIx o.colls im.body.colls
      gwWins := mergeIx o.gwWins im.body.gwWins, gwExps := mergeIx o.gwExps im.body.gwExps }

/-! ## Where a failure is reported (R395) -/

/-- Position of an index in a table. -/
def posIn (l : List (Nat × α)) (i : Nat) : Option Nat := l.findIdx? fun e => e.1 == i

/-- Position of a record in the image. -/
def posOf (b : ImgBody) (t i : Nat) : Option Nat :=
  match t with
  | 0x01 => if b.device.isSome then some 0 else none
  | 0x02 => posIn b.ports i
  | 0x03 => posIn b.isets i
  | 0x04 => posIn b.shapers i
  | 0x05 => posIn b.l2 i
  | 0x06 => posIn b.flashPool i
  | 0x10 => posIn b.parts i
  | 0x11 => posIn b.reqs i
  | 0x12 => posIn b.ranges i
  | 0x13 => posIn b.windows i
  | 0x14 => posIn b.policers i
  | 0x15 => posIn b.mcasts i
  | 0x16 => posIn b.rgroups i
  | 0x17 => posIn b.colls i
  | 0x18 => posIn b.gwWins i
  | 0x19 => posIn b.gwExps i
  | 0x20 => (b.sched.map (·.flows)).bind fun l => posIn l i
  | 0x21 => (b.sched.map (·.wins)).bind fun l => posIn l i
  | 0x22 => (b.sched.map (·.maps)).bind fun l => posIn l i
  | 0x23 => if b.sched.isSome then some 0 else none
  | _ => none

/-- The later of two places. -/
def laterPlace (a b : Nat × Nat) : Nat × Nat := if a.1 < b.1 ∨ (a.1 = b.1 ∧ a.2 < b.2) then b else a

/-- A failure of a rule that spans the records `inv` (type and index): at the last of them that the image carries, else at the type of the last,
position 0xFFFF. -/
def failAt (b : ImgBody) (cls : Nat) (inv : List (Nat × Nat)) : Fail :=
  match inv.filterMap fun x => (posOf b x.1 x.2).map fun p => (x.1, p) with
  | [] => (maxOf (inv.map (·.1)), 0xFFFF, cls)
  | p :: ps => let m := ps.foldl laterPlace p; (m.1, m.2, cls)

/-- A failure when a rule does not hold. -/
def rule (b : ImgBody) (cls : Nat) (inv : List (Nat × Nat)) (ok : Bool) : List Fail := if ok then [] else [failAt b cls inv]

/-- Pairs of distinct elements of a list, each once. -/
def pairs : List α → List (α × α)
  | [] => []
  | x :: t => (t.map fun y => (x, y)) ++ pairs t

/-! ## Device scope -/

/-- Response quanta of a port under a slot map (R132). -/
def capOf (r : PortRec) (slots : Nat) : Nat :=
  if r.role = 1 ∨ r.role = 3 ∨ r.protocol = 0 then 0 else laneRate r.maxRate * r.width * 31250 * (65536 - slots) / (8704 * 65536)

/-- Class 7 slots of a port in a bank. -/
def mapSlots (k : SchedBank) (p : Nat) : Nat := popTree 16 (agetD k.maps p 0)

/-- The slopes of a port's shaped queues against its egress map in a bank (R169). -/
def chkSlopes (body b : ImgBody) (k : SchedBank) : List Fail :=
  ((b.shapers.map (·.1 / 8)).eraseDups).flatMap fun p =>
    let r := agetD b.ports p {}
    rule body 0x0E ([(0x02, p), (0x22, p)] ++ (b.shapers.filter fun e => e.1 / 8 = p).map fun e => (0x04, e.1))
      (slopeOk (slopeSum b.shapers p) r.width r.maxRate (mapSlots k p))

/-- The response caps of all ports under a bank against the RSP pool (R132). -/
def chkCaps (body b : ImgBody) (k : SchedBank) : List Fail :=
  rule body 0x0B ((0x01, 0) :: (b.ports.map fun p => (0x02, p.1)) ++ k.maps.map fun m => (0x22, m.1))
    (decide (sumOf (b.ports.map fun p => capOf p.2 (mapSlots k p.1)) ≤ 16 * (b.device.getD {}).rspCells))

/-- DEVICE: header (R394), carve (R79), Vat (R131, R132), stated ranges of fields (R536), twin port. -/
def chkDevice (im : Image) (b : ImgBody) (k : SchedBank) : List Fail :=
  match b.device with
  | none => [(0x01, 0xFFFF, 0x01)]
  | some d =>
    let me (cls : Nat) (ok : Bool) : List Fail := rule im.body cls [(0x01, 0)] ok
    me 0x01 (decide (d.planeIndex = im.planeIndex ∧ d.domainId = im.domainId ∧ d.planeIndex < d.planes)) ++
    me 0x0A (decide (d.firnGib ≤ 360 ∧ 8 ≤ d.wheyGib ∧ d.wheyGib ≤ 64 ∧ 8 ≤ d.spillGib ∧ d.spillGib ≤ 256 ∧ d.ctlGib = 8 ∧
      d.firnGib + d.wheyGib + d.spillGib + d.ctlGib = 384)) ++
    me 0x0B (decide (8192 ≤ d.rspCells ∧ d.rspCells ≤ 98304 ∧ d.schCells ≤ 131072 ∧ 16384 ≤ d.engCells ∧ d.engCells ≤ 65536 ∧
      d.rspCells + d.schCells + d.engCells + 8192 + 65536 ≤ 524288)) ++
    chkCaps im.body b k ++
    me 0x13 (decide (10 ≤ d.wheyBwPct ∧ d.wheyBwPct ≤ 50 ∧ 1 ≤ d.msgAgeMs ∧ d.msgAgeMs ≤ 16 ∧ 10 ≤ d.holdoverMs ∧ d.holdoverMs ≤ 10000 ∧
      d.driftPpb ≤ 1000 ∧ d.ppsWidthUs ≤ 500 ∧ d.source ≤ 4) && d.alpha.all fun a => decide (a ≤ 9)) ++
    (if d.source = 4 then rule im.body 0x13 [(0x01, 0), (0x02, d.refPort)] ((aget b.ports d.refPort).isSome) else []) ++
    (if d.twinPresent then rule im.body 0x13 [(0x01, 0), (0x02, d.twinPort)] ((aget b.ports d.twinPort).isSome) ++
      rule im.body 0x09 [(0x01, 0), (0x02, d.twinPort)]
        (decide ((agetD b.ports d.twinPort {}).protocol = 1 ∧ (agetD b.ports d.twinPort {}).role = 2)) else [])

/-- A port's protocol, role, width, rate and lanes (R354, Tables 12.1 and 12.10). -/
def portFormOk (r : PortRec) : Bool :=
  let pow := decide (r.width ∈ [1, 2, 4, 8, 16])
  pow && decide (r.firstLane % r.width = 0 ∧ r.firstLane + r.width ≤ 512 ∧ r.minWidth ≤ r.width) &&
  (match r.protocol with
   | 1 => decide (r.width ≤ 8 ∧ (r.maxRate = 6 ∨ r.maxRate = 7) ∧ r.role ≤ 2 ∧ (r.role = 2 → 4 ≤ r.width))
   | 2 => decide (4 ≤ r.width ∧ r.maxRate ≤ 5 ∧ r.role ≤ 1 ∧ 1 ≤ r.cxlVer ∧ (r.role = 1 → 2 ≤ r.cxlVer) ∧ (r.maxRate = 5 → r.cxlVer = 3))
   | 3 => decide (r.width ≤ 8 ∧ (r.maxRate = 6 ∨ r.maxRate = 7) ∧ r.role = 3)
   | _ => true)

/-- Lanes shared by two ports, or an octet of two clock families (R353, R354). -/
def lanesClash (a b : PortRec) : Bool :=
  (decide (a.firstLane < b.firstLane + b.width) && decide (b.firstLane < a.firstLane + a.width)) ||
  (decide (a.firstLane / 8 ≤ (b.firstLane + b.width - 1) / 8) && decide (b.firstLane / 8 ≤ (a.firstLane + a.width - 1) / 8) &&
    (decide (a.protocol = 2) != decide (b.protocol = 2)))

/-- PORT (R152, R354, R205), SHAPER (R169), L2_STATIC and FLASHPOOL. -/
def chkPorts (s : State) (im : Image) (b : ImgBody) (k : SchedBank) : List Fail :=
  (if b.ports = [] then [(0x02, 0xFFFF, 0x01)] else []) ++
  (b.ports.flatMap fun p =>
    rule im.body 0x09 [(0x02, p.1)] ((decide (p.2.protocol = 0) || portFormOk p.2) &&
      decide (p.2.untaggedClass ≠ 7 ∧ p.2.cxlClass ≠ 7) && p.2.pcpClass.all fun c => decide (c ≠ 7)) ++
    rule im.body 0x13 [(0x02, p.1)] (decide (16 ≤ p.2.windowKib ∧ p.2.windowKib ≤ 1024))) ++
  ((pairs (b.ports.filter fun p => decide (p.2.protocol ≠ 0))).flatMap fun x =>
    rule im.body 0x09 [(0x02, x.1.1), (0x02, x.2.1)] (!lanesClash x.1.2 x.2.2)) ++
  (b.shapers.flatMap fun h => rule im.body 0x13 [(0x04, h.1)] ((aget b.ports (h.1 / 8)).isSome)) ++
  chkSlopes im.body b k ++
  (b.l2.flatMap fun e => rule im.body 0x13 [(0x05, e.1)] ((aget b.ports e.2.port).isSome && decide (1 ≤ e.2.vid ∧ e.2.vid ≤ 4094))) ++
  (b.flashPool.flatMap fun e =>
    rule im.body 0x13 [(0x06, e.1)] ((aget b.ports e.1).isSome) ++
    (match (port s e.1).geom with
     | some g => rule im.body 0x12 [(0x01, 0), (0x06, e.1)] (decide (2 * (b.device.getD {}).readThr ≤ g.limit ∧ e.2 ≤ g.blocks))
     | none => []))

/-- ISET (R26). -/
def chkIsets (im : Image) (b : ImgBody) : List Fail :=
  b.isets.flatMap fun e =>
    let at_ := (0x03, e.1) :: e.2.map fun p => (0x02, p)
    rule im.body 0x13 at_ (e.2.all fun p => (aget b.ports p).isSome) ++
    rule im.body 0x0C at_ (decide (1 ≤ e.2.length ∧ e.2.length ≤ 32) && decide (e.2.eraseDups = e.2) && e.2.all fun p =>
      decide ((agetD b.ports p {}).role = 1) && decide ((agetD b.ports p {}).protocol = (agetD b.ports (e.2.getD 0 0) {}).protocol))

/-! ## Ranges (R16, R24, R95, R97, R210, R462) -/

/-- Roles in which this plane can ever use a range (R16). -/
def rolesOf (d : DeviceRec) (e : RangeEntry) : List Bool :=
  if !e.pinned then [false, true]
  else if e.pinnedPlane = d.planeIndex ∨ (d.twinPresent ∧ e.pinnedPlane / 2 = d.planeIndex / 2) then [decide (e.pinnedPlane % 2 = 1)] else []

/-- Extents of a DRAM range on its trays with their MAC extents: port, start, end. -/
def extents (d : DeviceRec) (b : ImgBody) (e : RangeEntry) : List (Nat × Nat × Nat) :=
  let ms := agetD b.isets e.iset []
  if e.tier ≠ 0 ∨ ms = [] ∨ !e.valid then []
  else (rolesOf d e).flatMap fun odd =>
    let n := sizeExtent e ms.length d.planes
    ms.flatMap fun p =>
      (p, extentBase e odd, extentBase e odd + n) ::
        (if e.sealed then [(p, extentBase e odd + n, extentBase e odd + n + macExtent e ms.length d.planes)] else [])

/-- Two extents overlap. -/
def extClash (x y : Nat × Nat × Nat) : Bool := decide (x.1 = y.1) && decide (x.2.1 < y.2.2) && decide (y.2.1 < x.2.2)

/-- Pages per block of an interleave set's flash trays as they reported them, else 1: the weaker rule that the rows of two ranges differ. -/
def upbFor (s : State) (ms : List Nat) : Nat := ((isetGeom s ms).map (·.upb)).getD 1

/-- Logical blocks of a flash range on its trays by role: role, port, first, last + 1. -/
def flashExts (s : State) (d : DeviceRec) (b : ImgBody) (e : RangeEntry) : List (Bool × Nat × Nat × Nat) :=
  let ms := agetD b.isets e.iset []
  if e.tier ≠ 1 ∨ ms = [] ∨ !e.valid then []
  else (rolesOf d e).flatMap fun odd =>
    let row := max 1 (ms.length / 10) * upbFor s ms * 131072
    let n := stripePages e d.planes * 4096
    ms.map fun p => (odd, p, extentBase e odd / row, (extentBase e odd + n - 1) / row + 1)

/-- The trays of a flash range that have reported their geometry report the same (R95), and its extents start at logical blocks (R97). -/
def flashSame (s : State) (d : DeviceRec) (b : ImgBody) (e : RangeEntry) : Bool :=
  let ms := agetD b.isets e.iset []
  match isetGeom s ms with
  | none => true
  | some g =>
    (ms.all fun p => ((port s p).geom.map fun h => ({ h with bad := [] } : Geom) == { g with bad := [] }).getD true) &&
    (rolesOf d e).all fun odd => decide (extentBase e odd % (max 1 (ms.length / 10) * upbFor s ms * 131072) = 0)

/-- Two flash ranges share no logical block of a role (R97). -/
def flashApart (s : State) (d : DeviceRec) (b : ImgBody) (e f : RangeEntry) : Bool :=
  (flashExts s d b e).all fun u => (flashExts s d b f).all fun v => decide (u.1 ≠ v.1) || !extClash u.2 v.2

/-- A flash range of an image keeps R95 and R97 by the geometry its trays have reported. -/
def flashFits (s : State) (b : ImgBody) (e : Nat × RangeEntry) : Bool :=
  flashSame s (b.device.getD {}) b e.2 && b.ranges.all fun f => decide (f.1 = e.1) || !f.2.valid || flashApart s (b.device.getD {}) b e.2 f.2

/-- RANGE. -/
def chkRanges (s : State) (im : Image) (b : ImgBody) : List Fail :=
  let d := b.device.getD {}
  let vs := b.ranges.filter fun e => e.2.valid
  (vs.flatMap fun e =>
    let r := e.2
    let ms := agetD b.isets r.iset []
    let any2 (f : Rights → Bool) : Bool := f r.ownerRights || f r.otherRights
    rule im.body 0x13 [(0x12, e.1), (0x10, r.owner)] ((aget b.parts r.owner).isSome) ++
    rule im.body 0x13 [(0x12, e.1), (0x03, r.iset)] ((aget b.isets r.iset).isSome) ++
    rule im.body 0x13 [(0x12, e.1)] (decide (1 ≤ r.size ∧ r.tier ≤ 1)) ++
    rule im.body 0x07 [(0x12, e.1)] (!(r.valid && r.sealed) || s.nv.sealSecret.isSome) ++
    rule im.body 0x0C [(0x12, e.1), (0x03, r.iset)]
      (decide (r.base + r.size ≤ 2 ^ 31 ∧ r.granule ≤ 13 ∧ r.pinnedPlane < d.planes) &&
       !((decide (r.tier = 1) || r.firn) && any2 fun g => g.w || g.a) && !(r.sealed && decide (r.tier = 1)) &&
       decide ((r.base + r.size) * mib2 ≤ apBase) &&
       (decide (r.tier ≠ 1) || decide (ms.length ∈ [10, 20, 30]))) ++
    rule im.body 0x0C [(0x12, e.1)] ((pairs (extents d b r)).all fun x => !extClash x.1 x.2) ++
    (if decide (r.tier = 1) then rule im.body 0x0C [(0x12, e.1)] (flashSame s d b r) else [])) ++
  ((pairs vs).flatMap fun x =>
    let inv := [(0x12, x.1.1), (0x12, x.2.1)]
    rule im.body 0x0C inv (!(decide (x.1.2.base < x.2.2.base + x.2.2.size) && decide (x.2.2.base < x.1.2.base + x.1.2.size))) ++
    rule im.body 0x0C inv ((extents d b x.1.2).all fun u => (extents d b x.2.2).all fun v => !extClash u v) ++
    rule im.body 0x0C inv (flashApart s d b x.1.2 x.2.2))

/-! ## Partition scope -/

/-- PARTITION: allotments and quotas (R219, R55, R87), VIDs (R379). -/
def chkParts (im : Image) (b : ImgBody) : List Fail :=
  let all_ := b.parts.map fun e => (0x10, e.1)
  let d := b.device.getD {}
  (b.parts.flatMap fun e =>
    rule im.body 0x13 [(0x10, e.1)] (decide (e.2.firnGib.getD 0 ≤ 360 ∧ e.2.idemQuota ≤ 65536 ∧ e.2.vids.length ≤ 16 ∧ e.2.defaultVid ≤ 4094) &&
      (e.2.vids.all fun v => decide (1 ≤ v ∧ v ≤ 4094)) && (decide (e.2.vids = []) || decide (1 ≤ e.2.defaultVid))) ++
    rule im.body 0x0F [(0x10, e.1)] ((List.range 4).all fun k => !(e.2.excl.getD k false) || decide (e.2.ctx.getD k 0 % 64 = 0))) ++
  rule im.body 0x13 all_ (decide (sumOf (b.parts.map fun e => e.2.idemQuota) ≤ 65536)) ++
  rule im.body 0x13 ((0x01, 0) :: all_) (decide (sumOf (b.parts.map fun e => e.2.firnGib.getD 0) ≤ d.firnGib)) ++
  rule im.body 0x0F all_ ((List.range 4).all (fun k => decide (sumOf (b.parts.map fun e => e.2.ctx.getD k 0) ≤ unitCount k * 64)) &&
    decide (sumOf (b.parts.map fun e => e.2.scratch) ≤ 2560))

/-- REQUESTER: what it names, and at most 16 IDs on a native port (R19). Table 13.8 names no class for R19: LIMITS is a DESIGN CHOICE (assumption 19). -/
def chkReqs (im : Image) (b : ImgBody) : List Fail :=
  (b.reqs.flatMap fun e => rule im.body 0x13 [(0x11, e.1), (0x10, e.2.part), (0x02, e.2.port)]
    ((aget b.parts e.2.part).isSome && (aget b.ports e.2.port).isSome && decide (e.2.kind ≤ 1))) ++
  (b.ports.flatMap fun p =>
    let ids := (b.reqs.filter fun e => e.2.port = p.1).map fun e => (0x11, e.1)
    rule im.body 0x13 ((0x02, p.1) :: ids) (decide (p.2.protocol ≠ 1) || decide (ids.length ≤ 16)))

/-- The 2 MiB unit lies in a range pinned to this plane or its twin, or in the aperture block of the partition (R30, R214); how far that holds. -/
def pinnedUntil (d : DeviceRec) (b : ImgBody) (part u : Nat) : Option Nat :=
  if u = apBase / mib2 + part / 32 then some (u + 1)
  else match b.ranges.find? fun e => e.2.valid && decide (e.2.base ≤ u) && decide (u < e.2.base + e.2.size) with
    | some e => if e.2.pinned && decide (e.2.pinnedPlane = d.planeIndex ∨ (d.twinPresent ∧ e.2.pinnedPlane / 2 = d.planeIndex / 2)) then
        some (e.2.base + e.2.size) else none
    | none => none

/-- Every unit from `u` to `stop` is pinned. -/
def allPinned (d : DeviceRec) (b : ImgBody) (part stop : Nat) : Nat → Nat → Bool
  | 0, u => decide (stop ≤ u)
  | n + 1, u => if stop ≤ u then true else match pinnedUntil d b part u with
    | some v => allPinned d b part stop n v
    | none => false

/-- WINDOW (R29, R30). -/
def chkWindows (im : Image) (b : ImgBody) : List Fail :=
  let d := b.device.getD {}
  let vs := b.windows.filter fun e => e.2.valid
  (b.windows.flatMap fun e =>
    rule im.body 0x13 [(0x13, e.1), (0x02, e.2.port), (0x11, e.2.rid)] ((aget b.ports e.2.port).isSome && (aget b.reqs e.2.rid).isSome)) ++
  (vs.flatMap fun e =>
    let w := e.2
    rule im.body 0x0D [(0x13, e.1), (0x02, w.port)] (decide ((agetD b.ports w.port {}).protocol = 2 ∧ (agetD b.ports w.port {}).role = 0)) ++
    rule im.body 0x0D ((0x13, e.1) :: (b.ranges.filter fun r => r.2.valid && decide (r.2.base < w.fabricBase + w.size) &&
        decide (w.fabricBase < r.2.base + r.2.size)).map fun r => (0x12, r.1))
      (decide (1 ≤ w.size ∧ w.dpaBase + w.size ≤ 2 ^ 31 ∧ w.fabricBase + w.size ≤ 2 ^ 31) &&
        allPinned d b (partIn b.reqs w.rid) (w.fabricBase + w.size) (b.ranges.length + 5) w.fabricBase)) ++
  ((pairs vs).flatMap fun x => rule im.body 0x0D [(0x13, x.1.1), (0x13, x.2.1)]
    (decide (x.1.2.port ≠ x.2.2.port) || !(decide (x.1.2.dpaBase < x.2.2.dpaBase + x.2.2.size) && decide (x.2.2.dpaBase < x.1.2.dpaBase + x.1.2.size))))

/-- POLICER (R161, R162), MCAST, RGROUP (R257), COLL (R295). -/
def chkTraffic (im : Image) (b : ImgBody) : List Fail :=
  let d := b.device.getD {}
  (b.policers.flatMap fun e =>
    rule im.body 0x13 [(0x14, e.1), (0x10, e.1 / 64)] ((aget b.parts (e.1 / 64)).isSome) ++
    (let cxl := polCxl b.windows b.reqs b.ports e.1
     rule im.body 0x0E ((0x14, e.1) :: (if cxl && e.2.en && decide (e.2.pir = 0) then
         (b.windows.filter fun w => decide (partIn b.reqs w.2.rid = e.1 / 64)).map fun w => (0x13, w.1) else [])) (polOk cxl e.1 e.2))) ++
  (b.mcasts.flatMap fun e =>
    rule im.body 0x13 ([(0x15, e.1)] ++ (if e.2.shared then [] else [(0x10, e.2.part)]) ++ e.2.members.map fun p => (0x02, p))
      ((e.2.shared || (aget b.parts e.2.part).isSome) && (e.2.members.all fun p => (aget b.ports p).isSome) && decide (e.2.floodVid ≤ 4094))) ++
  (b.rgroups.flatMap fun e =>
    let g := e.2
    let m := agetD b.mcasts g.mcast {}
    if !g.valid then []
    else
      rule im.body 0x13 [(0x16, e.1), (0x10, g.part), (0x15, g.mcast)]
        ((aget b.parts g.part).isSome && (aget b.mcasts g.mcast).isSome && decide (g.resultClass ≤ 6 ∧ 1 ≤ g.timeoutUs)) ++
      rule im.body 0x0F ([(0x16, e.1), (0x15, g.mcast)] ++ m.members.map fun p => (0x02, p))
        (decide (2 ≤ m.members.length ∧ m.members.length ≤ 256) && (m.members.all fun p => decide ((agetD b.ports p {}).protocol = 1)) &&
          !m.shared && decide (m.part = g.part))) ++
  (b.colls.flatMap fun e => rule im.body 0x13 [(0x17, e.1), (0x10, e.2.part)] ((aget b.parts e.2.part).isSome)) ++
  rule im.body 0x0F ((0x01, 0) :: b.colls.map fun e => (0x17, e.1))
    (decide (sumOf (b.colls.map fun e => e.2.sideMib) + 4096 ≤ d.spillGib * 1024) || decide (b.colls = []))

/-- GW_WINDOW and GW_EXPORT (R382, Table 13.8). -/
def chkGateway (im : Image) (b : ImgBody) : List Fail :=
  (b.gwWins.flatMap fun e =>
    let w := e.2
    let r := agetD b.ranges w.localRange {}
    rule im.body 0x11 [(0x18, e.1), (0x12, w.localRange), (0x10, w.part)]
      (r.valid && r.pinned && decide (r.tier = 0 ∧ r.owner = w.part ∧ r.size * mib2 ≤ 64 * 2 ^ 30) && !r.firn &&
        !(r.ownerRights.a || r.ownerRights.e || r.otherRights.a || r.otherRights.e) && decide (w.vid ∈ (agetD b.parts w.part {}).vids))) ++
  rule im.body 0x11 (b.gwWins.map fun e => (0x18, e.1)) (decide ((b.gwWins.map fun e => e.2.part).eraseDups.length ≤ 4)) ++
  (b.gwExps.flatMap fun e => rule im.body 0x11 ((0x19, e.1) :: (0x11, e.2.rid) :: b.gwWins.map fun w => (0x18, w.1))
    ((aget b.reqs e.2.rid).isSome && b.gwWins.any fun w => decide (w.2.part = partIn b.reqs e.2.rid)))

/-! ## Schedules (R195) -/

/-- Slot `t` of a frame lies in a window or one of its repeats. -/
def winCovers (w : SchWinRec) (t : Nat) : Bool :=
  decide (w.start ≤ t) && decide ((t - w.start) - (if w.period = 0 then 0 else min w.rep ((t - w.start) / w.period)) * w.period < w.len)

/-- A bank against the tables; `own`: the image carries it. -/
def chkBank (im : Image) (b : ImgBody) (k : SchedBank) (own : Bool) : List Fail :=
  let d := b.device.getD {}
  let body := if own then im.body else { im.body with sched := none }
  let r (cls : Nat) (inv : List (Nat × Nat)) (ok : Bool) : List Fail := rule body cls inv ok
  let inj := k.wins.filter fun w => (agetD k.flows w.2.schedId {}).kind ≠ 3
  let ports_ := (inj.map fun w => w.2.port).eraseDups
  (k.flows.flatMap fun f => if !f.2.valid then [] else
    let x := f.2
    r 0x13 [(0x20, f.1), (0x10, x.part), (if x.kind = 0 then 0x02 else if x.kind = 2 then 0x16 else 0x15, x.dest)]
      ((aget b.parts x.part).isSome && (if x.kind = 0 then (aget b.ports x.dest).isSome else if x.kind = 2 then (aget b.rgroups x.dest).isSome
        else (aget b.mcasts x.dest).isSome) && (decide (x.kind ≠ 3) || decide (1 ≤ x.unitCells ∧ x.unitCells ≤ 64 ∧ 1 ≤ x.leadSlots))) ++
    (if x.kind = 3 then
      let e := agetD b.ranges x.range {}
      r 0x10 [(0x20, f.1), (0x12, x.range)] (e.valid && (e.firn || decide (e.tier = 1)) && decide (e.owner = x.part))
     else r 0x13 [(0x20, f.1), (0x02, x.srcPort)] ((aget b.ports x.srcPort).isSome) ++ r 0x10 [(0x20, f.1), (0x11, x.rid)] (decide (partIn b.reqs x.rid = x.part) && (aget b.reqs x.rid).isSome))) ++
  (k.wins.flatMap fun w =>
    let f := agetD k.flows w.2.schedId {}
    r 0x10 [(0x21, w.1), (0x20, w.2.schedId)] (f.valid && (decide (f.kind = 3) || decide (w.2.port = f.srcPort)) &&
      decide (w.2.start + w.2.rep * w.2.period + w.2.len - 1 ≤ 0xFFFF)) ++
    r 0x13 [(0x21, w.1)] (decide (1 ≤ w.2.len)) ++
    r 0x01 [(0x21, w.1), (0x20, w.2.schedId)] (decide (f.kind ≠ 3) || decide (w.2.port = 0))) ++
  (k.maps.flatMap fun m => r 0x13 [(0x22, m.1)] ((aget b.ports m.1).isSome) ++ r 0x10 [(0x22, m.1)] (decide (mapSlots k m.1 ≤ 49152))) ++
  (ports_.flatMap fun p =>
    let ws := inj.filter fun w => w.2.port = p
    let n (t : Nat) : Nat := (ws.filter fun w => winCovers w.2 t).length
    r 0x10 (ws.map fun w => (0x21, w.1)) (decide (((List.range 65536).filter fun t => 0 < n t).length ≤ 49152) &&
      (List.range 65536).all fun t => decide (n t ≤ 4))) ++
  r 0x0B [(0x01, 0), (0x23, 0)] (decide (k.schPeak ≤ d.schCells))

/-! ## Scope and state of a partial segment (R394, R400, R401) -/

/-- A record of the segment at an index, its owner, and the owner of the record that holds the index now. -/
def scopeOk (scope : List Nat) (own : Nat) (held : Option Nat) : Bool := decide (own ∈ scope) && held.all fun p => decide (p ∈ scope)

/-- SCOPE; and no record, in use or not, of a named partition without a PARTITION record (R400), which Table 13.8 puts under LIMITS: a record names an
undefined partition. -/
def chkScope (s : State) (im : Image) (ss : List Sect) (b : ImgBody) : List Fail :=
  let n := im.body
  let r {α : Type} (t : Nat) (l old : List (Nat × α)) (own oldOwn : Nat × α → Nat) : List Fail :=
    l.flatMap fun e => rule n 0x06 [(t, e.1)] (scopeOk im.scope (own e) ((old.find? fun o => o.1 == e.1).map oldOwn))
  let undefined {α : Type} (t : Nat) (l : List (Nat × α)) (own : α → Nat) : List Fail :=
    l.flatMap fun e => rule n 0x13 [(t, e.1), (0x10, own e.2)] ((aget b.parts (own e.2)).isSome)
  (ss.filterMap fun x => if x.type < 0x10 then some (x.type, 0, 0x06) else none) ++
  undefined 0x12 n.ranges (·.owner) ++ undefined 0x16 n.rgroups (·.part) ++
  r 0x10 n.parts s.img.parts (·.1) (·.1) ++
  r 0x11 n.reqs s.img.reqs (·.2.part) (·.2.part) ++
  r 0x12 n.ranges s.img.ranges (·.2.owner) (·.2.owner) ++
  r 0x13 n.windows s.img.windows (fun e => partIn b.reqs e.2.rid) (fun e => partIn s.img.reqs e.2.rid) ++
  r 0x14 n.policers s.img.policers (·.1 / 64) (·.1 / 64) ++
  (n.mcasts.flatMap fun e => rule n 0x06 [(0x15, e.1)] (!e.2.shared && scopeOk im.scope e.2.part ((aget s.img.mcasts e.1).map (·.part)) &&
    !(agetD s.img.mcasts e.1 {}).shared)) ++
  r 0x16 n.rgroups s.img.rgroups (·.2.part) (·.2.part) ++
  r 0x17 n.colls s.img.colls (·.2.part) (·.2.part) ++
  r 0x18 n.gwWins s.img.gwWins (·.2.part) (·.2.part) ++
  r 0x19 n.gwExps s.img.gwExps (fun e => partIn b.reqs e.2.rid) (fun e => partIn s.img.reqs e.2.rid)

/-- The STATE rules of R401 that look at records the segment removes. -/
def chkRemoved (s : State) (im : Image) (b : ImgBody) : List Fail :=
  let gone {α : Type} (old new : List (Nat × α)) (own : α → Nat) : List Nat :=
    (old.filter fun e => !new.any fun n => n.1 == e.1 && own n.2 == own e.2).map (·.1)
  (im.scope.flatMap fun p => if partState s p = 1 ∧ (aget b.parts p).isNone then [(0x10, 0xFFFF, 0x07)] else []) ++
  ((gone s.img.colls b.colls (·.part)).flatMap fun i => if (aget s.eng.colls i).isSome then [(0x17, 0xFFFF, 0x07)] else []) ++
  ((gone s.img.rgroups b.rgroups (·.part)).flatMap fun i => if (groupAt s i).state = .armed ∨ (groupAt s i).state = .draining then [(0x16, 0xFFFF, 0x07)] else []) ++
  ((gone s.img.gwWins b.gwWins (·.part)).flatMap fun i =>
    if s.eth.blocks.any (fun x => x.1.1 == i && decide (x.2.state ≠ .absent)) then [(0x18, 0xFFFF, 0x07)] else [])

/-! ## The order of R395 -/

/-- The first failure in section and record order. -/
def firstFail (l : List Fail) : Option Fail := minBy (fun f => f.1 * 0x10000 + f.2.1) l

/-- Step 7: the sections against every rule. -/
def chkSections (s : State) (im : Image) (ss : List Sect) : Option Fail :=
  let b := resulting s im
  let own := im.body.sched
  let form := ss.filterMap fun x => x.bad.map fun p => (x.type, p, 0x01)
  let tables := chkIsets im b ++ chkRanges s im b ++ chkParts im b ++ chkReqs im b ++ chkWindows im b ++ chkTraffic im b ++ chkGateway im b
  firstFail (form ++
    (if im.partialSeg then
      chkScope s im ss b ++ chkRemoved s im b ++ tables ++ chkBank im b s.ftm.active false ++
        (match own with
         | some k => chkCaps im.body b k ++ chkSlopes im.body b k ++ chkBank im b k true
         | none => if s.ftm.stagedValid then chkBank im b s.ftm.staged false else [])
     else
      let k := own.getD {}
      chkDevice im b k ++ chkPorts s im b k ++ tables ++ chkBank im b k true))

/-- Steps 1 to 3 of R395 and the header's other fields (R389, R390): class and type 0x00 of the first that fails. -/
def chkHeader (s : State) (raw : Bytes) : Option Fail :=
  let im := imageOf raw
  let n := raw.length
  let key := aget s.nv.ownerKeys im.keyId
  if n < 224 ∨ rw raw 0 ≠ 0x54454E52 ∨ rw raw 8 ≠ n ∨ n % 4 ≠ 0 ∨ n > (if im.partialSeg then 8 else 32) * 2 ^ 20 then some (0, 0, 0x01)
  else if im.fmtVer / 256 ≠ 1 ∨ im.stepping ≠ 0xB0 then some (0, 0, 0x02)
  else if Config.sha384 (sectBytes raw) ≠ im.digest ∨ key.isNone ∨ !Config.ecdsaOk (key.getD []) (raw.take (n - 96)) (raw.drop (n - 96)) then
    some (0, 0, 0x03)
  else if bits (rw raw 4) 25 7 ≠ 0 ∨ bits (rw raw 0xC) 16 16 ≠ 0 ∨ bits (rw raw 0x20) 19 13 ≠ 0 ∨ anyByte ((raw.drop 0x68).take 24) ∨
      (!im.partialSeg ∧ (im.baseSerial ≠ 0 ∨ im.scope ≠ [])) then some (0, 0, 0x01)
  else none

/-- Every step of R395. `boot`: the plane boots or resets its fabric, which alone admits a full image (R397); `old`: an image restored from the
boot record, which R392 does not refuse (R503). -/
def validate (s : State) (raw : Bytes) (boot old : Bool) : Option Fail :=
  let im := imageOf raw
  match chkHeader s raw with
  | some f => some f
  | none =>
    let d := dev s
    if im.serial ≤ s.nv.serialFloor ∧ !old then some (0, 0, 0x04)
    else if (s.sec.loaded ∧ (im.domainId ≠ d.domainId ∨ im.planeIndex ≠ d.planeIndex)) ∨
        (im.partialSeg ∧ (!s.sec.loaded ∨ im.baseSerial ≠ s.sec.imgBase)) then some (0, 0, 0x05)
    else if !im.partialSeg ∧ !boot then some (0, 0, 0x07)
    else if im.partialSeg ∧ (s.sec.segs.length > 4 ∨ (im.body.sched.isSome ∧ s.ftm.arm) ∨ s.flt.tableLost ∨ s.twn.state = .resyncSrc ∨
        s.twn.state = .resyncDst) then some (0, 0, 0x07)
    else if im.partialSeg ∧ d.twinPresent ∧ !s.twn.servesTwin ∧ !twinUp s then some (0, 0, 0x08)
    else chkSections s im (sectsOf raw)

end Sys2Proof.Machine
end

