-- ==== Sys2Proof/Machine/Prosis.lean ====
section
/-! DEFINITION. The frame of Prosis (chapter 16): sessions, what a command draws before it executes, responses, background commands, and the
reports that Rind and Paste send. -/

namespace Sys2Proof.Machine

/-- An open Prosis session. -/
def sessAt (s : State) (n : Nat) : Option Sess := s.mgmt.sessions.find? fun x => x.sess == n

/-- `s` with the management side changed. -/
def setMgmt (f : Mgmt → Mgmt) (s : State) : State := { s with mgmt := f s.mgmt }

/-- `s` with Rind's state, its store, the power state or the twin unit changed. -/
def setSec (f : Sec → Sec) (s : State) : State := { s with sec := f s.sec }
def setNv (f : Nv → Nv) (s : State) : State := { s with nv := f s.nv }
def setPwr (f : Pwr → Pwr) (s : State) : State := { s with pwr := f s.pwr }
def setTwn (f : Twn → Twn) (s : State) : State := { s with twn := f s.twn }

/-- A response leaves (R478). -/
def reply (sess code : Nat) (st : PStatus) (body : List Nat) (s : State) : State := tell (.prosis sess code st body) s

/-- Commands an observer may send (R480): HELLO, BYE, FW_STATUS, REG_READ, TELEM_SUBSCRIBE, TELEM_CANCEL. -/
def observerMay (code : Nat) : Bool := code ∈ [0x01, 0x02, 0x23, 0x70, 0x80, 0x81]

/-- Commands that need no accepted HELLO (R481). -/
def needsNoHello (code : Nat) : Bool := code ∈ [0x01, 0x02, 0x23, 0x70]

/-- Commands a session may send in BOOT (R503); what IMAGE_PUT names is checked by the command. -/
def bootMay (code : Nat) : Bool := code ∈ [0x01, 0x02, 0x10, 0x20, 0x23, 0x70]

/-- What a command of a session draws before it executes (R447, R479 to R481, R503); `none` when it may execute. -/
def gate (s : State) (x : Sess) (code : Nat) : Option PStatus :=
  if x.claim then if needsNoHello code then none else some .notController
  else if !x.helloOk then
    if needsNoHello code then none
    else if x.levelRefused ∧ (code = 0x20 ∨ code = 0x21) then if s.mgmt.controller.isNone then none else some .notController
    else some .held
  else if s.mgmt.controller ≠ some x.sess ∧ !observerMay code then some .notController
  else if s.mgmt.state = .boot ∧ !bootMay code then some .state
  else none

/-- A Prosis command of a session: refused as `gate` says, else executed. A command on no open session, or while Paste is not running, is lost. -/
def prosis (sess code : Nat) (f : State → State) (s : State) : State :=
  match sessAt s sess with
  | none => s
  | some x =>
    if !s.mgmt.pasteUp then s
    else match gate s x code with
      | some st => reply sess code st [] s
      | none => f s

/-- A Prosis session closes: control, uploads, subscriptions, and the Rind session that it carries go with it (R480, R482). -/
def closeSess (n : Nat) (s : State) : State :=
  match sessAt s n with
  | none => s
  | some _ =>
    let s := setMgmt (fun m => { m with
      sessions := m.sessions.filter fun x => x.sess ≠ n, controller := if m.controller = some n then none else m.controller
      uploads := m.uploads.filter fun u => u.sess ≠ n, subs := m.subs.filter fun u => u.sess ≠ n }) s
    tell (.closed n) (setSec (fun c => { c with sessions := c.sessions.filter fun x => x.sess ≠ n }) s)

/-- A command whose body may be long: more than 1 MiB + 64 bytes break Table 16.3 and close the session (R478). -/
def prosisLong (sess code len : Nat) (f : State → State) (s : State) : State :=
  if len ≤ 2 ^ 20 + 64 then prosis sess code f s else if s.mgmt.pasteUp then closeSess sess s else s

/-- A background command begins (R482): it holds an object (0 range, 1 slot, 2 plane, 3 partition, 4 image). -/
def bgStart (command sess obj num : Nat) (s : State) : State :=
  setMgmt (fun m => { m with bgs := m.bgs ++ [{ command := command, sess := sess, obj := obj, num := num }] }) s

/-- A background command of any session holds an object (R482); a load holds its source too, and a segment the partitions it names. -/
def bgHolds (s : State) (obj num : Nat) : Bool :=
  (s.mgmt.bgs.any fun b => b.obj == obj && b.num == num) || (decide (obj = 0) && s.ftl.loads.any fun l => l.source == num && l.flipAt.isNone) ||
    (decide (obj = 3) && s.sec.segs.any fun g => decide (num ∈ g.img.scope))

/-- A client's certificate, or another of its chain, is on the owner's revocation list (R466). -/
def revoked (s : State) (chain : Bytes) (cert : Nat) : Bool := (cert :: Config.chainSerials chain).any (· ∈ s.nv.crl)

/-- A key is reported on every open Rind session of a fabric manager (R25, R213, R467). -/
def keyTell (aperture : Bool) (ix : Nat) (key : Word32) (s : State) : State :=
  (s.sec.sessions.filter fun x => x.ready && !x.claim).foldl (fun s x => tell (.rindKey x.sess aperture ix key) s) s

/-- A refused image or segment is captured and reported (R395, R410, R484). -/
def refuse (serial : Nat) (partialSeg : Bool) (f : Fail) (s : State) : State :=
  let s := if s.sec.result.valid then s
    else setSec (fun c => { c with result := { valid := true, partialSeg := partialSeg, cls := f.2.2, type := f.1, record := f.2.1 } }) s
  emit (.refused serial partialSeg f.2.2 f.1 f.2.1) s

end Sys2Proof.Machine
end

