-- ==== Sys2Proof/Machine/Apply.lean ====
section
/-! DEFINITION. Applying images: what makes a partition ACTIVE (R403), the full image (R397, R398, R504), and partial segments in two phases
(R400 to R408, R424). -/

namespace Sys2Proof.Machine

/-! ## Leaving Hold and Idle-low (R507, Table 17.4) -/

/-- Credits withheld by a power state flow again on a port that is UP; a port in electrical idle trains again. -/
def wakePort (s : State) (p : Nat) : State :=
  let q := port s p
  let r := portRec s p
  if r.role ≠ 0 ∧ r.role ≠ 3 then s
  else if q.idle ∧ r.protocol ≠ 2 then portRestart p s
  else if q.link = .up ∧ r.protocol = 1 then let o := owed q; if o = (0, 0) then s else returnCredits p o.1 o.2 s
  else if r.protocol = 2 then
    let s := setPort p (fun q => { q with idle := false }) s
    if q.link = .up ∧ !q.withheld then cxlReturn p (wireOut p (.cxlCredits true) s) else s
  else s

/-- Hold and Idle-low end: the clocks run and requesters get their credits (Table 17.4). -/
def leaveHold (s : State) : State :=
  if s.pwr.pstate ≠ 1 ∧ s.pwr.pstate ≠ 2 then s
  else
    let s := { s with pwr := { s.pwr with pstate := 0 }, eng := { s.eng with aclkGated := false } }
    (s.ports.map (·.1)).foldl wakePort s

/-! ## Activation (R403, R504) -/

/-- Requester IDs of a partition in force. -/
def ridsOf (s : State) (p : Nat) : List Nat := (s.img.reqs.filter fun e => e.2.part == p).map (·.1)

/-- The pair's even plane, or a plane without a twin, draws what both twins hold. -/
def drawsForPair (s : State) : Bool := !(dev s).twinPresent || !ownOdd s

/-- Key slots and nonce of a partition that becomes ACTIVE from ABSENT: the stack key is drawn unless a reset has kept it (Table 17.3), the seal
key's slot is in use, and a seal nonce is drawn when none is held (R452, R453, R459). -/
def takeSlots (p : Nat) (s : State) : State :=
  let s :=
    if (aget s.sec.stackKeys (2 * p)).isSome then s
    else
      let (k, s) := takeDraw s
      setSec (fun c => { c with stackKeys := aset (aset c.stackKeys (2 * p) k) (2 * p + 1) 0 }) s
  if (aget s.nv.nonces p).isSome then s
  else
    let (n, s) := takeDraw s
    let s := setNv (fun v => { v with nonces := aset v.nonces p (BitVec.ofNat 128 n) }) s
    if drawsForPair s then sendTwin (.nonces [(p, BitVec.ofNat 128 n)]) s else s

/-- A partition becomes ACTIVE with an aperture key (R403): its tags are unknown (R57), its counts zero (R155), its buckets full (R164), its status
lines EMPTY (R228), its tap disabled (R435). -/
def activateWith (k : Word32) (p : Nat) (s : State) : State :=
  let s := if partState s p = 0 then takeSlots p s else s
  let rids := ridsOf s p
  let pols := ((policersNow s).filter fun e => e.1 / 64 == p).map fun e =>
    (e.1, ({ tc := e.2.cbs * 256000, tp := e.2.pbs * 256000, last := s.now } : Pol))
  { s with
    pstate := aset s.pstate p 1
    taps := aset s.taps p {}
    mem := { s.mem with
      tagHi := s.mem.tagHi.filter fun e => e.1 ∉ rids
      outReq := s.mem.outReq.filter fun e => e.1 ∉ rids
      outPart := adel s.mem.outPart p
      lost := s.mem.lost.filter fun r => r ∉ rids }
    tmc := { s.tmc with pols := (s.tmc.pols.filter fun e => e.1 / 64 ≠ p) ++ pols }
    eng := { s.eng with lines := s.eng.lines.filter fun e => e.1.1 ≠ p, apKeys := aset s.eng.apKeys p k } }

/-- A partition becomes ACTIVE with a new aperture key, which is reported (R213). Twins hold the same key: the even plane of a pair draws it and sends it,
and the odd plane's draw is the key it is sent, of which nothing is known here. -/
def activatePart (p : Nat) (s : State) : State :=
  let (k, s) := takeKey s
  let s := keyTell true p k (activateWith k p s)
  if (dev s).twinPresent && drawsForPair s then sendTwin (.apKeys [(p, k)]) s else s

/-- A valid range entry without a key gets one (R25). -/
def drawKey (s : State) (i : Nat) : State :=
  let e := rangeOf s i
  if !(e.valid && e.key == 0) then s
  else
    let (k, s) := takeKey s
    keyTell false i k { s with img := { s.img with ranges := aset s.img.ranges i { e with key := k } } }

/-- The tables have changed: GLB_TABLE_EPOCH counts, and the digest is to be computed again (Table 1.8, R471). -/
def tableChanged (s : State) : State := setSec (fun c => { c with epoch := c.epoch + 1, tblPending := true }) s

/-- A plane with no twin in service makes every partition that has a record ACTIVE and draws keys (R504). -/
def activateAll (s : State) : State :=
  let s := (s.img.ranges.map (·.1)).foldl drawKey s
  tableChanged ((s.img.parts.map (·.1)).foldl (fun s p => activatePart p s) s)

/-! ## The full image -/

/-- A port as an image defines it, before it trains (R398). -/
def portFresh (r : PortRec) : Port :=
  { tosTx := r.tosTx, asymPs := r.asymPs, markThr := r.thr }

/-- TRAY and TWIN ports start to train (step B8 of Table 17.2); REQUESTER and UPLINK ports stay DISABLED until a HELLO (Table 16.2). -/
def startPorts (s : State) : State := (s.ports.map (·.1)).foldl (fun s p => portRestart p s) s

/-- REQUESTER and UPLINK ports that are not UP start to train, where the control state lets them (Table 16.2). -/
def startRequesters (s : State) : State :=
  ((s.img.ports.filter fun e => decide (e.2.role = 0 ∨ e.2.role = 3)).map (·.1)).foldl (fun s p => if portUp s p then s else portRestart p s) s

/-- This plane serves its own stripe from now on. -/
def serveOwn (s : State) : State := setTwn (fun t => { t with servesOwn := true, ownFirst := ft s, returning := false }) s

/-- A partition becomes ABSENT: its key slots are free, its nonce and alert are gone, its blocks cannot be read (R400, R452, R455, R459). -/
def partAbsent (s : State) (p : Nat) : State :=
  { s with
    pstate := adel s.pstate p
    sec := { s.sec with stackKeys := adel (adel s.sec.stackKeys (2 * p)) (2 * p + 1), badkey := s.sec.badkey.filter (· ≠ p) }
    nv := { s.nv with nonces := adel s.nv.nonces p }
    hbm := { s.hbm with blocks := s.hbm.blocks.filter fun b => b.owner ≠ p } }

/-- A full image is applied (R397, R398): structure and settings come from it; a field with S access that was loaded since the last cold reset keeps
its value; nothing of an earlier partial segment remains; the serials and the boot image record are written (R392, R503). A plane whose image gives
it no twin makes its partitions ACTIVE at once; another serves neither stripe until it learns of its twin (R504). -/
def applyFull (im : Image) (s : State) : State :=
  let d := im.body.device.getD {}
  let k := im.body.sched.getD {}
  let keep := s.sec.sLoaded
  let f := s.ftm
  let s := { s with
    img := im.body
    pstate := []
    ports := im.body.ports.map fun e => (e.1, portFresh e.2)
    mem := { s.mem with mirrorEn := if keep then s.mem.mirrorEn else d.mirrorEn, mirrorActive := false, mirrorSound := false }
    hbm := { s.hbm with gens := [], failed := false }
    ftm := { f with
      source := if keep then f.source else d.source, refPort := if keep then f.refPort else d.refPort
      ptpDomain := if keep then f.ptpDomain else d.ptpDomain, stepThr := if keep then f.stepThr else d.stepThr
      ppsEn := if keep then f.ppsEn else d.ppsEn, ppsWidthUs := if keep then f.ppsWidthUs else d.ppsWidthUs
      ppsDelayNs := if keep then f.ppsDelayNs else d.ppsDelayNs
      activeBank := false, stagedValid := false, arm := false, late := false, actFrame := 0, actBegan := 0, active := k, staged := {}
      sent := [], streams := [], units := [] }
    tmc := { s.tmc with pols := [], shps := [], livePol := [], liveShp := [], liveReq := [], livePart := [] }
    sec := { s.sec with
      imgSerial := im.serial, imgBase := im.serial, imgDigest := im.digest, loaded := true, sLoaded := true, partials := 0, segSerials := [],
      segs := [], revoked := [] }
    nv := { s.nv with serialFloor := max s.nv.serialFloor im.serial, bootImage := some (im.serial, im.digest) }
    twn := { s.twn with
      state := if d.twinPresent then .alone else .none, servesOwn := false, servesTwin := false, adoptPending := false, yielding := false, twinInService := none, peer := []
      invalid := [] }
    mgmt := { s.mgmt with state := .held, handshake := false } }
  let s := ((allParts.filter fun p => (aget im.body.parts p).isNone).foldl partAbsent s)
  let s := startPorts (assignUnits [] s)
  stacksCheck 0 (if d.twinPresent then tableChanged s else serveOwn (activateAll s))

/-! ## Segments: phase 1 (R405, R33) -/

/-- What of a range entry may not change but as a removal and a grant (R33). -/
def sameRange (a b : RangeEntry) : Bool :=
  b.valid && a.owner == b.owner && a.base == b.base && a.size == b.size && a.tier == b.tier && a.pinned == b.pinned && a.pinnedPlane == b.pinnedPlane &&
    a.granule == b.granule && a.iset == b.iset && a.offEven == b.offEven && a.offOdd == b.offOdd

/-- A record of key 0 keeps the range's key (R402): same owner, base and size, the key not revoked, and nothing else of the entry changed. -/
def keepsKey (s : State) (i : Nat) (old new : RangeEntry) : Bool :=
  old.valid && decide (i ∉ s.sec.revoked) && decide ({ old with key := 0 } = { new with key := 0 })

/-- The key a range has after the segment. -/
def segKey (i : Nat) (new : RangeEntry) (s : State) : Word32 × State :=
  if new.key ≠ 0 then (new.key, s)
  else if keepsKey s i (rangeOf s i) new then ((rangeOf s i).key, s)
  else takeKey s

/-- The tables a segment leaves, with the keys of R402 in the entries of the partitions it names. -/
def segKeys (im : Image) (s : State) : List (Nat × RangeEntry) × State :=
  im.body.ranges.foldl (fun (acc : List (Nat × RangeEntry) × State) e =>
    if !e.2.valid then (acc.1 ++ [e], acc.2)
    else
      let (k, s) := segKey e.1 e.2 acc.2
      let s := if k = (rangeOf s e.1).key then s else keyTell false e.1 k s
      let s := if e.2.key = 0 && k ≠ (rangeOf s e.1).key && (dev s).twinPresent && drawsForPair s then sendTwin (.keys [(e.1, k)]) s else s
      (acc.1 ++ [(e.1, { e.2 with key := k })], s)) ([], s)

/-- Rights that two definitions both give. -/
def bothRights (a b : Rights) : Rights := { r := a.r && b.r, w := a.w && b.w, a := a.a && b.a, e := a.e && b.e }

/-- A range entry after phase 1: invalid when it goes or changes its place, else with the rights both definitions give and the new key. -/
def rangePhase1 (scope : List Nat) (new : List (Nat × RangeEntry)) (x : Nat × RangeEntry) : Nat × RangeEntry :=
  if x.2.owner ∉ scope ∨ !x.2.valid then x
  else match aget new x.1 with
    | none => (x.1, { x.2 with valid := false })
    | some n =>
      if !sameRange x.2 n then (x.1, { x.2 with valid := false })
      else (x.1, { x.2 with
        key := n.key, shared := x.2.shared && n.shared, ownerRights := bothRights x.2.ownerRights n.ownerRights
        otherRights := bothRights x.2.otherRights n.otherRights })

/-- A requester after phase 1: unbound when it goes, or changes its port, kind or partition; its limit the lower one. -/
def reqPhase1 (scope : List Nat) (new : List (Nat × ReqRec)) (x : Nat × ReqRec) : Nat × ReqRec :=
  if x.2.part ∉ scope then x
  else match aget new x.1 with
    | none => (x.1, { x.2 with enabled := false })
    | some n =>
      if !n.enabled ∨ n.port ≠ x.2.port ∨ n.kind ≠ x.2.kind ∨ n.part ≠ x.2.part then (x.1, { x.2 with enabled := false })
      else (x.1, { x.2 with reqLimit := min x.2.reqLimit n.reqLimit })

/-- A window after phase 1: disabled when it goes or changes. -/
def winPhase1 (scope : List Nat) (reqs : List (Nat × ReqRec)) (new : List (Nat × WindowRec)) (x : Nat × WindowRec) : Nat × WindowRec :=
  if partIn reqs x.2.rid ∉ scope ∨ aget new x.1 = some x.2 then x else (x.1, { x.2 with valid := false })

/-- A partition record after phase 1: the lower of every limit and allotment; `was` and `now` are the default Firn shares of the old records and of the
new ones. -/
def partPhase1 (scope : List Nat) (new : List (Nat × PartRec)) (was now : Nat) (x : Nat × PartRec) : Nat × PartRec :=
  if x.1 ∉ scope then x
  else match aget new x.1 with
    | none => x
    | some n => (x.1, { x.2 with
        partLimit := min x.2.partLimit n.partLimit, idemQuota := min x.2.idemQuota n.idemQuota, scratch := min x.2.scratch n.scratch
        ctx := (List.range 4).map fun k => min (x.2.ctx.getD k 0) (n.ctx.getD k 0)
        firnGib := if x.2.firnGib.isNone ∧ n.firnGib.isNone then none else some (min (x.2.firnGib.getD was) (n.firnGib.getD now)) })

/-- Ranges whose entry is cleared or changes what R92 names from `old` to `new`. -/
def firnChanged (old new : List (Nat × RangeEntry)) : List Nat :=
  (old.filter fun e => match aget new e.1 with
    | none => e.2.valid
    | some n => (e.2.valid && !n.valid) || !(n.base == e.2.base && n.size == e.2.size && n.tier == e.2.tier &&
    n.firn == e.2.firn && n.pinned == e.2.pinned && n.pinnedPlane == e.2.pinnedPlane && n.granule == e.2.granule && n.iset == e.2.iset &&
    n.offEven == e.2.offEven && n.offOdd == e.2.offOdd)).map (·.1)

/-- The Firn generation of ranges moves on, their pins and relocations end (R92, R91, R106). -/
def rangesGone (is : List Nat) (s : State) : State :=
  is.foldl (fun s i => abandonRelocs (fun r => r.range == i) (firnInvalidate i s)) s

/-- Requests checked under the present view and not answered (R33). -/
def checkedIds (s : State) : List Nat := (s.mem.reqs.filter fun r => decide (r.phase ≠ .fifo) && !r.released).map (·.id)

/-- The head of the segments changed. -/
def setSeg (f : Seg → Seg) (s : State) : State :=
  setSec (fun c => { c with segs := match c.segs with
    | g :: t => f g :: t
    | [] => [] }) s

/-- The write-class accesses of the partitions that are to be ACTIVE again, and a marker behind them on each of their paths (R424). -/
def drainOld (scope : List Nat) (s : State) : State :=
  let back := scope.filter fun p => decide (partState s p = 2)
  let old := s.mem.accs.filter fun a => a.writeClass && decide (a.part ∈ back)
  let path (a : Acc) : Nat := if a.viaTwin then (twinPort s).getD a.port else a.port
  let s := setSeg (fun g => { g with oldAccs := old.map (·.aid) }) s
  (old.map path).eraseDups.foldl (fun s p =>
    let mine := (old.filter fun a => path a == p).map (·.aid)
    let n := s.nextId
    setSeg (fun g => { g with marks := g.marks ++ [(n, mine)] }) (sendMarker p 1 mine [] s)) s

/-- In phase 1 the lower of a limit that Paste has written and the new one holds. -/
def liveLower (scope : List Nat) (new : List (Nat × ReqRec)) (parts : List (Nat × PartRec)) (s : State) : State :=
  setTmc (fun m => { m with
    liveReq := m.liveReq.map fun e => match aget new e.1 with
      | some n => if n.part ∈ scope then (e.1, min e.2.1 n.reqLimit, e.2.2) else e
      | none => e
    livePart := m.livePart.map fun e => match aget parts e.1 with
      | some n => if e.1 ∈ scope then (e.1, min e.2 n.partLimit) else e
      | none => e }) s

/-- Phase 1 (R405): removals, new keys, lower limits; then the drains of R33 and R424 run. -/
def segPhase1 (g : Seg) (s : State) : State :=
  let im := g.img
  let (rs, s) := segKeys im s
  let new := resulting s { im with body := { im.body with ranges := rs } }
  let b := s.img
  let ids := checkedIds s
  let ranges := b.ranges.map (rangePhase1 im.scope new.ranges)
  let gone := firnChanged b.ranges ranges
  let s := liveLower im.scope new.reqs new.parts s
  let s := { s with img := { b with
    ranges := ranges, reqs := b.reqs.map (reqPhase1 im.scope new.reqs), windows := b.windows.map (winPhase1 im.scope b.reqs new.windows)
    parts := b.parts.map (partPhase1 im.scope new.parts (firnShare (dev s).firnGib b.parts) (firnShare (dev s).firnGib new.parts)) } }
  let s := setSeg (fun g => { g with phase := 2, drain := ids, img := { im with body := { im.body with ranges := rs } } }) (rangesGone gone s)
  drainOld im.scope (assignUnits s.eng.unitOwn s)

/-- The drains of a segment have ended: requests of the old view are answered, and every old access is answered or its marker has returned. -/
def segDrained (s : State) (g : Seg) : Bool :=
  (g.drain.all fun id => !(findReq s id).any fun r => !r.released) &&
  g.oldAccs.all fun a => !(s.mem.accs.any fun x => x.aid == a) ||
    g.marks.any fun m => decide (a ∈ m.2) && !(s.mem.markers.any fun k => k.mid == m.1)

/-! ## Segments: phase 2 (R403 to R405) -/

/-- Policers of the partitions a segment names: one that stays keeps its tokens, clipped (R171); a new one starts full (R164). -/
def segPolicers (scope : List Nat) (old : List (Nat × PolicerRec)) (s : State) : State :=
  let mine := s.img.policers.filter fun e => decide (e.1 / 64 ∈ scope)
  let live := s.tmc.livePol
  mine.foldl (fun s e =>
    let p : Pol := match aget (liveOver live old) e.1 with
      | some r =>
        let p := refill r (agetD s.tmc.pols e.1 {}) s.now
        { p with tc := min p.tc (e.2.cbs * 256000), tp := min p.tp (e.2.pbs * 256000) }
      | none => { tc := e.2.cbs * 256000, tp := e.2.pbs * 256000, last := s.now }
    setTmc (fun m => { m with pols := aset m.pols e.1 p }) s)
    (setTmc (fun m => { m with
      livePol := m.livePol.filter fun e => decide (e.1 / 64 ∉ scope)
      pols := m.pols.filter fun e => !(decide (e.1 / 64 ∈ scope) && !(s.img.policers.any fun r => r.1 == e.1)) }) s)

/-- What Paste has written of the requesters and partitions a segment rewrites stands no more (R399). -/
def segLimits (scope : List Nat) (old : List (Nat × ReqRec)) (s : State) : State :=
  let mine (i : Nat) : Bool := decide (partIn old i ∈ scope) || decide (partIn s.img.reqs i ∈ scope)
  setTmc (fun m => { m with
    liveReq := m.liveReq.filter fun e => !((aget old e.1).isSome || (aget s.img.reqs e.1).isSome) || !mine e.1
    livePart := m.livePart.filter fun e => decide (e.1 ∉ scope) }) s

/-- Phase 2 (R403 to R405): every other change, the activations, the schedule; the serials, the epoch. -/
def segPhase2 (g : Seg) (s : State) : State :=
  let im := g.img
  let wake := im.scope.any fun p => decide (partState s p ≠ 1) && (aget im.body.parts p).isSome
  let s := if wake then leaveHold s else s
  let old := s.img
  let new := resulting s im
  let gone := firnChanged old.ranges new.ranges
  let s := rangesGone gone { s with img := { new with sched := old.sched } }
  let s := assignUnits s.eng.unitOwn s
  let s := segLimits im.scope old.reqs (segPolicers im.scope old.policers s)
  let s := im.scope.foldl (fun s p =>
    if (aget s.img.parts p).isNone then partAbsent s p else if partState s p = 1 then s else activatePart p s) s
  let s := match im.body.sched with
    | some k => { s with ftm := { s.ftm with staged := k, stagedValid := true } }
    | none => s
  let mine := (im.body.ranges.map (·.1))
  let s := setSec (fun c => { c with
    imgSerial := im.serial, partials := min (c.partials + 1) (2 ^ 24 - 1), segSerials := c.segSerials ++ [im.serial]
    revoked := c.revoked.filter fun i => i ∉ mine }) s
  let s := setNv (fun v => { v with serialFloor := max v.serialFloor im.serial }) (tableChanged s)
  setSeg (fun g => { g with phase := 3 }) s

/-! ## The segment queue (R406 to R408) -/

/-- The planes of the pair apply a segment together: a twin is present and not adopted (R406). -/
def withTwin (s : State) : Bool := (dev s).twinPresent && !s.twn.servesTwin

/-- The result this plane tells its twin (R406). -/
def tellResult (g : Seg) (ok : Bool) (s : State) : State := sendTwin (.segResult g.img.serial ok (Config.sha384 g.img.rangeBytes)) s

/-- The head of the queue leaves it. -/
def segDrop (s : State) : State := setSec (fun c => { c with segs := c.segs.drop 1 }) s

/-- The head of the queue is refused, and the command that brought it is answered. -/
def segRefuse (g : Seg) (f : Fail) (s : State) : State :=
  bgDone 0x10 4 g.img.serial .denied f.2.2 (segDrop (refuse g.img.serial true f s))

/-- The head of the queue goes on as far as it can without the drain, and then the next one: an abandoned segment is reported with class STATE (R408); a
new head is validated; the twin's result decides (R406); a segment both planes have finished is reported. -/
def segSettle : Nat → State → State
  | 0, s => s
  | n + 1, s => match s.sec.segs with
    | [] => s
    | g :: _ =>
      if g.phase < 3 ∧ g.calved then
        segSettle n (segRefuse g (0, 0, 0x07) (setNv (fun v => { v with serialFloor := max v.serialFloor g.img.serial }) s))
      else if g.phase = 0 then
        match validate (setSec (fun c => { c with segs := [] }) s) g.img.raw false false with
        | some f => segSettle n (segRefuse g f (if withTwin s then tellResult g false s else s))
        | none => if withTwin s then segSettle n (setSeg (fun g => { g with phase := 1 }) (tellResult g true s)) else segPhase1 g s
      else if g.phase = 1 then
        if !withTwin s then segPhase1 g s
        else match s.sec.twinResults.find? fun x => x.1 == g.img.serial with
          | some (_, ok, d) =>
            let s := setSec (fun c => { c with twinResults := c.twinResults.filter fun x => x.1 ≠ g.img.serial }) s
            if ok && d == Config.sha384 g.img.rangeBytes then segPhase1 g s else segSettle n (segRefuse g (0, 0, 0x08) s)
          | none => if twinUp s then s else segSettle n (segRefuse g (0, 0, 0x08) s)
      else if g.phase = 3 ∧ (!withTwin s || !twinUp s || g.twinDone) then
        segSettle n (bgDone 0x10 4 g.img.serial .ok 0 (emit (.segDone g.img.serial) (segDrop s)))
      else s

/-- What follows a command that may move segments on. -/
def settleSegs (s : State) : State := segSettle (3 * s.sec.segs.length + 6) (settleAll s)

/-- A command after which segments may move on. -/
def runR (f : State → State) (s : State) : Outcome := run (fun s => settleSegs (f s)) s

/-- SEGMENT_PHASE2 (R405): once the drain of phase 1 has ended, the granting changes are written; the twin learns that this plane has finished. -/
def phase2 (s : State) : State :=
  match s.sec.segs with
  | [] => s
  | g :: _ => if g.phase = 2 ∧ !g.calved ∧ segDrained s g then let s := segPhase2 g s; if withTwin s then tellResult g true s else s else s

/-- Row SEGMENT_PHASE2. -/
def execSegmentPhase2 (s : State) : Outcome := runR phase2 s

/-- SEGMENT_TWIN_RESULT (R406): the twin's result and digest; for a segment in phase 1 or 2 on this plane, that the twin has finished. -/
def twinResult (serial : Nat) (ok : Bool) (d : Bytes) (s : State) : State :=
  match s.sec.segs with
  | g :: _ =>
    if g.img.serial = serial ∧ 2 ≤ g.phase then setSeg (fun g => { g with twinDone := true }) s
    else setSec (fun c => { c with twinResults := c.twinResults.filter (fun x => x.1 ≠ serial) ++ [(serial, ok, d)] }) s
  | [] => setSec (fun c => { c with twinResults := c.twinResults.filter (fun x => x.1 ≠ serial) ++ [(serial, ok, d)] }) s

/-- Row SEGMENT_TWIN_RESULT. -/
def execSegmentTwinResult (serial : Nat) (valid : Bool) (digest : Bytes) (s : State) : Outcome := runR (twinResult serial valid digest) s

/-! ## Delivery (R481) -/

/-- A whole image is handed to Rind (R388, R397, R407): a full image in BOOT is validated and applied at once; a partial segment joins the queue, and its
command is answered when it is done. -/
def handImage (sess : Nat) (raw : Bytes) (s : State) : State :=
  let im := imageOf raw
  if im.partialSeg ∧ s.sec.loaded then
    if s.sec.segs.length > 4 then
      let f := (validate s raw false false).getD (0, 0, 0x07)
      reply sess 0x10 .denied [f.2.2] (refuse im.serial true f (if withTwin s then tellResult { img := im } false s else s))
    else setSec (fun c => { c with segs := c.segs ++ [{ img := im, sess := sess }] }) (bgStart 0x10 sess 4 im.serial s)
  else match validate s raw (decide (s.mgmt.state = .boot)) false with
    | some f => reply sess 0x10 .denied [f.2.2] (refuse im.serial im.partialSeg f s)
    | none => reply sess 0x10 .ok [] (applyFull im s)

/-- An image is stored in slot A or B after its header, digest and signature are checked (R390, R481); slots hold full images only (R503). -/
def storeImage (sess target : Nat) (raw : Bytes) (s : State) : State :=
  let im := imageOf raw
  match chkHeader s raw with
  | some f => reply sess 0x10 .denied [f.2.2] (refuse im.serial im.partialSeg f s)
  | none =>
    if im.partialSeg then reply sess 0x10 .denied [0x07] (refuse im.serial true (0, 0, 0x07) s)
    else reply sess 0x10 .ok [] (setNv (fun v => if target = 1 then { v with imgA := raw } else { v with imgB := raw }) s)

/-- Bytes of an upload arrive in order (R481); `none` while more are to come or when they do not fit. -/
def upload (sess what target offset total : Nat) (bytes : Bytes) (s : State) : Option Bytes × State :=
  let mine (u : Upload) : Bool := u.sess == sess && u.what == what && u.target == target
  let had := if offset = 0 then [] else ((s.mgmt.uploads.find? mine).map (·.bytes)).getD []
  let rest := s.mgmt.uploads.filter fun u => !mine u
  let all_ := had ++ bytes
  if all_.length = total then (some all_, setMgmt (fun m => { m with uploads := rest }) s)
  else (none, setMgmt (fun m => { m with uploads := rest ++ [{ sess := sess, what := what, target := target, total := total, bytes := all_ }] }) s)

/-- The bytes that an upload of a session has collected. -/
def uploaded (s : State) (sess what target : Nat) : Nat :=
  ((s.mgmt.uploads.find? fun u => u.sess == sess && u.what == what && u.target == target).map (·.bytes.length)).getD 0

/-- The offset, total and bytes of an upload are in range: bytes follow those collected, or start anew (R481). -/
def uploadOk (s : State) (sess what target offset total most : Nat) (bytes : Bytes) : Bool :=
  decide (bytes.length ≤ 2 ^ 20 ∧ 1 ≤ bytes.length ∧ offset + bytes.length ≤ total ∧ total ≤ most) &&
    (decide (offset = 0) || decide (offset = uploaded s sess what target))

/-- IMAGE_PUT (R481, R503). -/
def imagePut (sess target offset total : Nat) (bytes : Bytes) (s : State) : State :=
  prosisLong sess 0x10 (9 + bytes.length) (fun s =>
    if target > 2 ∨ !uploadOk s sess 0 target offset total (32 * 2 ^ 20) bytes then reply sess 0x10 .badBody [] s
    else if s.mgmt.uploads.any fun u => u.what == 0 && u.target == target && u.sess != sess then reply sess 0x10 .busy [] s
    else match upload sess 0 target offset total bytes s with
      | (none, s) => reply sess 0x10 .ok [] s
      | (some raw, s) => if target = 0 then handImage sess raw s else storeImage sess target raw s) s

/-- Row IMAGE_PUT. -/
def execImagePut (sess target offset total : Nat) (bytes : Bytes) (s : State) : Outcome := runR (imagePut sess target offset total bytes) s

end Sys2Proof.Machine
end

