-- ==== Sys2Proof/Machine/Pack.lean ====
section
/-! DEFINITION. Live tables as bytes: the range-table digest of resynchronisation (Table 14.7) and the partition-table digest (R471). -/

namespace Sys2Proof.Machine

/-- 32-bit words as bytes. -/
def wordsLe (l : List Nat) : Bytes := l.flatMap (natLe 4)

/-- Rights as four bits (Table 1.3). -/
def packRights (g : Rights) : Nat := b2n g.r + 2 * b2n g.w + 4 * b2n g.a + 8 * b2n g.e

/-- A RANGE record with its key as zero (Table 13.6, R471). -/
def packRange (x : Nat × RangeEntry) : Bytes :=
  let e := x.2
  wordsLe [x.1, 0, e.base + 2 ^ 31 * b2n e.valid, e.size, 0,
    e.owner + 2 ^ 7 * b2n e.shared + 2 ^ 8 * packRights e.ownerRights + 2 ^ 12 * packRights e.otherRights + 2 ^ 16 * b2n e.sealed + 2 ^ 17 * b2n e.firn +
      2 ^ 18 * e.tier + 2 ^ 20 * b2n e.pinned + 2 ^ 21 * e.pinnedPlane + 2 ^ 24 * e.granule,
    e.iset, e.offEven, e.offOdd, 0]

/-- A PARTITION record (Table 13.6). -/
def packPart (y : Nat × PartRec) : Bytes :=
  let i := y.1
  let r := y.2
  let c (k : Nat) : Nat := r.ctx.getD k 0
  let x (k : Nat) : Nat := b2n (r.excl.getD k false)
  let al := c 0 + 2 ^ 11 * x 0 + 2 ^ 16 * c 1 + 2 ^ 26 * x 1 + 2 ^ 32 * c 2 + 2 ^ 42 * x 2 + 2 ^ 48 * c 3 + 2 ^ 57 * x 3
  wordsLe [i + 2 ^ 8 * r.firnGib.getD 0x1FF, r.partLimit, r.idemQuota] ++ natLe 8 al ++
    wordsLe [r.scratch, r.defaultVid + 2 ^ 12 * r.vids.length] ++ ((List.range 16).flatMap fun i => natLe 2 (r.vids.getD i 0)) ++ zeros 4

/-- A REQUESTER record (Tables 1.2 and 5.7). -/
def packReqRec (x : Nat × ReqRec) : Bytes :=
  let r := x.2
  wordsLe [x.1, b2n r.enabled + 2 * r.kind + 2 ^ 8 * r.port + 2 ^ 16 * r.part, 0, r.reqLimit + 2 ^ 16 * r.sub]

/-- A WINDOW record with its key as zero (Table 1.7). -/
def packWindow (x : Nat × WindowRec) : Bytes :=
  let w := x.2
  wordsLe [b2n w.valid + 2 * w.index + 2 ^ 8 * w.port + 2 ^ 16 * w.rid, w.dpaBase, w.size, w.fabricBase, 0, 0]

/-- An ISET record. -/
def packIset (x : Nat × List Nat) : Bytes := wordsLe [x.1, x.2.length] ++ (List.range 32).flatMap fun i => natLe 1 (x.2.getD i 0)

/-- An MCAST record. -/
def packMcast (x : Nat × McastRec) : Bytes :=
  let m := x.2
  wordsLe [x.1 + 2 ^ 12 * b2n m.loopback + 2 ^ 13 * m.cls + 2 ^ 16 * m.part + 2 ^ 23 * b2n m.shared, m.floodVid] ++ natLe 32 (bitSet m.members)

/-- SHA-384 of the live range table with its keys as zero (Table 14.7). -/
def rangeDigest (s : State) : Bytes := Config.sha384 ((s.img.ranges.filter fun e => e.2.valid).flatMap packRange)

/-- The byte string of the partition-table digest, in the order of R471. -/
def tableBytes (s : State) : Bytes :=
  ((List.range 128).flatMap fun p => natLe 1 (partState s p) ++ match aget s.img.parts p with
    | some r => packPart (p, r)
    | none => []) ++
  ((s.img.reqs.filter fun e => e.2.enabled).flatMap packReqRec) ++
  ((s.img.ranges.filter fun e => e.2.valid).flatMap packRange) ++
  ((s.img.windows.filter fun e => e.2.valid).flatMap packWindow) ++
  ((s.img.isets.filter fun e => s.img.ranges.any fun r => r.2.valid && r.2.iset == e.1).flatMap packIset) ++
  (s.img.mcasts.flatMap packMcast)

/-- TABLE_DIGEST_RECOMPUTE (R471): the digest is that of the live tables, with the epoch it was computed at. -/
def digestAgain (s : State) : State :=
  setSec (fun c => { c with tblDigest := Config.sha384 (tableBytes s), tblEpoch := c.epoch, tblPending := false }) s

/-- Row TABLE_DIGEST_RECOMPUTE. -/
def execTableDigestRecompute (s : State) : Outcome := runR digestAgain s

end Sys2Proof.Machine
end

