-- ==== Sys2Proof/Machine/Twins.lean ====
section
/-! DEFINITION. The twin (R427 to R434): learning whether it is in service (R504), claims and epochs, adoption, resynchronisation, and the drain of
a plane (R492). -/

namespace Sys2Proof.Machine

/-! ## Claims (R430, R431) -/

/-- A stripe fails the invariant (R432): both planes answer RETRY_LATER for it, the claims are captured, and it is reported. -/
def invariantFails (odd : Bool) (a b : Nat) (s : State) : State :=
  if odd ∈ s.twn.invalid then s
  else twinEvent 8 (setTwn (fun t => { t with invalid := t.invalid ++ [odd], invLog := t.invLog.orElse fun _ => some (odd, a, b) }) s)

/-- This plane gives up a stripe to a higher epoch, and calves its owners if it wrote there later than 40 ns before the winner began (R431). -/
def loseStripe (c : Claim) (s : State) : State :=
  let last := (s.mem.lastWrite.find? fun x => x.1 == c.oddStripe).map (·.2)
  let s := setTwn (fun t => if c.oddStripe = ownOdd s then { t with servesOwn := false } else { t with servesTwin := false }) s
  let s := if !s.twn.servesTwin && decide (s.twn.state = .adopted) then setTwn (fun t => { t with state := .paired }) s else s
  if last.any fun n => decide (n + 40 > c.ftFirst) then calveSome 7 (stripeOwners s c.oddStripe) s else s

/-- One claim of the twin against this plane's own (R431, R432). -/
def checkClaim (s : State) (c : Claim) : State :=
  let own := (ownClaims s).find? fun o => o.oddStripe == c.oddStripe
  if c.epoch > s.twn.maxEpoch then invariantFails c.oddStripe ((own.map (·.epoch)).getD 0) c.epoch s
  else match own with
    | none => s
    | some o =>
      if o.epoch = c.epoch then invariantFails c.oddStripe o.epoch c.epoch s
      else if o.epoch < c.epoch then loseStripe c s
      else s

/-- Both planes are up and neither claims a stripe (R432); a stripe on its way between them during adoption or resynchronisation is not counted. -/
def checkUnclaimed (claims : List Claim) (s : State) : State :=
  if s.twn.state ≠ .paired ∨ s.mgmt.state ≠ .run then s
  else [false, true].foldl (fun s odd =>
    if (ownClaims s ++ claims).any (fun c => c.oddStripe == odd) then s else invariantFails odd 0 0 s) s

/-! ## Epochs (R430) -/

/-- The four epochs of a pairing, from the highest either plane holds. -/
def issueEpochs (s : State) : State :=
  let e := s.twn.maxEpoch + 1
  let s := setTwn (fun t => { t with
    epoch := if ownOdd s then e + 1 else e, adoptEpoch := if ownOdd s then e + 2 else e + 3, maxEpoch := e + 3, ownFirst := ft s }) s
  if ownOdd s then s else sendTwin (.epochs [e, e + 1, e + 2, e + 3]) s

/-! ## What the twin is sent and sends at S2 -/

/-- The survivor's, or the even plane's, state for its twin (Table 14.7 step S2). -/
def resyncPackOf (s : State) : ResyncPack :=
  { baseSerial := s.sec.imgBase, segSerials := s.sec.segSerials, rangeDigest := rangeDigest s
    parts := (s.img.parts.map (·.1)).map fun p => (p, partState s p, agetD s.eng.apKeys p 0)
    keys := (s.img.ranges.filter fun e => e.2.valid).map fun e => (e.1, e.2.key)
    nonces := s.nv.nonces }

/-- What a plane takes from its twin: partition states, keys, nonces; a partition that becomes ACTIVE has the starts of R403 but for its keys. -/
def takePack (p : ResyncPack) (s : State) : State :=
  let s := setNv (fun v => { v with nonces := p.nonces }) s
  let s := p.parts.foldl (fun s x =>
    if x.2.1 = 0 then partAbsent s x.1
    else
      let s := activateWith x.2.2 x.1 s
      if x.2.1 = 1 then s else { s with pstate := aset s.pstate x.1 x.2.1, eng := { s.eng with apKeys := adel s.eng.apKeys x.1 } }) s
  let s := setNv (fun v => { v with nonces := p.nonces }) s
  let s := setSec (fun c => { c with revoked := (p.keys.filter fun k => k.2 == 0).map (·.1) }) s
  tableChanged { s with img := { s.img with ranges := s.img.ranges.map fun e => match aget p.keys e.1 with
    | some k => (e.1, { e.2 with key := k })
    | none => e } }

/-! ## Learning of the twin (R504) -/

/-- The twin's claims have arrived with its CAP or a heartbeat. A plane that serves nothing and has a full image resynchronises with a twin that is in
service, and pairs from the images with one that is not; a plane in service sends its state to a twin that serves nothing; two planes that both
serve have come out of an outage (R61). One whose stacks or Vat have failed serves nothing (R82, R130). -/
def twinLearn (claims : List Claim) (s : State) : State :=
  let peerServes := !claims.isEmpty
  let mine := s.twn.servesOwn || s.twn.servesTwin
  let s := setTwn (fun t => { t with peer := claims, twinInService := some peerServes }) s
  if !(dev s).twinPresent ∨ s.mgmt.state = .boot ∨ s.hbm.failed ∨ s.vat.failed ∨ s.twn.state = .lost ∨ s.twn.adoptPending then s
  else if !mine ∧ peerServes then
    if s.mgmt.state = .drained ∨ s.mgmt.state = .draining ∨ s.twn.state = .resyncDst then s
    else twinEvent 6 (setTwn (fun t => { t with state := .resyncDst, resyncPct := 0, s2ok := false }) s)
  else if mine ∧ !peerServes then
    if s.twn.state = .resyncSrc then s
    else
      let s := twinEvent 5 (setTwn (fun t => { t with state := .resyncSrc, resyncPct := 0, s2ok := false }) s)
      sendTwin (.resyncPack (resyncPackOf s)) s
  else if !mine ∧ !peerServes then
    if ownOdd s ∨ s.mgmt.state = .drained then s
    else
      let s := issueEpochs (activateAll s)
      let s := sendTwin (.resyncPack (resyncPackOf s)) (serveOwn s)
      let s := { s with mem := { s.mem with mirrorSound := s.mem.mirrorEn, mirrorGap := false } }
      twinEvent 1 (startCatchup (setTwn (fun t => { t with state := .paired }) s))
  else
    let s := claims.foldl checkClaim s
    if s.twn.state = .alone then twinEvent 1 (startCatchup (setTwn (fun t => { t with state := .paired }) s)) else s

/-! ## Heartbeats -/

/-- While a stripe is on its way between the planes, claims are not compared. -/
def claimsRest (s : State) : Bool := s.twn.adoptPending || decide (s.twn.state = .resyncSrc ∨ s.twn.state = .resyncDst)

/-- TWIN_HEARTBEAT (R430 to R432). -/
def heartbeatIn (claims : List Claim) (s : State) : State :=
  if !twinUp s then s
  else
    let undecided := s.twn.twinInService.isNone
    let s := if undecided then twinLearn claims s else setTwn (fun t => { t with peer := claims, twinInService := some !claims.isEmpty }) s
    if undecided || claimsRest s then s
    else checkUnclaimed claims (claims.foldl checkClaim s)

/-- Row TWIN_HEARTBEAT. -/
def execTwinHeartbeat (claims : List Claim) (s : State) : Outcome := runR (heartbeatIn claims) s

/-- MIRROR_ENTRY (R59): the entry is held as a shadow entry, in place of an older one of the same tag, and acknowledged; the claims it carries are compared
as a heartbeat's are (R430, R431). -/
def mirrorIn (e : MirrorEnt) (claims : List Claim) (s : State) : State :=
  if !twinUp s then s
  else
    let s := sendTwin (.mirrorAck e.rid e.tag) { s with mem := { s.mem with
      shadow := (s.mem.shadow.filter fun x => !(x.ent.rid == e.rid && x.ent.tag == e.tag)) ++ [{ ent := e, storedAt := s.now }] } }
    let s := if s.twn.twinInService.isNone then s else setTwn (fun t => { t with peer := claims }) s
    if s.twn.twinInService.isNone || claimsRest s then s else claims.foldl checkClaim s

/-- Row MIRROR_ENTRY. -/
def execMirrorEntry (m : MirrorMsg) (s : State) : Outcome := runR (mirrorIn m.ent m.claims) s

/-- TWIN_HEARTBEAT_SEND (R427): after 1 us without twin traffic. -/
def heartbeatOut (s : State) : State := if twinUp s ∧ s.now ≥ s.twn.sentAt + 1000 then sendTwin (.heartbeat (ownClaims s)) s else s

/-- Row TWIN_HEARTBEAT_SEND. -/
def execTwinHeartbeatSend (s : State) : Outcome := runR heartbeatOut s

/-- TWIN_CALVE (R423): the same partition is calved, and no CALVE goes back. A returning plane that is told to calve the last partition that was ACTIVE has
lost a survivor that is calved out of service (R434: DEDUCED, assumption 53). -/
def twinCalve (part : Nat) (s : State) : State :=
  if !twinUp s then s
  else
    let t := calve 3 [part] s
    if s.twn.state = .resyncDst ∧ activeParts s ≠ [] ∧ activeParts t = [] then pairLost t else t

/-- Row TWIN_CALVE. -/
def execTwinCalve (part : Nat) (s : State) : Outcome := runR (twinCalve part) s

/-! ## Adoption (R428, R429) -/

/-- The twin's mirroring toward this plane has been active since the pair's last resynchronisation, with every catch-up completed (R61). The twin's
catch-up counts as completed with this plane's: DESIGN CHOICE (assumption 60). -/
def mirroringSound (s : State) : Bool := s.mem.mirrorEn && s.mem.mirrorSound && !s.mem.mirrorGap

/-- Adoption begins: the stripe's requests are answered RETRY_LATER until it completes. A plane that served neither stripe makes its partitions ACTIVE
and serves its own (R504). -/
def beginAdopt (sound : Bool) (s : State) : State :=
  let s := if s.twn.servesOwn ∨ s.mgmt.state = .draining then s else serveOwn (activateAll s)
  twinEvent 3 (setTwn (fun t => { t with state := .adopting, adoptPending := true, adoptAt := s.now, adoptSound := sound }) s)

/-- FAILING (R428, R434, R493): the twin stops serving. -/
def failing (s : State) : State :=
  if !twinUp s then s
  else if s.mgmt.state = .drained ∨ s.twn.returning then pairLost s
  else match s.twn.state with
    | .paired | .alone =>
      let s := drainAbandon s
      if s.twn.servesOwn then beginAdopt (mirroringSound s) s else s
    | .resyncDst => pairLost s
    | .resyncSrc => twinEvent 4 (setTwn (fun t => { t with state := .adopted, resyncPct := 0, s2ok := false, yielding := false }) s)
    | _ => s

/-- Row FAILING. -/
def execFailing (s : State) : Outcome := runR failing s

/-- The map entries that this plane holds for its twin's stripe: the twin has sent each before it took effect (R108), and no command of the table
carries them, so an entry that the model has not seen is a free value. -/
def adoptMap (s : State) : State :=
  let odd := !ownOdd s
  let exts := (s.img.ranges.filter fun e => e.2.valid && e.2.tier == 1 && onStripe s e.2 odd).flatMap fun e => flashExts s (dev s) s.img e.2
  (exts.filter fun x => x.1 == odd).foldl (fun s x =>
    (List.range (x.2.2.2 - x.2.2.1)).foldl (fun s i =>
      let lb := x.2.2.1 + i
      if (aget s.ftl.map (x.2.1, odd, lb)).isSome then s
      else let (n, s) := takeFree s; setMap x.2.1 odd lb (fun _ => unpackMap n) s) s) s

/-- The blocks of the twin's stripe: port, role, logical block, map entry. -/
def adoptedEnts (s : State) : List ((Nat × Bool × Nat) × MapEnt) := s.ftl.map.filter fun e => e.2.valid && e.1.2.1 != ownOdd s

/-- Adoption takes the twin's flash pool: 4,096 is added to every adopted read counter (R108), and its relocations start again from step 1 (R106). The
twin has sent its read and erase counts every 1 ms, and no command of the table carries them: both are free values, the erase counts of its free blocks
too (`eraseOf`). -/
def adoptFlash (s : State) : State :=
  (adoptedEnts s).foldl (fun s e =>
    let b := pblockOf e.2
    let (n, s) := takeFree s
    let s := { s with ftl := { s.ftl with reads := aset s.ftl.reads (e.1.1, b) (min (n % 2 ^ 32 + 4096) (2 ^ 32 - 1)) } }
    if e.2.relocating then
      requestReloc e.1.1 b (setMap e.1.1 e.1.2.1 e.1.2.2 (fun m => { m with relocating := false, newBlock := 0, newDie := 0, newChan := 0 }) s)
    else s) s

/-- Partitions that R61 calves at an adoption: those that hold the A right on the stripe, unless the twin's mirroring was active, with every catch-up
completed, to the end. -/
def adoptCalve (s : State) : State := if s.twn.adoptSound then s else calveSome 6 (stripeAtomics s (!ownOdd s)) s

/-- ADOPTION_COMPLETE (R429): every PENDING entry is written (R60); the twin's role, pool and counters are taken, and twin_adopted is 1. -/
def adoptDone (s : State) : State :=
  if !s.twn.adoptPending ∨ s.mem.shadow.any pendingEnt ∨ s.mem.accs.any replaying then s
  else
    let s := setTwn (fun t => { t with servesTwin := true }) (adoptMap s)
    let s := adoptCalve (markLostSide (adoptFlash s))
    let s := setTwn (fun t => { t with state := .adopted, adoptPending := false, adoptFirst := ft s, yielding := false }) s
    twinEvent 4 (sendTwin .adopted s)

/-- Row ADOPTION_COMPLETE. -/
def execAdoptionComplete (s : State) : Outcome := runR adoptDone s

/-- ADOPT (R428, R481): STATE when there is no twin to adopt or this plane is in another twin state than PAIRED or ALONE. -/
def adopt (sess : Nat) (s : State) : State :=
  prosis sess 0x32 (fun s =>
    if (s.twn.state = .paired ∨ s.twn.state = .alone) ∧ (dev s).twinPresent ∧ s.mgmt.state ≠ .drained then
      reply sess 0x32 .ok [] (beginAdopt (mirroringSound s) s)
    else reply sess 0x32 .state [] s) s

/-- Row ADOPT. -/
def execAdopt (sess : Nat) (s : State) : Outcome := runR (adopt sess) s

/-! ## Resynchronisation (Table 14.7) -/

/-- RESYNC_STATE (S2). The returning plane checks the serials and the digest and takes the survivor's state; a mismatch stops it and is reported. The odd
plane of a pair that starts from its images takes what the even plane drew (R504). -/
def resyncState (p : ResyncPack) (s : State) : State :=
  if !twinUp s then s
  else if s.twn.state = .resyncDst ∨ (s.twn.state = .alone ∧ !s.twn.servesOwn ∧ s.twn.twinInService = some true ∧
      (s.mgmt.state ≠ .drained ∨ s.twn.returning)) then
    if p.baseSerial = s.sec.imgBase ∧ p.segSerials = s.sec.segSerials ∧ p.rangeDigest = rangeDigest s then
      setTwn (fun t => { t with state := .resyncDst, s2ok := true }) (takePack p s)
    else twinEvent 9 (setTwn (fun t => { t with state := .alone, s2ok := false, returning := true }) s)
  else if s.twn.state = .alone ∧ ownOdd s ∧ !s.twn.servesOwn ∧ s.twn.twinInService = some false then
    let s := serveOwn (issueEpochs (takePack p s))
    let s := { s with mem := { s.mem with mirrorSound := s.mem.mirrorEn, mirrorGap := false } }
    twinEvent 1 (startCatchup (setTwn (fun t => { t with state := .paired }) s))
  else if s.twn.state = .resyncSrc ∨ (s.twn.state = .adopted ∧ s.twn.peer = []) then
    sendTwin (.resyncPack (resyncPackOf s)) (setTwn (fun t => { t with state := .resyncSrc, resyncPct := 0 }) s)
  else s

/-- Row RESYNC_STATE. -/
def execResyncState (p : ResyncPack) (s : State) : Outcome := runR (resyncState p) s

/-- An idempotency entry as the twin is sent it (S3, R61). -/
def mirrorOf (e : IdemEnt) : MirrorEnt :=
  { rid := e.rid, tag := e.tag, part := e.part, opcode := e.opcode, addr := e.addr, status := e.status, result := e.result, line := e.line,
    image := e.image, done := decide (e.state = .recorded), poison := e.poison, running := decide (e.state = .running) }

/-- What the survivor sends at S3: its entries but those of calved partitions and those that hold no outcome (NOT_APPLIED: a retry is NEW, R56), RUNNING ones included, shadow entries, flash maps and counters, and the
highest epoch. -/
def resyncXferOf (s : State) : ResyncXfer :=
  { entries := (s.mem.idem.filter fun e => partActive s e.part && decide (e.state ≠ .notApplied)).map mirrorOf ++ s.mem.shadow.map (·.ent)
    maps := s.ftl.map.map fun e => (e.1.1, e.1.2.1, e.1.2.2, BitVec.ofNat 64 (packMap e.2))
    counts := ftlCounts s
    highestEpoch := s.twn.maxEpoch }

/-- The returning plane takes the transfer. -/
def takeXfer (x : ResyncXfer) (s : State) : State :=
  { s with
    mem := { s.mem with shadow := s.mem.shadow ++ x.entries.map fun e => ({ ent := e, storedAt := s.now } : ShadowEnt) }
    ftl := { s.ftl with
      map := x.maps.foldl (fun m e => aset m (e.1, e.2.1, e.2.2.1) (unpackMap e.2.2.2.toNat)) s.ftl.map
      reads := x.counts.foldl (fun m e => aset m (e.1, e.2.1) e.2.2.1) s.ftl.reads
      erases := x.counts.foldl (fun m e => aset m (e.1, e.2.1) e.2.2.2) s.ftl.erases } }

/-- RESYNC_TRANSFER_DONE (S3 and S4): the returning plane holds the transfer, the survivor has sent it, and mirroring is active both ways. -/
def resyncXferDone (x : ResyncXfer) (s : State) : State :=
  if !twinUp s then s
  else
    let done (s : State) : State := startCatchup (setTwn (fun t => { t with resyncPct := 100, maxEpoch := max t.maxEpoch x.highestEpoch }) s)
    if s.twn.state = .resyncDst ∧ s.twn.s2ok then done (takeXfer x s)
    else if s.twn.state = .resyncSrc then done (sendTwin (.resyncXfer (resyncXferOf s)) s)
    else s

/-- Row RESYNC_TRANSFER_DONE. -/
def execResyncTransferDone (x : ResyncXfer) (s : State) : Outcome := runR (resyncXferDone x) s

/-- Requests of the twin's stripe that are still in flight here, and the accesses of it on trays. -/
def yieldBusy (s : State) : Bool :=
  (s.mem.reqs.any fun r => !r.released && r.view.any fun v => v.2.2 != ownOdd s) || (s.mem.markers.any fun m => m.why == 2)

/-- Step S5 begins on the survivor: the stripe's requests are no longer admitted, and a drain marker follows its accesses on each tray port. -/
def beginYield (s : State) : State :=
  let out := s.mem.accs.filter fun a => a.odd != ownOdd s && !a.viaTwin
  let s := setTwn (fun t => { t with yielding := true }) s
  (out.map (·.port)).eraseDups.foldl (fun s p => sendMarker p 2 ((out.filter fun a => a.port == p).map (·.aid)) [] s) s

/-- The pair is PAIRED: epochs are issued, mirroring has been active since. -/
def pairUp (s : State) : State :=
  let s := issueEpochs s
  let s := { s with mem := { s.mem with mirrorSound := s.mem.mirrorEn, mirrorGap := false } }
  twinEvent 1 (setTwn (fun t => { t with state := .paired, yielding := false, s2ok := false, returning := false }) s)

/-- A shadow entry of its own stripe becomes the returning plane's own record of the request (R433). -/
def idemOf (now : Nat) (e : ShadowEnt) : IdemEnt :=
  { rid := e.ent.rid, tag := e.ent.tag, part := e.ent.part, opcode := e.ent.opcode, addr := e.ent.addr, state := .recorded, status := e.ent.status
    result := e.ent.result, ansAt := some now, mirrored := true, line := e.ent.line, image := e.ent.image, poison := e.ent.poison }

/-- The line of an entry lies in this plane's own stripe. -/
def ownEntry (s : State) (e : ShadowEnt) : Bool :=
  (findRange s e.ent.line 64).any fun v => servingPlane s v.2 e.ent.line == ownPlane s

/-- RESYNC_HANDOVER (S5). -/
def handover (s : State) : State :=
  if !twinUp s ∨ s.twn.resyncPct ≠ 100 then s
  else match s.twn.state with
    | .resyncSrc =>
      if !s.twn.yielding then
        let s := beginYield s
        if yieldBusy s then s else pairUp (setTwn (fun t => { t with servesTwin := false }) s)
      else if yieldBusy s then s
      else pairUp (setTwn (fun t => { t with servesTwin := false }) s)
    | .resyncDst =>
      let mine := s.mem.shadow.filter (ownEntry s)
      let s := { s with mem := { s.mem with
        shadow := s.mem.shadow.filter fun e => !ownEntry s e
        idem := s.mem.idem ++ (mine.filter fun e => !e.ent.running).map (idemOf s.now) } }
      let s := pairUp (serveOwn s)
      if s.mgmt.state = .drained ∧ coresUp s ≥ 3 then startRequesters (setMgmt (fun m => { m with state := .run }) s) else s
    | _ => s

/-- Row RESYNC_HANDOVER. -/
def execResyncHandover (s : State) : Outcome := runR handover s

/-! ## Draining a plane (R492, R493) -/

/-- PLANE_DRAIN: STATE unless the plane is in RUN and PAIRED; FAILING goes to the twin and this plane stops serving (R428). -/
def planeDrain (sess : Nat) (s : State) : State :=
  prosis sess 0x30 (fun s =>
    if bgHolds s 2 0 then reply sess 0x30 .busy [] s
    else if s.mgmt.state ≠ .run ∨ s.twn.state ≠ .paired then reply sess 0x30 .state [] s
    else
      let s := abandonRelocs (fun _ => true) (bgStart 0x30 sess 2 0 (sendTwin .failing s))
      setTwn (fun t => { t with servesOwn := false }) (setMgmt (fun m => { m with state := .draining }) s)) s

/-- Row PLANE_DRAIN. -/
def execPlaneDrain (sess : Nat) (s : State) : Outcome := runR (planeDrain sess) s

/-- A partition is taken out of service by a drain: its engine work and its streams stop without records, and nothing is calved (Table 16.8). -/
def drainPart (s : State) (p : Nat) : State :=
  if !partActive s p then s
  else { calveUnits p (calveLines p (calveEngines p s)) with pstate := aset s.pstate p 2 }

/-- DRAIN_COMPLETE (U3): the twin has reported ADOPTED. -/
def drainDone (s : State) : State :=
  if s.mgmt.state ≠ .draining ∨ !twinUp s then s
  else
    let s := setMgmt (fun m => { m with state := .drained }) s
    let ps := (s.img.ports.filter fun e => decide (e.2.role = 0 ∨ e.2.role = 3)).map (·.1)
    let s := ps.foldl (fun s p => portGoesDown p 5 s) s
    let s := tableChanged (allParts.foldl drainPart s)
    bgDone 0x30 2 0 .ok 0 (setTwn (fun t => { t with state := .alone, twinInService := some true }) s)

/-- Row DRAIN_COMPLETE. -/
def execDrainComplete (s : State) : Outcome := runR drainDone s

/-- PLANE_RESUME (R481): with the twin in service the plane resynchronises and then returns to RUN; without, it returns to RUN at once and its
partitions stay DOWN. -/
def planeResume (sess : Nat) (s : State) : State :=
  prosis sess 0x31 (fun s =>
    if s.mgmt.state ≠ .drained ∨ coresUp s < 3 then reply sess 0x31 .state [] s
    else if (dev s).twinPresent ∧ s.twn.twinInService = some true ∧ s.twn.state ≠ .lost then
      reply sess 0x31 .ok [] (twinEvent 6 (setTwn (fun t => { t with state := .resyncDst, resyncPct := 0, s2ok := false }) s))
    else
      let s := setTwn (fun t => { t with state := if (dev s).twinPresent then .alone else .none }) (serveOwn s)
      let s := setMgmt (fun m => { m with state := .run }) s
      reply sess 0x31 .ok [] (startRequesters s)) s

/-- Row PLANE_RESUME. -/
def execPlaneResume (sess : Nat) (s : State) : Outcome := runR (planeResume sess) s

end Sys2Proof.Machine
end

