-- ==== Sys2Proof/Machine/Link.lean ====
section
/-! DEFINITION. Bamom links (chapter 12): flits and units as bytes, retry, link items, training, narrowing, what takes a port down, and the flash
trays that answer on them. -/

namespace Sys2Proof.Machine

/-- A Bamom port that is UP. -/
def bamomUp (s : State) (p : Nat) : Bool := portUp s p && (portRec s p).protocol == 1

/-! ## Flits and units (R356 to R358) -/

/-- What a decoder of a channel's bytes knows of the unit that begins there: a protocol error, more bytes are needed, its length, or that it goes on to the
end of what is there (a TWIN unit, whose layout is internal to the pair). -/
inductive UnitLen where
  | bad | more | len (n : Nat) | rest
  deriving DecidableEq, Repr

/-- Payload bytes of a request's opcode (Table 2.2); none for an opcode the table does not have. -/
def opPayload : Nat → Option Nat
  | 0x01 | 0x02 | 0x31 => some 0
  | 0x10 | 0x12 | 0x40 => some 64
  | 0x11 => some 72
  | 0x20 | 0x21 | 0x22 | 0x23 | 0x24 | 0x25 | 0x26 | 0x27 | 0x28 | 0x30 => some 8
  | 0x2C => some 16
  | 0x2D | 0x32 => some 32
  | _ => none

/-- Bytes of a link item (Table 12.7). -/
def itemLen : Nat → Nat
  | 0xF3 => 32 | 0xF4 => 16 | 0xF5 => 64 | _ => 8

/-- Data bytes behind a tray's response header (Tables 2.2 and 12.9): those its tag asked for. -/
def answerLen (s : State) (p op tag : Nat) : Nat :=
  match op with
  | 0x01 => 64
  | 0x02 => ((s.mem.accs.find? fun a => a.port == p && a.aid % 65536 == tag).map (·.len)).getD 64
  | 0x80 | 0x83 => 4096
  | _ => 0

/-- The unit at the front of a channel's bytes (Table 12.3): its type must be one the channel and the port's role allow, its length within R125. -/
def unitAt (s : State) (p : Nat) (stream : Bool) (b : Bytes) : UnitLen :=
  let role := (portRec s p).role
  let t := fieldAt b 0 1
  let need (h n : Nat) : UnitLen := if b.length < h then .more else if n ≤ 16384 then .len n else .bad
  if stream then
    if (t = 0xD0 ∨ t = 0xD1) ∧ role = 0 then
      if b.length < 16 then .more
      else let n := bits (fieldAt b 4 4) 16 15; if n = 0 ∨ n > 16368 then .bad else .len (16 + n)
    else .bad
  else if t = 0xE8 then if role = 2 then .rest else .bad
  else if 0xF0 ≤ t ∧ t ≤ 0xF7 then need 1 (itemLen t)
  else if t = 0xE0 ∧ role = 0 then
    if b.length < 8 then .more else let n := bits (fieldAt b 4 4) 0 14; if 64 ≤ n ∧ n ≤ 9220 then .len (8 + n) else .bad
  else if 1 ≤ t ∧ t ≤ 0x7F ∧ role = 0 then need 1 (32 + (opPayload t).getD 0)
  else if ((1 ≤ t ∧ t ≤ 0x7F) ∨ (0x80 ≤ t ∧ t ≤ 0x83)) ∧ role = 1 then
    need 16 (16 + if bitAt (fieldAt b 4 4) 19 then answerLen s p t (bits (fieldAt b 0 4) 16 16) else 0)
  else .bad

/-- The units in a channel's bytes, and the bytes of one that is not whole; `none` after a protocol error. `old` bytes belong to a unit begun in an
earlier flit; a byte 0x00 where a unit would begin ends the flit's body. -/
def cutUnits (s : State) (p : Nat) (stream : Bool) : Nat → Bytes → Option (List Bytes × Bytes)
  | 0, b => some ([], b)
  | n + 1, b =>
    if b = [] ∨ fieldAt b 0 1 = 0 then some ([], [])
    else match unitAt s p stream b with
      | .bad => none
      | .more => some ([], b)
      | .rest => some ([b], [])
      | .len k =>
        if b.length < k then some ([], b)
        else match cutUnits s p stream n (b.drop k) with
          | none => none
          | some (us, r) => some (b.take k :: us, r)

/-- A request of an opcode that Table 2.2 does not have enters the command FIFO as any other, and fails step 3 (R27, R42). No other command of the table carries
it. -/
def unknownReq (p : Nat) (b : Bytes) (s : State) : State :=
  let w := fieldAt b 0 4
  let op := bits w 0 8
  let h : ReqHdr := {
    port := p, rid := bits w 8 12, part := bits w 20 7, cls := bits w 27 3, cmark := bitAt w 30, poison := bitAt w 31
    tag := fieldAt b 4 2, reissue := bitAt (fieldAt b 4 4) 29, addr := bits (fieldAt b 8 8) 0 52, key := BitVec.ofNat 32 (fieldAt b 16 4) }
  arriveBamom h (.unknown op) s

/-- A TWIN unit is opened under the pair key (R454): one that is not authentic, or whose message counter has been used, is discarded. -/
def openTwin (b : Bytes) (s : State) : State :=
  match s.twn.pairKey.bind fun k => Config.gcmOpen k b with
  | some n => if s.twn.rxCtr ≤ n then { s with twn := { s.twn with rxCtr := n + 1 } } else s
  | none => s

/-- What a completed unit does here: a TWIN unit is opened, and a request of an unknown opcode accepted. What a whole and authentic unit asks has a
command of its own, which is the unit's acceptance. -/
def unitIn (p : Nat) (s : State) (b : Bytes) : State :=
  let t := fieldAt b 0 1
  if t = 0xE8 then openTwin b s
  else if (portRec s p).role = 0 ∧ 1 ≤ t ∧ t ≤ 0x7F ∧ (opPayload t).isNone then unknownReq p b s else s

/-- A flit that fails the link checks is discarded, and a NAK names the expected flit, at most one in 1 us (R366). -/
def flitFails (p : Nat) (s : State) : State :=
  let q := port s p
  if q.nakAt.any fun t => decide (s.now < t + 1000) then s
  else sendItem p (.nak q.rxExp) (setPort p (fun q => { q with nakAt := some s.now }) s)

/-- The body of a flit in order joins its channel; a protocol error takes the port down, cause 4 (R358). -/
def flitBody (p : Nat) (stream : Bool) (body : Bytes) (s : State) : State :=
  let q := port s p
  let b := (if stream then q.rxStm else q.rxCmd) ++ body
  match cutUnits s p stream (b.length + 1) b with
  | none => portGoesDown p 4 s
  | some (us, r) =>
    let s := setPort p (fun q => if stream then { q with rxStm := r, rxUnits := us } else { q with rxCmd := r, rxUnits := us }) s
    us.foldl (unitIn p) s

/-- FLIT_RECEIVE (R357): the FEC, the CRC and the sequence number are checked. Whether the FEC has corrected a codeword is a free bit. -/
def flitReceive (p : Nat) (fecOk : Bool) (f : Bytes) (s : State) : State :=
  if !bamomUp s p then s
  else
    let s := setPort p (fun q => { q with lastFlit := s.now }) s
    if !fecOk then flitFails p (bumpP p .fecUnc 1 s)
    else if f.length ≠ 256 ∨ fieldAt f 0xFC 4 ≠ crc32c (f.take 252) then flitFails p (bumpP p .crcErr 1 s)
    else
      let w := fieldAt f 0 2
      let corr := freeBit s
      let s := bumpP p .fecCorr (b2n corr.1) corr.2
      if bitAt w 11 then s
      else if bits w 0 10 ≠ (port s p).rxExp then flitFails p s
      else
        let s := setPort p (fun q => { q with rxExp := (q.rxExp + 1) % 1024, rxUnacked := q.rxUnacked + 1, rxAt := s.now, rxUnits := [] }) s
        flitBody p (bitAt w 10) ((f.drop 2).take 250) s

/-- Row FLIT_RECEIVE. -/
def execFlitReceive (port : Nat) (fecOk : Bool) (flit : Bytes) (s : State) : Outcome := runR (flitReceive port fecOk flit) s

/-! ## Retry (R366, R367) -/

/-- ACK: the flits up to the one named are received. -/
def ackIn (p fseq : Nat) (s : State) : State :=
  if !bamomUp s p then s
  else match (port s p).unacked.findIdx? fun f => f.1 == fseq with
    | none => s
    | some i =>
      let s := ctlFree p (setPort p (fun q => { q with unacked := q.unacked.drop (i + 1), resends := 0, ackAt := s.now }) s)
      sendItems p (port s p).items s

/-- Row ACK. -/
def execAck (port fseq : Nat) (s : State) : Outcome := runR (ackIn port fseq) s

/-- The flits from place `i` on are sent again; after eight resends without ACK progress the port goes down with cause 0 (R367). -/
def resendFrom (p i : Nat) (s : State) : State :=
  let q := port s p
  if q.resends ≥ 8 then portGoesDown p 0 s
  else
    let s := setPort p (fun q => { q with resends := q.resends + 1, ackAt := s.now }) (bumpP p .replay 1 s)
    (q.unacked.drop i).foldl (fun s f => wireOut p (.flit f.2) s) s

/-- NAK: the transmitter resends from the flit named. -/
def nakIn (p fseq : Nat) (s : State) : State :=
  if !bamomUp s p then s
  else match (port s p).unacked.findIdx? fun f => f.1 == fseq with
    | none => s
    | some i => resendFrom p i s

/-- Row NAK. -/
def execNak (port fseq : Nat) (s : State) : Outcome := runR (nakIn port fseq) s

/-- ACK_TIMER: 32 flits in order, or 256 ns after the last one that is not acknowledged. -/
def ackTimer (p : Nat) (s : State) : State :=
  let q := port s p
  if bamomUp s p ∧ 1 ≤ q.rxUnacked ∧ (32 ≤ q.rxUnacked ∨ q.rxAt + 256 ≤ s.now) then
    sendItem p (.ack ((q.rxExp + 1023) % 1024)) (setPort p (fun q => { q with rxUnacked := 0 }) s)
  else s

/-- Row ACK_TIMER. -/
def execAckTimer (port : Nat) (s : State) : Outcome := runR (ackTimer port) s

/-- RESEND_TIMEOUT: 4 us without ACK progress. -/
def resendTimeout (p : Nat) (s : State) : State :=
  let q := port s p
  if bamomUp s p ∧ q.unacked ≠ [] ∧ q.ackAt + 4000 ≤ s.now then resendFrom p 0 s else s

/-- Row RESEND_TIMEOUT. -/
def execResendTimeout (port : Nat) (s : State) : Outcome := runR (resendTimeout port) s

/-! ## Credits, timing, grants -/

/-- Row CREDIT (R364): credits the far end returns. -/
def execCredit (port req msgs : Nat) (s : State) : Outcome :=
  runR (fun s => if bamomUp s port then
    setPort port (fun q => { q with ownReq := min 4095 (q.ownReq + req), ownMsg := min 4095 (q.ownMsg + msgs) }) s else s) s

/-- TOS (R190, R368): the partner's set is noted for the echo, and every 1 ms the delay is computed from an echo of this end's own, in ps. -/
def tosIn (p : Nat) (echo : Bool) (txPs tTx e1Ps e1 e2Ps e2 arrPs arr : Nat) (s : State) : State :=
  if !bamomUp s p then s
  else
    let ps (ns sub : Nat) : Int := (ns * 1000 + sub : Nat)
    let d : Int := ((ps arr arrPs - ps tTx txPs) + (ps e2 e2Ps - ps e1 e1Ps)) / 2 + (port s p).asymPs
    let due := echo && !(port s p).delayAt.any fun t => decide (s.now < t + 1000000)
    setPort p (fun q => { q with
      lastTos := some (tTx, arr), lastTosPs := (txPs, arrPs), tosRxAt := some s.now
      delayPs := if due then d else q.delayPs, delayAt := if due then some s.now else q.delayAt }) s

/-- Row TOS. -/
def execTos (port : Nat) (echoValid : Bool) (txPs tTx e1Ps e1 e2Ps e2 arrivalPs arrival : Nat) (s : State) : Outcome :=
  runR (tosIn port echoValid txPs tTx e1Ps e1 e2Ps e2 arrivalPs arrival) s

/-- The absolute slot of a 16-bit slot number: the one within half a turn of the present slot. -/
def slotAbs (now x : Nat) : Nat :=
  let d := (x + 65536 - now % 65536) % 65536
  if d < 32768 then now + d else now + d - 65536

/-- GRANT (R205, R208): an allowance in 64 B units with its per-slot limit and expiry slot. -/
def grantIn (p allowance perSlot expiry : Nat) (s : State) : State :=
  if !bamomUp s p then s
  else
    let (n, s) := takeId s
    let g : Grant := { gid := n, left := 64 * allowance, perSlot := perSlot, expiry := slotAbs (ftSlot s) expiry }
    setPort p (fun q => { q with grantsIn := q.grantsIn ++ [g] }) s

/-- Row GRANT. -/
def execGrant (port allowance perSlot expiry : Nat) (s : State) : Outcome := runR (grantIn port allowance perSlot expiry) s

/-! ## Training (R370, R371) -/

/-- Lanes of a mask counted. -/
def lanesIn (m : Nat) : Nat := popBits 16 m

/-- The largest aligned power-of-two set of lanes within a mask, of a port of `w` lanes; the lowest of equals. -/
def alignedSet (w m : Nat) : Nat :=
  let sets := [16, 8, 4, 2, 1].flatMap fun k => if k ≤ w then (List.range (w / k)).map fun i => (2 ^ k - 1) * 2 ^ (i * k) else []
  (sets.find? fun x => decide (x &&& m = x)).getD 0

/-- A training step begins. -/
def trainTo (p k : Nat) (s : State) : State := setPort p (fun q => { q with trainStep := k, stepAt := s.now }) s

/-- A training attempt has failed at step `k` (R370). -/
def trainFail (p k : Nat) (s : State) : State :=
  let s := dropGrants p s
  setPort p (fun q =>
    if q.attempts ≥ 1 then { q with attempts := 2, link := .failed, trainStep := 0, widthNow := 0, laneMask := 0 }
    else { q with
      attempts := 1, trainStep := 1, stepAt := s.now, widthNow := 0, laneMask := 0
      gen := if (k = 2 ∨ k = 5) ∧ q.gen = 2 then 1 else q.gen }) s

/-- Credits offered at T6 on a REQUESTER port: the spec gives no number but that they are issued against staging, so two free values of at most its
1,024 units together. -/
def offerCredits (p : Nat) (s : State) : State :=
  if (portRec s p).role ≠ 0 then setPort p (fun q => { q with offReq := 0, offMsg := 0 }) s
  else
    let (a, s) := takeFree s
    let (b, s) := takeFree s
    setPort p (fun q => { q with offReq := a % 1025, offMsg := b % (1025 - a % 1025) }) s

/-- The grant that CAP offers a requester (R205, R206): the port's window, as far as SHR cells can be reserved for it; none while grants are withheld. Its
per-slot limit, which CAP does not carry, is a free value. -/
def offerGrant (p : Nat) (s : State) : State :=
  let s := dropGrants p s
  let kib := if (portRec s p).role ≠ 0 ∨ (port s p).withheld ∨ s.pwr.pstate ≠ 0 then 0 else min (portRec s p).windowKib (shrFree s / 4)
  if kib = 0 then s
  else
    let (n, s) := takeId s
    let (lim, s) := takeFree s
    let g : Grant := { gid := n, left := 1024 * kib, perSlot := lim % 65536, expiry := ftSlot s + 64, cells := 4 * kib }
    poolTake .shr (4 * kib) (setPort p (fun q => { q with capGrant := some g }) s)

/-- Step T6 begins: this end's CAP leaves (Table 12.8), on the twin link with its claims (R430). -/
def sendCap (p : Nat) (s : State) : State :=
  let s := offerGrant p (offerCredits p (trainTo p 6 s))
  let q := port s p
  let r := portRec s p
  let kib := (q.capGrant.map fun g => g.left / 1024).getD 0
  wireOut p (.item (.cap r.role q.gen q.widthNow q.offReq q.offMsg kib Config.devId.toNat (if r.role = 2 then ownClaims s else []))) s

/-- T4 begins; on the twin link this plane shows its alias chain and owner keys with it (R454; at which step is the model's choice, assumption 60). -/
def qualify (p : Nat) (s : State) : State :=
  let s := if (portRec s p).role = 2 then wireOut p (.ident (twinSelf s)) s else s
  trainTo p 4 s

/-- On the twin link the pair key comes from what the twin has shown; while it fails the checks of R454 the step is not complete. -/
def pairTrain (p : Nat) (twin : TwinId) (s : State) : Bool × State :=
  if (portRec s p).role ≠ 2 then (true, s)
  else if twinIdOk s twin then
    let (n, s) := takeFree s
    (true, { s with twn := { s.twn with pairKey := some (Config.pairKey (cdiOf s) twin.chain n), msgCtr := 0, rxCtr := 0 } })
  else (false, s)

/-- TRAINING_STEP_COMPLETE (Table 12.8); the step T4 is told which lanes passed and, on the twin link, what the twin has shown; T2 the generation both
ends allow. -/
def stepDone (p passLanes gen : Nat) (twin : TwinId) (s : State) : State :=
  let q := port s p
  if q.link ≠ .training then s
  else match q.trainStep with
    | 1 => trainTo p 2 s
    | 2 => trainTo p 3 (setPort p (fun q => { q with gen := if gen = 1 then 1 else q.gen }) s)
    | 3 => qualify p s
    | 4 =>
      let (ok, s) := pairTrain p twin s
      if !ok then s else
      let r := portRec s p
      let m := passLanes % 2 ^ r.width
      let w := lanesIn (alignedSet r.width m)
      let s := setPort p (fun q => { q with laneMask := m, widthNow := w, rateNow := if q.gen = 2 then 7 else 6 }) s
      if w = 0 ∨ w < r.minWidth then trainFail p 5 s else sendCap p s
    | _ => s

/-- Row TRAINING_STEP_COMPLETE. -/
def execTrainingStepComplete (port : Nat) (passLanes : Nat) (result : StepResult) (s : State) : Outcome :=
  runR (stepDone port passLanes result.gen result.twin) s

/-- Limit of a training step in ns (Table 12.8). -/
def stepLimit : Nat → Nat
  | 1 => 100000000 | 2 => 500000000 | 3 => 10000000 | 4 => 100000000 | _ => 1000000

/-- TRAINING_STEP_TIMEOUT (R370). -/
def stepTimeout (p : Nat) (s : State) : State :=
  let q := port s p
  if q.link = .training ∧ 1 ≤ q.trainStep ∧ q.stepAt + stepLimit q.trainStep ≤ s.now then trainFail p q.trainStep s else s

/-- Row TRAINING_STEP_TIMEOUT. -/
def execTrainingStepTimeout (port : Nat) (s : State) : Outcome := runR (stepTimeout port) s

/-- What follows when a port comes UP: a tray's traffic returns to it (R67), the twin is learned of (R504)
and is told again of key rotations it has not acknowledged (R35). -/
def cameUp (p : Nat) (claims : List Claim) (s : State) : State :=
  let r := portRec s p
  if r.role = 1 then rerouteBack p s
  else if r.role = 2 then
    let s := (s.sec.rots.filter fun r => !r.peer && !r.twinOk).foldl (fun s r => sendTwin (.keys [(r.range, r.key)]) s) s
    twinLearn claims s
  else s

/-- Step T7: sequence numbers start, credits and the first grant come from CAP, the port is UP. The per-slot limit of the first grant is not stated:
a free value. -/
def portComesUp (p reqCr msgCr grantKib : Nat) (claims : List Claim) (s : State) : State :=
  let (n, s) := takeId s
  let (lim, s) := takeFree s
  let run := decide (s.pwr.pstate = 0)
  let g : Grant := { gid := n, left := 1024 * grantKib, perSlot := lim % 65536, expiry := ftSlot s + 64 }
  let s := setPort p (fun q => { q with
    link := .up, trainStep := 0, attempts := 0, txSeq := 0, unacked := [], items := [], resends := 0, ackAt := s.now, rxExp := 0, rxUnacked := 0, nakAt := none
    lastFlit := s.now, ownReq := reqCr, ownMsg := msgCr, farReq := if run then q.offReq else 0, farMsg := if run then q.offMsg else 0
    grantsIn := if grantKib = 0 then [] else [g]
    grantsOut := (q.capGrant.map fun g => { g with expiry := ftSlot s + 64 }).toList, capGrant := none }) s
  cameUp p claims s

/-- The checks of R371: role, generation and width. -/
def capOk (p role gen width : Nat) (s : State) : Bool := decide (role = (portRec s p).role ∧ gen = (port s p).gen ∧ width = (port s p).widthNow)

/-- CAP (R371): a port whose check fails is FAILED until Paste sets retrain, and it is reported. -/
def capIn (p role gen width reqCr msgCr grantKib dev : Nat) (claims : List Claim) (s : State) : State :=
  let q := port s p
  if q.link ≠ .training ∨ q.trainStep ≠ 6 then s
  else
    let s := setPort p (fun q => { q with farDev := dev % 2 ^ 32 }) s
    if capOk p role gen width s then portComesUp p reqCr msgCr grantKib claims s
    else emit (.trainFail p 6) (setPort p (fun q => { q with link := .failed, trainStep := 0, capFailed := true }) (dropGrants p s))

/-- Row CAP. -/
def execCap (port role gen width reqCr msgCr grantKib devId : Nat) (claims : List Claim) (s : State) : Outcome :=
  runR (capIn port role gen width reqCr msgCr grantKib devId claims) s

/-! ## Down and narrow (R372, R373) -/

/-- Row DOWN: the far end's DOWN takes the port down, cause 3. -/
def execDown (port _cause : Nat) (s : State) : Outcome := runR (fun s => if bamomUp s port then portGoesDown port 3 s else s) s

/-- Both ends use the lanes of `m` from flit `fseq` on, and the transmitter resends from it (R373, R366); fewer lanes than min_width take the port
down, cause 2. -/
def narrowTo (p m fseq : Nat) (s : State) : State :=
  if lanesIn m = 0 ∨ lanesIn m < (portRec s p).minWidth then portGoesDown p 2 s
  else
    let s := bumpP p .narrow 1 (setPort p (fun q => { q with widthNow := lanesIn m }) s)
    match (port s p).unacked.findIdx? fun f => f.1 == fseq with
    | some i => ((port s p).unacked.drop i).foldl (fun s f => wireOut p (.flit f.2) s) (bumpP p .replay 1 s)
    | none => s

/-- Row NARROW (R373). -/
def execNarrow (port mask fseq : Nat) (s : State) : Outcome :=
  runR (fun s => if bamomUp s port then narrowTo port (mask % 65536) fseq (setPort port (fun q => { q with laneMask := mask % 65536 }) s) else s) s

/-- LANE_DEGRADE (R373): the lane, by its package number, is lost; this end names the flit both ends switch at. -/
def laneLost (p lane : Nat) (s : State) : State :=
  let q := port s p
  let r := portRec s p
  let i := lane - r.firstLane
  if !bamomUp s p ∨ lane < r.firstLane ∨ r.width ≤ i ∨ !bitAt q.laneMask i then s
  else
    let left := q.laneMask - 2 ^ i
    let m := alignedSet r.width left
    let s := setPort p (fun q => { q with laneMask := left }) s
    let f := ((q.unacked.head?).map (·.1)).getD q.txSeq
    if m = alignedSet r.width q.laneMask then s
    else if lanesIn m = 0 ∨ lanesIn m < r.minWidth then portGoesDown p 2 s
    else narrowTo p m f (sendItem p (.narrow m f) s)

/-- Row LANE_DEGRADE. -/
def execLaneDegrade (port lane : Nat) (s : State) : Outcome := runR (laneLost port lane) s

/-- Row LINK_SILENCE (R372): no flit for 1 us. -/
def execLinkSilence (port : Nat) (s : State) : Outcome :=
  runR (fun s => if bamomUp s port ∧ (Machine.port s port).lastFlit + 1000 ≤ s.now then portGoesDown port 1 s else s) s

/-- Row CXL_LINK_DOWN (R374). -/
def execCxlLinkDown (port : Nat) (s : State) : Outcome :=
  runR (fun s => if portUp s port ∧ (portRec s port).protocol = 2 then portGoesDown port 7 s else s) s

/-- Row ETH_LINK_LOSS (R374). -/
def execEthLinkLoss (port : Nat) (s : State) : Outcome :=
  runR (fun s => if portUp s port ∧ (portRec s port).protocol = 3 then portGoesDown port 8 s else s) s

/-- Ports with a lane in an octet, by the octet's package number. -/
def octetPorts (s : State) (m : Nat) : List Nat :=
  (s.img.ports.filter fun e => decide (e.2.firstLane / 8 ≤ m ∧ m ≤ (e.2.firstLane + e.2.width - 1) / 8)).map (·.1)

/-- UCIE_MODULE_FAIL (R355): every port on the octet goes down and stays failed until the next cold reset. -/
def moduleFail (m : Nat) (s : State) : State :=
  (octetPorts s m).foldl (fun s p => portGoesDown p 6 s) { s with flt := { s.flt with modulesOut := addOnce s.flt.modulesOut m } }

/-- Row UCIE_MODULE_FAIL. -/
def execUcieModuleFail (module : Nat) (s : State) : Outcome := runR (moduleFail module) s

/-- Paste sets retrain: the port goes down, cause 5, and trains again (R370, Table 12.14). -/
def retrain (p : Nat) (s : State) : State :=
  if (aget s.img.ports p).isNone then s else if portUp s p then portGoesDown p 5 s else portRestart p s

/-- Row PORT_RETRAIN. -/
def execPortRetrain (port : Nat) (s : State) : Outcome := runR (byPaste (retrain port)) s

/-- PORT_DISABLE (R372): the port is held DISABLED, or released to train. -/
def disablePort (p : Nat) (on : Bool) (s : State) : State :=
  if (aget s.img.ports p).isNone ∨ (port s p).disable = on then s
  else
    let s := setPort p (fun q => { q with disable := on }) s
    if on ∧ portUp s p then portGoesDown p 5 s else portRestart p s

/-- Row PORT_DISABLE. -/
def execPortDisable (port : Nat) (on : Bool) (s : State) : Outcome := runR (byPaste (disablePort port on)) s

/-! ## CXL and Ethernet links (R374) -/

/-- A CXL or Ethernet port may come up: it waits for its link. -/
def awaitsLink (s : State) (p proto : Nat) : Bool :=
  (portRec s p).protocol == proto && decide ((port s p).link = .down) && !(port s p).disable && !heldPort s p && decide (s.mgmt.state ≠ .parked)

/-- A CXL or Ethernet port comes UP at a width. -/
def linkUp (p proto width : Nat) (s : State) : State :=
  if !awaitsLink s p proto then s
  else
    cameUp p [] (setPort p (fun q => { q with
      link := .up, widthNow := width, rateNow := (portRec s p).maxRate, laneMask := 2 ^ width - 1, lastFlit := s.now
      cxlReq := if proto = 2 then 128 else 0, cxlDat := if proto = 2 then 128 else 0 }) s)

/-- Row CXL_LINK_UP: the LTSSM has reached L0; toward a tray Paste has programmed its decoders (R377). -/
def execCxlLinkUp (port width : Nat) (s : State) : Outcome :=
  runR (fun s => if 1 ≤ width ∧ width ≤ (portRec s port).width then linkUp port 2 width s else s) s

/-- Row ETH_LINK_UP: at the configured speed. -/
def execEthLinkUp (port : Nat) (s : State) : Outcome := runR (fun s => linkUp port 3 (portRec s port).width s) s

/-- CXL_LINK_NARROW: the port stays UP at a smaller width, down to min_width (R374, R146). -/
def cxlNarrow (p width : Nat) (s : State) : State :=
  let q := port s p
  if !portUp s p ∨ (portRec s p).protocol ≠ 2 ∨ width = 0 ∨ q.widthNow ≤ width then s
  else if width < (portRec s p).minWidth then portGoesDown p 2 s
  else bumpP p .narrow 1 (setPort p (fun q => { q with widthNow := width, laneMask := 2 ^ width - 1 }) s)

/-- Row CXL_LINK_NARROW. -/
def execCxlLinkNarrow (port width : Nat) (s : State) : Outcome := runR (cxlNarrow port width) s

/-! ## Flash trays (R375, R94, R396) -/

/-- A flash tray is refused: its port is FAILED until Paste sets retrain (R94, R396). -/
def refuseTray (p : Nat) (s : State) : State :=
  let log := (port s p).downLog
  setPort p (fun q => { q with link := .failed, trainStep := 0, capFailed := true, geom := none, geomOk := false, downLog := log }) (portGoesDown p 5 s)

/-- A page of a flash tray's geometry report. The first gives the numbers, each up to 508 bad blocks; a full page is followed by the next. What Table 3.3 or
class 0x12 does not allow is refused and reported, and so is a report that R95 or R97 does not allow beside the ranges the image puts on the tray: those
rules were checked with the image only as far as the geometry was known then (DEDUCED, assumption 59). -/
def geomBack (p page : Nat) (data : Bytes) (s : State) : State :=
  let f (i : Nat) : Nat := fieldAt data (4 * i) 4
  let bad := (((List.range 508).map fun i => (fieldAt data (32 + 8 * i) 1, fieldAt data (33 + 8 * i) 1, fieldAt data (34 + 8 * i) 2)).filter
    fun b => b ≠ (0, 0, 0)).map fun b => pblockOf { block := b.2.2, die := b.2.1, chan := b.1 }
  let more (s : State) : State := if bad.length = 508 then askGeom p (page + 1) s else s
  let addBad (s : State) : State := { s with ftl := { s.ftl with bad := amod s.ftl.bad p [] fun l => bad.foldl addOnce l } }
  if page ≠ 0 then more (addBad (setPort p (fun q => { q with geom := q.geom.map fun g => { g with bad := g.bad ++ bad } }) s))
  else if !decide ((f 3 = 1024 ∨ f 3 = 2048 ∨ f 3 = 4096) ∧ f 0 ≤ 64 ∧ f 1 ≤ 256 ∧ f 2 ≤ 65536) then refuseTray p (emit (.trainFail p 7) s)
  else if f 4 < 2 * (dev s).readThr ∨ f 2 < (aget s.img.flashPool p).getD 0 then
    let pos := (posIn s.img.flashPool p).getD 0xFFFF
    refuseTray p (emit (.refused s.sec.imgSerial false 0x12 0x06 pos) s)
  else
    let s := addBad (setPort p (fun q => { q with geom := some { chans := f 0, dies := f 1, blocks := f 2, upb := f 3, limit := f 4, bad := bad }, geomOk := true }) s)
    match s.img.ranges.findIdx? fun e => e.2.valid && e.2.tier == 1 && decide (p ∈ isetOf s e.2.iset) && !flashFits s s.img e with
    | some pos => refuseTray p (emit (.refused s.sec.imgSerial false 0x0C 0x12 pos) s)
    | none => more s

/-- FLASH_RESPONSE (R375): a read that is uncorrectable is rebuilt (R98); a program or an erase moves its owner on. -/
def flashBack (aid : Nat) (ok : Bool) (data : Bytes) (s : State) : State :=
  match findAcc s aid with
  | none => s
  | some a =>
    if a.state = .queued ∨ a.state = .held ∨ !(a.kind = .flRead ∨ a.kind = .flProg ∨ a.kind = .flErase ∨ a.kind = .flGeom) then s
    else
      let s := accGone a s
      let st : Status := if ok then .ok else .poison
      if a.state = .late then lateDone a s
      else match a.owner with
        | .rebuild n c => rebuildBack n c ok (slice data 0 4096) s
        | .geom p => if ok then geomBack p (a.addr / 16384 % 4096) data s else refuseTray p (emit (.trainFail p 7) s)
        | _ =>
          if a.kind = .flRead then
            if ok then deliverAcc a .ok (sectorPart a (slice data 0 4096)) s
            else
              match a.fl with
              | some f => startRebuild f a s
              | none => deliverAcc a .poison [] s
          else deliverAcc a st [] s

/-- Row FLASH_RESPONSE. -/
def execFlashResponse (aid : Nat) (ok : Bool) (data : Bytes) (s : State) : Outcome := runR (flashBack aid ok data) s

/-- FLASH_CMD_TIMEOUT (R375): a program or an erase unanswered after 20 ms. -/
def flashLate (aid : Nat) (s : State) : State :=
  match findAcc s aid with
  | some a => if (a.kind = .flProg ∨ a.kind = .flErase) ∧ a.state = .sent ∧ a.execEnd ≤ s.now then suspectPort a.port s else s
  | none => s

/-- Row FLASH_CMD_TIMEOUT. -/
def execFlashCmdTimeout (aid : Nat) (s : State) : Outcome := runR (flashLate aid) s

end Sys2Proof.Machine
end

