-- ==== Sys2Proof/Machine/Gateway.lean ====
section
/-! DEFINITION. Learned addresses that age out, and the gateway's frames (chapter 12). -/

namespace Sys2Proof.Machine

/-- L2_AGE (R380): a learned address older than age_s leaves the table. -/
def l2Age (vid mac : Nat) (s : State) : State :=
  match aget s.eth.macs (vid, mac) with
  | none => s
  | some (_, t) => if s.now ≥ t + (dev s).ageS * 10 ^ 9 then { s with eth := { s.eth with macs := adel s.eth.macs (vid, mac) } } else s

/-- Row L2_AGE. -/
def execL2Age (vid mac : Nat) (s : State) : Outcome := run (l2Age vid mac) s

/-! ## This plane's windows (R382 to R385) -/

/-- The range of a window with its index and tray role. -/
def gwView (s : State) (g : GwWindowRec) : Nat × RangeEntry × Bool :=
  let e := rangeOf s g.localRange
  (g.localRange, e, e.pinnedPlane % 2 == 1)

/-- Local accesses of a piece are still out. -/
def gwBusy (s : State) (w b p : Nat) : Bool := s.mem.reqs.any fun q => decide (q.src = .gwLoc w b p) && !q.released

/-- A piece of a pulled block has come: its 64 lines are written into the local copy. A piece already in hand changes nothing. -/
def gwPulled (w b p : Nat) (data : Bytes) (s : State) : State :=
  match aget s.img.gwWins w with
  | none => s
  | some g =>
    let x := gwBlockAt s w b
    if x.state ≠ .fetching ∨ p ∈ x.pieces ∨ gwBusy s w b p then s
    else
      let v := gwView s g
      let base := v.2.1.base * mib2 + b * 65536 + p * 4096
      (List.range 64).foldl (fun s j => gwAccess w b p (.storeLine (slice data (64 * j) 64)) (base + 64 * j) v s) s

/-- A piece of a pushed block has been acknowledged; the block is CLEAN, and counted as pushed, once every piece has. -/
def gwAcked (w b p : Nat) (s : State) : State :=
  let x := gwBlockAt s w b
  if x.state ≠ .pushing ∨ p ∈ x.pieces then s
  else
    let ps := addOnce x.pieces p
    if ps.length = 16 then bumpG .gwPush 1 (setGwBlock w b (fun _ => { state := .clean }) s)
    else setGwBlock w b (fun x => { x with pieces := ps }) s

/-! ## What a peer asks for (R386) -/

/-- A request made for a peer in a requester ID of this plane, under the checks of R27. -/
def gwRequest (rid : Nat) (g : GwHdr) (k : ReqKind) (addr : Nat) (s : State) : State :=
  let (id, s) := takeId s
  let q := reqRec s rid
  let h : ReqHdr := {
    port := q.port, rid := rid, part := q.part, cls := 0, cmark := false, poison := false, tag := 0, reissue := false, addr := addr, key := g.key }
  runChecks id { s with
    mem := { s.mem with reqs := s.mem.reqs ++ [{ id := id, hdr := h, kind := k, src := .gw, accAt := s.now, phase := .lock }] }
    eth := { s.eth with exports := s.eth.exports ++ [(id, g)] } }

/-- A pull of a piece is one LOAD_STREAM, a push of one 64 STORE_LINEs. All the stores of a push are entered before the first is answered. -/
def gwServe (rid : Nat) (g : GwHdr) (s : State) : State :=
  if g.op = 0 then gwRequest rid g (.loadStream 4096) g.addr s
  else
    let q := reqRec s rid
    let hdr (j : Nat) : ReqHdr := {
      port := q.port, rid := rid, part := q.part, cls := 0, cmark := false, poison := false, tag := 0, reissue := false, addr := g.addr + 64 * j,
      key := g.key }
    let n := s.nextId
    let reqs : List Req := (List.range 64).map fun j => {
      id := n + j, hdr := hdr j, kind := .storeLine (slice g.data (64 * j) 64), src := .gw, accAt := s.now, phase := .lock }
    let s := { s with
      nextId := n + 64
      mem := { s.mem with reqs := s.mem.reqs ++ reqs }
      eth := { s.eth with exports := s.eth.exports ++ reqs.map fun r => (r.id, g) } }
    reqs.foldl (fun s r => runChecks r.id s) s

/-- GATEWAY_FRAME: pieces pulled (2) and acknowledgements (3) belong to a window whose peer sent them, pulls (0) and pushes (1) to an export
record of the peer; a frame of any other peer is dropped and counted. A frame whose status is not OK moves nothing. -/
def gatewayFrame (p : Nat) (g : GwHdr) (s : State) : State :=
  if !(portIs s p 3 3 && portUp s p) then s
  else
    let s := fecSeen p s
    if g.op = 2 ∨ g.op = 3 then
      match aget s.img.gwWins g.window with
      | none => bumpP p .l2Drop 1 s
      | some w =>
        if w.peerMac ≠ g.peerMac ∨ w.peerDomain ≠ g.peerDomain then bumpP p .l2Drop 1 s
        else if !g.ok then s
        else if g.op = 2 then gwPulled g.window g.block g.piece g.data s
        else gwAcked g.window g.block g.piece s
    else match s.img.gwExps.find? fun e => e.2.peerMac = g.peerMac ∧ e.2.peerDomain = g.peerDomain with
      | some e => if g.op ≤ 1 then gwServe e.2.rid g s else s
      | none => bumpP p .l2Drop 1 s

/-- Row GATEWAY_FRAME. -/
def execGatewayFrame (port : Nat) (h : GwHdr) (s : State) : Outcome := runR (gatewayFrame port h) s

/-- GW_PIECE_RESEND (R385): a piece without an acknowledgement for 200 us is sent again; after eight sends the block is FAILED. -/
def gwResend (w b p : Nat) (s : State) : State :=
  match aget s.img.gwWins w with
  | none => s
  | some g =>
    let x := gwBlockAt s w b
    let n := agetD x.sends p 0
    if (x.state ≠ .fetching ∧ x.state ≠ .pushing) ∨ p ∈ x.pieces ∨ n = 0 ∨ gwBusy s w b p ∨ s.now < agetD x.sentAt p 0 + 200000 then s
    else if n ≥ 8 then gwBlockFail w b s
    else if x.state = .fetching then gwSend w b p 0 [] s
    else
      let v := gwView s g
      gwAccess w b p (.loadStream 4096) (v.2.1.base * mib2 + b * 65536 + p * 4096) v s

/-- Row GW_PIECE_RESEND. -/
def execGwPieceResend (window block piece : Nat) (s : State) : Outcome := runR (gwResend window block piece) s

end Sys2Proof.Machine
end

