-- ==== Sys2Proof/Machine/FaultCmds.lean ====
section
/-! DEFINITION. Faults (chapter 14): uncorrectable SRAM errors, residue checks and canaries, units mapped out, the fault event queue, calving asked
for by Paste, and the log taps' settings. -/

namespace Sys2Proof.Machine

/-! ## Units mapped out (R415, R416, R225, R267, Table 11.6) -/

/-- The unit or lane exists and is in service. -/
def unitLive (s : State) (u : UnitId) : Bool :=
  if u.kind = 4 then decide (u.num < 4) && decide (u.num ∉ s.flt.lanesOut) else decide (u.num < unitCount u.kind) && !unitOut s u.kind u.num

/-- A chunk of a group ends POISON, detail 0x0C. Which open chunk the unit was reducing is not stated. -/
def chunkFault (g : Nat) (s : State) : State :=
  let (n, s) := takeFree s
  let l := (groupAt s g).slots.filter fun e => e.2.open_ && !e.2.done
  match l[n % max 1 l.length]? with
  | some e =>
    let j := chunkIdx s (groupAt s g) e.2.seq
    endChunk g j (setChunk g j (fun c => { c with poison := true, detail := if c.poison then c.detail else 0x0C }) s)
  | none => s

/-- A flit on a unit that gave a wrong answer: a chunk of its group, or the flit itself, ends POISON with detail 0x0C; the SEQ_OPEN of an open sequence
runs no work, and a flit whose output has begun has done its arithmetic (`outputBegun`). -/
def faultFlit (s : State) (f : Flit) : State :=
  match groupOfArm s f with
  | some g => chunkFault g s
  | none =>
    if outputBegun f || s.eng.seqs.any fun e => e.2.part == f.part && e.2.openSlot == f.slot then s
    else releaseAnswer f (endOp f.part f.slot .poison 0x0C s)

/-- Flits that hold contexts on a unit. -/
def onUnit (s : State) (u : UnitId) : List Flit := s.eng.flits.filter fun f => f.fin.isNone && f.ctxs.any fun c => c.kind == u.kind && c.unit == u.num

/-- The sequences of a context unit become FAULTED (Table 11.6). -/
def faultSeqs (u : UnitId) (s : State) : State :=
  if u.kind = 3 then { s with eng := { s.eng with seqs := s.eng.seqs.map fun e => if e.2.unit = u.num then (e.1, { e.2 with faulted := true }) else e } }
  else s

/-- The contexts of a group move to units in service, or the group is FAULTED (Table 8.7). -/
def moveGroup (u : UnitId) (s : State) (f : Flit) : State :=
  match groupOfArm s f with
  | none => s
  | some g =>
    let n := sumOf ((f.ctxs.filter fun c => c.kind = u.kind ∧ c.unit = u.num).map (·.n))
    match holdSpread 0 n (freeUnits s f.part 0) with
    | some l => setFlit f.part f.slot (fun f => { f with ctxs := (f.ctxs.filter fun c => ¬(c.kind = u.kind ∧ c.unit = u.num)) ++ l }) s
    | none => groupFault g .poison 0x0C s

/-- A unit or lane is mapped out until the next cold reset; the third time in OTP fuses it off (R415). The last lane of the atomic unit calves
the partitions that hold A on a range this plane serves, and its twin, if it can be told, adopts (R416, R428). -/
def mapOut (u : UnitId) (s : State) : State :=
  if !unitLive s u then s
  else
    let n := agetD s.nv.mapOuts u 0 + 1
    let s := setNv (fun v => { v with mapOuts := aset v.mapOuts u n, fusedOff := if n ≥ 3 then addOnce v.fusedOff u else v.fusedOff }) s
    let s := faultEvent 4 u.kind u.num 0 0 s
    let s := if n = 3 then faultEvent 5 u.kind u.num 0 0 s else s
    if u.kind = 4 then
      let s := { s with flt := { s.flt with lanesOut := addOnce s.flt.lanesOut u.num } }
      if s.flt.lanesOut.length < 4 then s
      else
        let parts := (if s.twn.servesOwn then stripeAtomics s (ownOdd s) else []) ++ if s.twn.servesTwin then stripeAtomics s (!ownOdd s) else []
        let s := calveSome 6 parts s
        if twinUp s then stopServing s else s
    else
      let hit := onUnit s u
      let s := { s with eng := { s.eng with unitsOut := addOnce s.eng.unitsOut u } }
      let s := faultSeqs u (hit.foldl faultFlit s)
      hit.foldl (moveGroup u) s

/-! ## Canaries (R414) -/

/-- A unit's whole canary set is run: how many canaries it has is Paste's, and a set that fails maps the unit out. -/
def canarySet (s : State) (u : UnitId) (failed : Bool) : State :=
  if !unitLive s u then s
  else
    let (n, s) := takeFree s
    let s := bumpG .canaryRun (1 + n) s
    if !failed then s
    else
      let (k, s) := takeFree s
      let s := { s with flt := { s.flt with unitTot := amod s.flt.unitTot u (0, 0) fun t => (t.1, t.2 + 1 + k % (1 + n)) } }
      mapOut u (faultEvent 3 u.kind u.num 0 0 (bumpG .canaryFail (1 + k % (1 + n)) s))

/-- CANARY: one canary in a reserved or an idle cycle. -/
def canary (u : UnitId) (pass : Bool) (s : State) : State :=
  if !unitLive s u then s
  else
    let s := bumpG .canaryRun 1 s
    if pass then s
    else
      let s := { s with flt := { s.flt with unitTot := amod s.flt.unitTot u (0, 0) fun t => (t.1, t.2 + 1) } }
      mapOut u (faultEvent 3 u.kind u.num 0 0 (bumpG .canaryFail 1 s))

/-- Row CANARY. -/
def execCanary (u : UnitId) (pass : Bool) (s : State) : Outcome := runR (canary u pass) s

/-- Every unit and lane. -/
def allUnits : List UnitId :=
  [0, 1, 2, 3].flatMap (fun k => (List.range (unitCount k)).map fun n => ⟨k, n⟩) ++ (List.range 4).map fun n => ⟨4, n⟩

/-- CANARY_SET_RUN: Paste runs the whole set on every unit once the hottest sensor has crossed a multiple of 5 C. -/
def canarySets (failed : List UnitId) (s : State) : State :=
  if !(s.flt.canaryDue && s.mgmt.pasteUp) then s
  else
    let s := { s with flt := { s.flt with canaryDue := false } }
    allUnits.foldl (fun s u => canarySet s u (decide (u ∈ failed))) s

/-- Row CANARY_SET_RUN. -/
def execCanarySetRun (failed : List UnitId) (s : State) : Outcome := runR (canarySets failed) s

/-- ISSUE_RATE_CANARY (R414): the issue rate of unit `u` has stayed above 90 % for 1 s, and Paste runs the set on every unit; issue cycles are not modelled,
so the event tells it. `pass` is the answer of `u`; the others pass, since a failure of theirs has events of its own. -/
def execIssueRateCanary (u : UnitId) (pass : Bool) (s : State) : Outcome :=
  runR (fun s => if s.mgmt.pasteUp then allUnits.foldl (fun s v => canarySet s v (decide (v = u) && !pass)) s else s) s

/-! ## Residue checks (R413) -/

/-- A day in nanoseconds. -/
def dayNs : Nat := 86400000000000

/-- The mismatches of a unit within the last 24 h. -/
def residuesOf (s : State) (u : UnitId) : List Nat := (agetD s.flt.residues u []).filter fun t => decide (s.now < t + dayNs)

/-- A mismatch is queued as an event, with its context as it was, and counted. -/
def residueNote (u : UnitId) (op part : Nat) (s : State) : State :=
  let s := bumpG .residueErr 1 (faultEvent 2 u.kind u.num op part s)
  { s with flt := { s.flt with
    residues := aset s.flt.residues u (residuesOf s u ++ [s.now]), unitTot := amod s.flt.unitTot u (0, 0) fun t => (t.1 + 1, t.2) } }

/-- The unit runs its whole set at once, which fails or not; the third mismatch within 24 h maps it out too (R415). -/
def residueCheck (u : UnitId) (s : State) : State :=
  let b := freeBit s
  let s := canarySet b.2 u b.1
  if (residuesOf s u).length ≥ 3 then mapOut u s else s

/-- RESIDUE_MISMATCH: an engine unit names the flit of `part` and `slot` that runs on it; a lane of the atomic unit names in `slot` the tagged request
whose line it computes, which is then answered POISON and not written. -/
def residue (u : UnitId) (part slot : Nat) (s : State) : State :=
  if !unitLive s u then s
  else if u.kind = 4 then
    match findReq s slot with
    | some r =>
      if r.phase = .auRead ∧ kindTagged r.kind then
        residueCheck u (setReq slot (fun r => { r with finalSt := .poison }) (residueNote u (kindCode r.kind) r.hdr.part s))
      else s
    | none => s
  else match (onUnit s u).find? fun f => f.part = part ∧ f.slot = slot with
    | some f => residueCheck u (faultSeqs u (faultFlit (residueNote u (fOp f.word) part s) f))
    | none => s

/-- Row RESIDUE_MISMATCH. -/
def execResidueMismatch (u : UnitId) (part slot : Nat) (s : State) : Outcome := runR (residue u part slot) s

/-! ## Uncorrectable SRAM errors (R411, Table 14.2) -/

/-- A resident handle: the flits that name it end POISON, detail 0x0B, and so does every later one until SCR_FREE. -/
def handleUnc (part h : Nat) (s : State) : State :=
  match handleAt s part h with
  | none => s
  | some _ =>
    let s := setHandle part h (fun x => { x with poisoned := true }) s
    (s.eng.flits.filter fun f => f.part == part && decide (h ∈ flitNames f) && !outputBegun f).foldl
      (fun s f => releaseAnswer f (endOp f.part f.slot .poison 0x0B s)) s

/-- SRAM_UNCORRECTABLE: the error is counted, its event queued, and its structure handled. -/
def sramUnc (site : SramSite) (s : State) : State :=
  let s := bumpG .sramUnc 1 s
  match site with
  | .staging p uid =>
    let s := faultEvent 0 5 p 0 0 s
    (((port s p).stg.find? fun u => u.uid = uid).map fun u => stagedUnc p u s).getD s
  | .descriptor p uid =>
    let s := faultEvent 0 5 p 0 0 s
    let q := port s p
    match (q.q.flatten ++ q.rspQ ++ q.ctlQ).find? fun d => d.uid = uid with
    | some d => queuedUnc p d s
    | none => s
  | .transientScratch part slot =>
    match flitAt s part slot with
    | some f => unitPoison f (faultEvent 0 (fEngine f.word - 2) 0 (fOp f.word) part s)
    | none => s
  | .residentScratch part h => handleUnc part h (faultEvent 0 0 0 0 part s)
  | .tablePart part => calve 4 [part] (faultEvent 0 7 0 0 part s)
  | .tableDevice =>
    let s := faultEvent 0 7 0 0 0 s
    calve 4 allParts { s with flt := { s.flt with tableLost := true } }
  | .lockEntry (some part) => calve 5 [part] (faultEvent 0 4 0 0 part s)
  | .lockEntry none =>
    let s := faultEvent 0 4 0 0 0 s
    calveSome 5 ((if s.twn.servesOwn then stripeAtomics s (ownOdd s) else []) ++ if s.twn.servesTwin then stripeAtomics s (!ownOdd s) else []) s

/-- Row SRAM_UNCORRECTABLE. -/
def execSramUncorrectable (site : SramSite) (s : State) : Outcome := runR (sramUnc site) s

/-! ## The event queue (R417) -/

/-- A fault event in the words of Table 14.3. -/
def packFault (e : FaultEv) : List Nat :=
  [ e.kind % 16 + e.unitKind % 16 * 2 ^ 4 + e.unit % 4096 * 2 ^ 8 + e.op % 256 * 2 ^ 20 + (e.tempQ % 2 ^ 16 + e.tempMaxQ % 2 ^ 16 * 2 ^ 16) * 2 ^ 32,
    e.vddMv % 2 ^ 16 + b2n e.throttled * 2 ^ 16 + (e.ctxBusy % 256 + e.issuePct % 256 * 2 ^ 8 + e.part % 128 * 2 ^ 16) * 2 ^ 32,
    e.ft % 2 ^ 64, 0 ]

/-- FAULT_EVENT_READ: the oldest event leaves the queue and is latched; its first word is what the read returns. An empty queue latches none. -/
def faultRead (s : State) : State :=
  let e := s.flt.events.head?
  let s := { s with flt := { s.flt with events := s.flt.events.drop 1, latched := e, cleared := [] } }
  tell (.reg 0x648 (BitVec.ofNat 64 ((e.map packFault).elim 0 fun l => l.getD 0 0))) s

/-- Row FAULT_EVENT_READ. -/
def execFaultEventRead (s : State) : Outcome := run (byPaste faultRead) s

/-! ## Calving asked for by Paste, and a marker that never returns -/

/-- CALVE_REQUEST (R418): cause 1; Rind never refuses. -/
def execCalveRequest (parts : List Nat) (s : State) : Outcome := runR (byPaste (calveSome 1 parts)) s

/-- MARKER_TIMEOUT (R424): a reactivation marker unreturned for 1 ms takes its tray port down, cause 9. -/
def markerTimeout (mid : Nat) (s : State) : State :=
  match s.mem.markers.find? fun m => m.mid = mid with
  | some m => if m.why = 1 ∧ s.now ≥ m.sentAt + 1000000 then portGoesDown m.port 9 s else s
  | none => s

/-- Row MARKER_TIMEOUT. -/
def execMarkerTimeout (mid : Nat) (s : State) : Outcome := runR (markerTimeout mid) s

/-- BADKEY_ALERT (R455): the partition has 256 BAD_KEY answers in the window of 1 ms: its bit is set and it is reported, once until the bit clears. -/
def badkeyAlert (part : Nat) (s : State) : State :=
  if agetD s.mem.badKeyWin part 0 < 256 ∨ part ∈ s.sec.badkey ∨ partState s part = 0 then s
  else emit (.badkey part) (setSec (fun c => { c with badkey := addOnce c.badkey part }) s)

/-- Row BADKEY_ALERT. -/
def execBadkeyAlert (part : Nat) (s : State) : Outcome := run (badkeyAlert part) s

/-! ## Log taps (R435, R436, R438) -/

/-- The tap of a 24-byte configuration (Table 14.8). -/
def tapOf (n : Nat) (t : Tap) : Tap :=
  { t with
    cls := bits n 1 3, req := bitAt n 4, stream := bitAt n 5, msg := bitAt n 6, sizeLog2 := bits n 32 6,
    ring := bits n 64 52 / 4096 * 4096, key := BitVec.ofNat 32 (bits n 128 32) }

/-- What setting en checks (R436): the ring's form, one PINNED tier 2 range of this plane that the partition owns with W and the key, and no overlap. -/
def tapOk (s : State) (part : Nat) (t : Tap) : Bool :=
  decide (20 ≤ t.sizeLog2 ∧ t.sizeLog2 ≤ 36) &&
  (match findRange s t.ring (2 ^ t.sizeLog2) with
   | some (_, e) => e.owner == part && e.pinned && e.pinnedPlane == ownPlane s && e.tier == 0 && (rightsFor e part).w && e.key == t.key && t.key != 0
   | none => false) &&
  s.taps.all fun x => x.1 == part || !x.2.en || !overlaps t.ring (2 ^ t.sizeLog2) x.2.ring (2 ^ x.2.sizeLog2)

/-- A configuration is written: while the tap is enabled only en may change; enabling begins a new ring. -/
def tapWriteCfg (part n : Nat) (s : State) : State :=
  let old := agetD s.taps part {}
  let t := if old.en then old else { tapOf n old with error := false }
  if !bitAt n 0 then setTap part (fun _ => { t with en := false }) s
  else if old.en then s
  else if !tapOk s part t then setTap part (fun _ => { t with error := true }) s
  else setTap part (fun _ => { t with en := true, nextSeq := 0, off := 4096, wraps := 0, dropped := 0, gap := 0, since := 0, pageAt := s.now }) s

/-- TAP_SET (R435): the body is a partition and 24 bytes; a partition above 127 draws BAD_BODY. -/
def tapSet (sess part : Nat) (cfg : BitVec 192) (s : State) : State :=
  if part > 127 then reply sess 0x60 .badBody [] s
  else if bgHolds s 3 part then reply sess 0x60 .busy [] s
  else reply sess 0x60 .ok [] (tapWriteCfg part cfg.toNat s)

/-- Row TAP_SET. -/
def execTapSet (sess part : Nat) (cfg : BitVec 192) (s : State) : Outcome := runR (prosis sess 0x60 (tapSet sess part cfg)) s

/-- TAP_CONTROL_PAGE (R438): after 64 records, and at least every 10 us. -/
def tapControlPage (part : Nat) (s : State) : State :=
  let t := agetD s.taps part {}
  if t.en ∧ (t.since ≥ 64 ∨ s.now ≥ t.pageAt + 10000) then tapPage part s else s

/-- Row TAP_CONTROL_PAGE. -/
def execTapControlPage (part : Nat) (s : State) : Outcome := runR (tapControlPage part) s

end Sys2Proof.Machine
end

