-- ==== Sys2Proof/Machine/Rind.lean ====
section
/-! DEFINITION. Rind's commands (Table 15.5): keys, calving, seal material, owners; and the drain of a key rotation. -/

namespace Sys2Proof.Machine

/-! ## Sessions that close -/

/-- Several Prosis sessions close. -/
def closeAll (ns : List Nat) (s : State) : State := ns.foldl (fun s n => closeSess n s) s

/-- A Rind session ends; the Prosis session that carried it stays. -/
def closeRind (n : Nat) (s : State) : State := setSec (fun c => { c with sessions := c.sessions.filter fun x => x.sess ≠ n }) s

/-! ## What a Rind command passes before it executes -/

/-- A Rind session. -/
def rindAt (s : State) (n : Nat) : Option RindSess := s.sec.sessions.find? fun x => x.sess == n

/-- A refusal: an SPDM ERROR response with its vendor-defined error data, 0 where the spec gives none. -/
def rindErr (sess code err : Nat) (s : State) : State := tell (.rindErr sess code err) s

/-- A Rind answer. -/
def rindOk (sess code : Nat) (body : Bytes) (s : State) : State := tell (.rind sess code true body) s

/-- A Rind command of a session: one that is not established carries none; a claim session carries NONCE and CLAIM only, another one no CLAIM (R446,
R447, R467). -/
def rind (sess code : Nat) (f : RindSess → State → State) (s : State) : State :=
  match rindAt s sess with
  | none => s
  | some x =>
    if !x.ready then s
    else if x.claim && decide (code ≠ 0x04 ∧ code ≠ 0x20) || !x.claim && decide (code = 0x20) then rindErr sess code 0 s
    else f x s

/-- An owner-signed command (R449): the signature, by an installed key, covers the command bytes, the part and the session's nonce. -/
def signedOk (s : State) (x : RindSess) (cmd : Bytes) (g : OwnerSig) : Bool :=
  match x.nonce, aget s.nv.ownerKeys g.keyId with
  | some n, some key => Config.ecdsaOk key (cmd ++ Config.deviceIdHash ++ natLe 32 n.toNat) g.sig
  | _, _ => false

/-- An owner-signed command, executed when its signature verifies. -/
def ownerSigned (sess code : Nat) (cmd : Bytes) (g : OwnerSig) (f : State → State) (s : State) : State :=
  rind sess code (fun x s => if signedOk s x (natLe 1 code ++ cmd) g then f s else rindErr sess code 0 s) s

/-- The last steps of the OTP generation are kept (R451): GEN_EXHAUSTED at `top` and above. -/
def genLeft (s : State) (top : Nat) : Bool := decide (s.nv.ownGen < top)

/-! ## Region keys (R25, R31, R33, R35) -/

/-- KEY_ROTATE: a new key for a valid range index; refused while the twin is present, unreachable and not adopted. It is reported once every request
checked under the old view has been answered. -/
def keyRotate (sess range : Nat) (s : State) : State :=
  rind sess 0x01 (fun _ s =>
    let e := rangeOf s range
    if (dev s).twinPresent && !twinUp s && !s.twn.servesTwin then rindErr sess 0x01 0x0002 s
    else if !e.valid then rindErr sess 0x01 0 s
    else
      let (k, s) := takeKey s
      let ids := checkedIds s
      let s := tableChanged { s with img := { s.img with ranges := aset s.img.ranges range { e with key := k } } }
      let s := setSec (fun c => { c with
        revoked := c.revoked.filter (· ≠ range), rots := c.rots ++ [{ range := range, sess := sess, key := k, drain := ids }] }) s
      sendTwin (.keys [(range, k)]) s) s

/-- The requests of a drain have all been answered (R33). -/
def drained (s : State) (ids : List Nat) : Bool := ids.all fun id => !(findReq s id).any fun r => !r.released

/-- The twin reports a key it has written (R35). For a rotation of this plane it stands for the twin's acknowledgement, its drain included; another key is
one the twin has drawn: it is written here, and acknowledged once this plane's requests are answered. -/
def twinKey (range : Nat) (key : Word32) (s : State) : State :=
  let e := rangeOf s range
  if !twinUp s then s
  else if s.sec.rots.any fun r => r.range == range && r.key == key then
    setSec (fun c => { c with rots := c.rots.map fun r => if r.range = range ∧ r.key = key then { r with twinOk := true } else r }) s
  else if !e.valid ∨ key = 0 ∨ e.key = key then s
  else
    let ids := checkedIds s
    let s := tableChanged { s with img := { s.img with ranges := aset s.img.ranges range { e with key := key } } }
    setSec (fun c => { c with
      revoked := c.revoked.filter (· ≠ range), rots := c.rots ++ [{ range := range, sess := 0, key := key, drain := ids, peer := true }] }) s

/-- Row KEY_ROTATE, from a Rind session or from the twin (DESIGN CHOICE, assumption 60: what the twin reports of a rotation comes by this row). -/
def execKeyRotate (by_ : RotateBy) (range : Nat) (s : State) : Outcome :=
  runR (match by_ with
    | .session n => keyRotate n range
    | .twin k => twinKey range k) s

/-- A rotation is complete: what was checked under the old key is answered here, and on the twin unless this plane has none or has adopted it (R33, R35). -/
def rotDone (s : State) (r : Rotation) : Bool :=
  drained s r.drain && (r.peer || r.twinOk || !(dev s).twinPresent || s.twn.servesTwin)

/-- A rotation that is complete is reported to its sender and to every Rind session of a fabric manager; one the twin made is acknowledged to it. -/
def rotTell (s : State) (r : Rotation) : State :=
  keyTell false r.range r.key (if r.peer then sendTwin (.keys [(r.range, r.key)]) s else rindOk r.sess 0x01 (natLe 4 r.key.toNat) s)

/-- ACCESS_DRAIN_DONE (R33): the rotations that are complete are reported. -/
def accessDrainDone (s : State) : State :=
  (s.sec.rots.filter (rotDone s)).foldl rotTell (setSec (fun c => { c with rots := c.rots.filter fun r => !rotDone s r }) s)

/-- Row ACCESS_DRAIN_DONE. -/
def execAccessDrainDone (s : State) : Outcome := runR accessDrainDone s

/-- KEY_REPORT: the aperture key of a partition and the region keys of the valid ranges it owns, by index. -/
def keyReport (sess part : Nat) (s : State) : State :=
  rind sess 0x02 (fun _ s =>
    let mine := s.img.ranges.filter fun e => e.2.valid && e.2.owner == part
    rindOk sess 0x02 (natLe 4 (agetD s.eng.apKeys part 0).toNat ++ mine.flatMap fun e => natLe 2 e.1 ++ natLe 4 e.2.key.toNat) s) s

/-- Row KEY_REPORT. -/
def execKeyReport (sess part : Nat) (s : State) : Outcome := run (keyReport sess part) s

/-- CALVE (R418, R419): cause 0, never refused. -/
def calveCmd (sess : Nat) (parts : List Nat) (s : State) : State :=
  rind sess 0x03 (fun _ s => rindOk sess 0x03 [] (calveSome 0 parts s)) s

/-- Row CALVE. -/
def execCalve (sess : Nat) (parts : List Nat) (s : State) : Outcome := runR (calveCmd sess parts) s

/-- NONCE (R449): 32 bytes for the session's signed commands. -/
def nonceCmd (sess : Nat) (s : State) : State :=
  rind sess 0x04 (fun _ s =>
    let (n, s) := takeDraw s
    let v := BitVec.ofNat 256 n
    rindOk sess 0x04 (natLe 32 v.toNat)
      (setSec (fun c => { c with sessions := c.sessions.map fun x => if x.sess = sess then { x with nonce := some v } else x }) s)) s

/-- Row NONCE. -/
def execNonce (sess : Nat) (s : State) : Outcome := run (nonceCmd sess) s

/-! ## Seal material (R459, R460, R465) -/

/-- SEAL_SECRET_SET: refused while a partition owns a sealed range, and once the generation is at 4,094; the generation advances. -/
def sealSecretSet (sess : Nat) (secret : BitVec 256) (g : OwnerSig) (s : State) : State :=
  ownerSigned sess 0x05 (natLe 32 secret.toNat) g (fun s =>
    if !genLeft s 4094 then rindErr sess 0x05 0x0001 s
    else if s.img.ranges.any fun e => e.2.valid && e.2.sealed then rindErr sess 0x05 0 s
    else rindOk sess 0x05 [] (setNv (fun v => { v with sealSecret := some secret, ownGen := v.ownGen + 1, storeGen := v.ownGen + 1 }) s)) s

/-- Row SEAL_SECRET_SET. -/
def execSealSecretSet (sess : Nat) (secret : BitVec 256) (sg : OwnerSig) (s : State) : Outcome := run (sealSecretSet sess secret sg) s

/-- The nonces of a pair as bytes: a partition and 16 bytes each. -/
def packNonces (l : List (Nat × BitVec 128)) : Bytes := l.flatMap fun e => natLe 1 e.1 ++ natLe 16 e.2.toNat

/-- Nonces of such bytes. -/
def nonceList : Nat → Bytes → List (Nat × BitVec 128)
  | 0, _ => []
  | n + 1, b => if b.length < 17 then [] else (fieldAt b 0 1 % 128, BitVec.ofNat 128 (fieldAt b 1 16)) :: nonceList n (b.drop 17)

/-- Pair number of this plane. -/
def pairNo (s : State) : Nat := ownPlane s / 2

/-- SEAL_EXPORT: the nonces wrapped under the seal secret; there is nothing to wrap them with before one is installed. -/
def sealExport (sess : Nat) (s : State) : State :=
  rind sess 0x06 (fun _ s => match s.nv.sealSecret with
    | none => rindErr sess 0x06 0 s
    | some k => rindOk sess 0x06 (Config.wrap k.toNat (dev s).domainId (pairNo s) (packNonces s.nv.nonces)) s) s

/-- Row SEAL_EXPORT. -/
def execSealExport (sess : Nat) (s : State) : Outcome := run (sealExport sess) s

/-- SEAL_IMPORT: a blob of this pair is installed on a plane that holds no nonces for it. -/
def sealImport (sess : Nat) (blob : Bytes) (g : OwnerSig) (s : State) : State :=
  ownerSigned sess 0x07 blob g (fun s =>
    match s.nv.sealSecret.bind fun k => Config.unwrap k.toNat (dev s).domainId (pairNo s) blob with
    | some b => if s.nv.nonces = [] then rindOk sess 0x07 [] (setNv (fun v => { v with nonces := nonceList b.length b }) s) else rindErr sess 0x07 0 s
    | none => rindErr sess 0x07 0 s) s

/-- Row SEAL_IMPORT. -/
def execSealImport (sess : Nat) (blob : Bytes) (sg : OwnerSig) (s : State) : Outcome := run (sealImport sess blob sg) s

/-! ## Owners (R446 to R451) -/

/-- OWNER_KEY_ADD: at most four keys, each under its own key_id. -/
def ownerKeyAdd (sess keyId : Nat) (key : Bytes) (g : OwnerSig) (s : State) : State :=
  ownerSigned sess 0x10 (natLe 4 keyId ++ key) g (fun s =>
    if s.nv.ownerKeys.length ≥ 4 ∨ (aget s.nv.ownerKeys keyId).isSome then rindErr sess 0x10 0 s
    else rindOk sess 0x10 [] (setNv (fun v => { v with ownerKeys := v.ownerKeys ++ [(keyId, key)] }) s)) s

/-- Row OWNER_KEY_ADD. -/
def execOwnerKeyAdd (sess keyId : Nat) (key : Bytes) (sg : OwnerSig) (s : State) : Outcome := run (ownerKeyAdd sess keyId key sg) s

/-- OWNER_KEY_REVOKE: signed by another installed key; the last key stays; the generation advances, and its last steps are kept for RELEASE. -/
def ownerKeyRevoke (sess keyId : Nat) (g : OwnerSig) (s : State) : State :=
  ownerSigned sess 0x11 (natLe 4 keyId) g (fun s =>
    if !genLeft s 4094 then rindErr sess 0x11 0x0001 s
    else if g.keyId = keyId ∨ (aget s.nv.ownerKeys keyId).isNone ∨ s.nv.ownerKeys.length ≤ 1 then rindErr sess 0x11 0 s
    else rindOk sess 0x11 [] (setNv (fun v => { v with ownerKeys := adel v.ownerKeys keyId, ownGen := v.ownGen + 1, storeGen := v.ownGen + 1 }) s)) s

/-- Row OWNER_KEY_REVOKE. -/
def execOwnerKeyRevoke (sess keyId : Nat) (sg : OwnerSig) (s : State) : Outcome := run (ownerKeyRevoke sess keyId sg) s

/-- MGMT_CA_SET: the management CA is replaced and every open TLS session is closed. -/
def mgmtCaSet (sess : Nat) (ca : Bytes) (g : OwnerSig) (s : State) : State :=
  ownerSigned sess 0x12 ca g (fun s =>
    let s := rindOk sess 0x12 [] (setNv (fun v => { v with mgmtCa := ca }) s)
    closeAll (s.mgmt.sessions.map (·.sess)) s) s

/-- Row MGMT_CA_SET. -/
def execMgmtCaSet (sess : Nat) (ca : Bytes) (sg : OwnerSig) (s : State) : Outcome := run (mgmtCaSet sess ca sg) s

/-- CRL_SET: the revocation list, of at most 256 entries (R466), is replaced; sessions of revoked clients are closed. -/
def crlSet (sess : Nat) (serials : List Nat) (g : OwnerSig) (s : State) : State :=
  ownerSigned sess 0x13 (serials.flatMap (natLe 20)) g (fun s =>
    if serials.length > 256 then rindErr sess 0x13 0 s
    else
      let s := rindOk sess 0x13 [] (setNv (fun v => { v with crl := serials }) s)
      let bad := (s.sec.sessions.filter fun x => (x.cert :: x.issuers).any (· ∈ serials) && !x.claim).map (·.sess)
      let s := closeAll ((s.mgmt.sessions.filter fun x => (x.cert :: x.issuers).any (· ∈ serials) && !x.claim).map (·.sess)) s
      bad.foldl (fun s n => closeRind n s) s) s

/-- Row CRL_SET. -/
def execCrlSet (sess : Nat) (serials : List Nat) (sg : OwnerSig) (s : State) : Outcome := run (crlSet sess serials sg) s

/-- RELEASE (R450): every partition is calved, then owner keys, management CA, revocation list, seal secret and nonces are erased and the generation
advances; the serial floor is kept. -/
def releaseCmd (sess : Nat) (g : OwnerSig) (s : State) : State :=
  ownerSigned sess 0x14 [] g (fun s =>
    if !genLeft s 4095 then rindErr sess 0x14 0x0001 s
    else
      let s := calve 10 allParts s
      rindOk sess 0x14 [] (setNv (fun v => { v with
        owned := false, ownerKeys := [], mgmtCa := [], crl := [], sealSecret := none, nonces := [], ownGen := v.ownGen + 1, storeGen := v.ownGen + 1 }) s)) s

/-- Row RELEASE. -/
def execRelease (sess : Nat) (sg : OwnerSig) (s : State) : Outcome := runR (releaseCmd sess sg) s

/-- SEC_OWN_STATE.claim_open: UNOWNED, and the strap was high at the last cold reset (R446). -/
def claimOpen (s : State) : Bool := s.sec.strap && !s.nv.owned

/-- CLAIM: the first owner key and the management CA are installed, and every claim session closes. -/
def claimCmd (sess keyId : Nat) (key ca : Bytes) (s : State) : State :=
  rind sess 0x20 (fun _ s =>
    if !claimOpen s then rindErr sess 0x20 0 s
    else
      let s := setNv (fun v => { v with owned := true, ownerKeys := [(keyId, key)], mgmtCa := ca }) s
      let s := rindOk sess 0x20 [] s
      let rs := (s.sec.sessions.filter (·.claim)).map (·.sess)
      let s := closeAll ((s.mgmt.sessions.filter (·.claim)).map (·.sess)) s
      rs.foldl (fun s n => closeRind n s) s) s

/-- Row CLAIM. -/
def execClaim (sess keyId : Nat) (key ca : Bytes) (s : State) : Outcome := run (claimCmd sess keyId key ca) s

end Sys2Proof.Machine
end

