-- ==== Sys2Proof/Machine/Spdm.lean ====
section
/-! DEFINITION. Rind as an SPDM responder (R468 to R472): its sessions, certificates and measurements. Response codes are those of DMTF DSP0274
(assumption: the spec names the messages and gives no codes). -/

namespace Sys2Proof.Machine

/-- An SPDM request reaches Rind by MCTP, or in a Prosis session, which Paste relays while it runs (R468, R472). -/
def spdm (sess code : Nat) (body : Bytes) (s : State) : State := tell (.spdm sess code body) s

/-- An SPDM ERROR response. -/
def spdmErr (sess : Nat) (s : State) : State := spdm sess 0x7F [] s

/-- GET_VERSION: SPDM 1.3. -/
def execGetVersion (sess : Nat) (s : State) : Outcome := run (spdm sess 0x04 [0x00, 0x13]) s

/-- GET_CAPABILITIES: the requests R469 lists; their flags are laid out by DSP0274. -/
def execGetCapabilities (sess : Nat) (s : State) : Outcome := run (spdm sess 0x61 []) s

/-- NEGOTIATE_ALGORITHMS: the one algorithm of each kind that R469 offers. -/
def execNegotiateAlgorithms (sess : Nat) (s : State) : Outcome := run (spdm sess 0x63 []) s

/-- GET_DIGESTS: SHA-384 of the chain in slot 0. -/
def execGetDigests (sess : Nat) (s : State) : Outcome := run (fun s => spdm sess 0x01 (Config.sha384 (chainOf s)) s) s

/-- GET_CERTIFICATE: the chain in slot 0. -/
def execGetCertificate (sess : Nat) (s : State) : Outcome := run (fun s => spdm sess 0x02 (chainOf s) s) s

/-- CHALLENGE: the digest of the chain, signed over the requester's nonce with the attestation key. -/
def challenge (sess : Nat) (nonce : BitVec 256) (s : State) : State :=
  let d := Config.sha384 (chainOf s)
  spdm sess 0x03 (d ++ Config.attest (cdiOf s) (natLe 32 nonce.toNat ++ d)) s

/-- Row CHALLENGE. -/
def execChallenge (sess : Nat) (nonce : BitVec 256) (s : State) : Outcome := run (challenge sess nonce) s

/-! ## Measurements (R470 to R472) -/

/-- Bits of the status block's first four bytes (Table 15.7). -/
def statusBits (s : State) : Nat :=
  b2n (!s.mgmt.pasteUp) + 4 * b2n s.nv.rindStaged + 8 * b2n s.nv.pasteStaged + 16 * b2n (s.sec.segs ≠ []) + 32 * b2n s.sec.tblPending +
    64 * b2n s.ftm.stagedValid + 128 * b2n s.nv.owned

/-- The status block (Table 15.7). -/
def statusBlock (s : State) : Bytes := natLe 4 (statusBits s) ++ natLe 4 s.sec.tblEpoch.toNat ++ natLe 8 (ft s)

/-- The value of a measurement index (Table 15.6); none for another index. -/
def measurement (s : State) : Nat → Option Bytes
  | 1 => some (Config.sha384 Config.romImage)
  | 2 => some (Config.sha384 (rindImage s))
  | 3 => some (if s.mgmt.pasteUp then Config.sha384 (pasteImage s) else zeros 48)
  | 4 => some (slice s.sec.imgDigest 0 48)
  | 5 => some s.sec.tblDigest
  | 6 => some (if s.ftm.active.src = [] then zeros 48 else Config.sha384 s.ftm.active.src)
  | 7 => some (statusBlock s)
  | _ => none

/-- A block: its index and its value. -/
def measBlock (s : State) (i : Nat) : Bytes := match measurement s i with
  | some v => natLe 1 i ++ v
  | none => []

/-- GET_MEASUREMENTS: one index, every block for 0xFF, or their number for 0, signed over the requester's nonce. -/
def getMeasurements (sess index : Nat) (nonce : BitVec 256) (s : State) : State :=
  let body : Option Bytes :=
    if index = 0 then some [7] else if index = 0xFF then some ((List.range 8).flatMap (measBlock s))
    else if (measurement s index).isSome then some (measBlock s index) else none
  match body with
  | some b => spdm sess 0x60 (b ++ Config.attest (cdiOf s) (natLe 32 nonce.toNat ++ b)) s
  | none => spdmErr sess s

/-- Row GET_MEASUREMENTS. -/
def execGetMeasurements (sess index : Nat) (nonce : BitVec 256) (s : State) : Outcome := run (getMeasurements sess index nonce) s

/-! ## Sessions (R447, R467) -/

/-- A claim session is open, over Prosis or over MCTP. -/
def claimHeld (s : State) (but : Nat) : Bool :=
  (s.mgmt.sessions.any fun x => x.claim && x.sess != but) || s.sec.sessions.any fun x => x.claim && x.sess != but

/-- KEY_EXCHANGE: at most four Rind sessions; one carried by a Prosis session is of its kind; a claim session is admitted while the claim window is open
and no other one is. -/
def keyExchange (sess : Nat) (claim : Bool) (s : State) : State :=
  let kind := match sessAt s sess with
    | some x => x.claim == claim
    | none => true
  if s.sec.sessions.length ≥ 4 ∨ (rindAt s sess).isSome ∨ !kind then spdmErr sess s
  else if claim && (!claimOpen s || claimHeld s sess) then spdmErr sess s
  else spdm sess 0x64 [] (setSec (fun c => { c with sessions := c.sessions ++ [{ sess := sess, claim := claim }] }) s)

/-- Row KEY_EXCHANGE. -/
def execKeyExchange (sess : Nat) (claimSession : Bool) (s : State) : Outcome := run (keyExchange sess claimSession) s

/-- FINISH: the session is established; but for a claim session the requester's chain leads to the management CA and no certificate of
it is revoked. -/
def finishSess (sess : Nat) (chain : Bytes) (cert : Nat) (s : State) : State :=
  match rindAt s sess with
  | none => spdmErr sess s
  | some x =>
    if x.ready then spdmErr sess s
    else if x.claim || (s.nv.owned && Config.chainOk s.nv.mgmtCa chain && !revoked s chain cert) then
      spdm sess 0x65 [] (setSec (fun c => { c with
        sessions := c.sessions.map fun y => if y.sess = sess then { y with ready := true, cert := cert, issuers := Config.chainSerials chain } else y }) s)
    else spdmErr sess (closeRind sess s)

/-- Row FINISH. -/
def execFinish (sess : Nat) (clientCa : Bytes) (certSerial : Nat) (s : State) : Outcome := run (finishSess sess clientCa certSerial) s

/-- HEARTBEAT of an established session. -/
def heartbeat (sess : Nat) (s : State) : State := if (rindAt s sess).any (·.ready) then spdm sess 0x68 [] s else spdmErr sess s

/-- Row HEARTBEAT. -/
def execHeartbeat (sess : Nat) (s : State) : Outcome := run (heartbeat sess) s

/-- END_SESSION: the session ends after its answer. -/
def endSession (sess : Nat) (s : State) : State := if (rindAt s sess).any (·.ready) then closeRind sess (spdm sess 0x6C [] s) else spdmErr sess s

/-- Row END_SESSION. -/
def execEndSession (sess : Nat) (s : State) : Outcome := run (endSession sess) s

end Sys2Proof.Machine
end

