-- ==== Sys2Proof/Machine/Flags.lean ====
section
/-! DEFINITION. The registers: every CSR of Table 13.11 packed from the state (R7, R8, R409), the counters that a read clears, and writes. -/

namespace Sys2Proof.Machine

/-! ## Counters (access RC) -/

/-- The device-wide RC counter at an offset. -/
def gctrAt : Nat → Option GCtr
  | 0x180 => some .deadlineDisp | 0x188 => some .deadlineExec | 0x300 => some .ftlRebuild | 0x318 => some .ftlDivert
  | 0x400 => some .opfAccept | 0x408 => some .opfBusy | 0x410 => some .opfRefuse | 0x440 => some .opfCmplLost
  | 0x510 => some .gwPull | 0x518 => some .gwPush | 0x520 => some .gwFail | 0x600 => some .calveCnt
  | 0x620 => some .residueErr | 0x628 => some .canaryRun | 0x630 => some .canaryFail | 0x638 => some .sramCorr | 0x640 => some .sramUnc
  | 0x718 => some .telemSkip | 0x720 => some .eventLost | 0x810 => some .throttleCnt | 0x818 => some .throttleNs
  | 0x10130 => some .stackMacErr | 0x10138 => some .sealMacErr | 0x20010 => some .hbMiss
  | 0x30018 => some .auIdemReplay | 0x30020 => some .auIdemStale | 0x30028 => some .auQuotaFull | 0x30048 => some .auReplayed
  | 0x40038 => some .vatEccCorr | 0x40040 => some .vatEccUnc | 0x40058 => some .vatWheyAged | 0x40060 => some .vatDemoteSch
  | 0x40068 => some .vatMcCopies | 0x40070 => some .vatMcDrop
  | 0x50028 => some .polYel | 0x50030 => some .polRed | 0x50038 => some .limitHold
  | 0x60048 => some .demoteWin | 0x60050 => some .demoteSusp | 0x60058 => some .demoteSwap | 0x60068 => some .ftmSteps
  | 0x70020 => some .firnHit | 0x70028 => some .firnMiss | 0x70030 => some .firnNoalloc | 0x70040 => some .firnSweep
  | 0x80018 => some .rduChunkOk | 0x80020 => some .rduChunkPoison | 0x80028 => some .rduContrib | 0x80030 => some .rduDiscard | 0x80038 => some .rduTimeout
  | 0x90010 => some .gtuRows | 0x90018 => some .gtuLookups | 0x90020 => some .gtuSkipped | 0x90028 => some .gtuOob
  | 0x90038 => some .gtuLockWait | 0x90040 => some .gtuAccOvf
  | 0xA0010 => some .fluItems | 0xA0018 => some .fluPredPass | 0xA0020 => some .fluTopkIns | 0xA0028 => some .fluFilterHit | 0xA0030 => some .fluCompacts
  | 0xB0018 => some .ctuRows | 0xB0020 => some .ctuPages | 0xB0028 => some .ctuAppended | 0xB0030 => some .ctuNanRec
  | _ => none

/-- The RC counter of a port at an offset in its block. -/
def pctrAt : Nat → Option PCtr
  | 0x200 => some .chkNoacc | 0x208 => some .chkBadkey | 0x210 => some .chkUnsup | 0x218 => some .chkDown | 0x230 => some .fenceInc
  | 0x238 => some .cxlWerr | 0x308 => some .spillCnt | 0x320 => some .marked | 0x328 => some .dropAdmit | 0x330 => some .dropAge
  | 0x338 => some .flushLost | 0x380 => some .lineHold | 0x508 => some .schDemote | 0x618 => some .fecCorr | 0x620 => some .fecUnc
  | 0x628 => some .crcErr | 0x630 => some .replay | 0x638 => some .narrow | 0x650 => some .l2Drop
  | _ => none

/-! ## Words of the state -/

/-- Members of a list below `n` less a base, as one bit each of 64. -/
def bits64 (l : List Nat) (base : Nat) : Nat := bitSet ((l.filter fun i => base ≤ i ∧ i < base + 64).map (· - base)).eraseDups

/-- Code of a control state (Table 16.10). -/
def ctlCode : CtlState → Nat
  | .boot => 0 | .held => 1 | .run => 2 | .draining => 3 | .drained => 4 | .parked => 5

/-- Code of a twin state (Table 14.13). -/
def twnCode : TwnState → Nat
  | .none => 0 | .paired => 1 | .alone => 2 | .adopting => 3 | .adopted => 4 | .resyncSrc => 5 | .resyncDst => 6 | .lost => 7

/-- Code of a lock state (Table 6.9). -/
def ftCode : FtState → Nat
  | .free => 0 | .acquiring => 1 | .locked => 2 | .holdover => 3

/-- Code of a link state (Table 12.13). -/
def linkCode : LinkState → Nat
  | .disabled => 0 | .training => 1 | .up => 2 | .down => 3 | .failed => 4

/-- Code of a group state (Table 8.17). -/
def grpCode : GrpState → Nat
  | .idle => 0 | .armed => 1 | .draining => 2 | .faulted => 3

/-- An emergency of R512 is in effect. -/
def emergency (s : State) : Bool := s.pwr.supplyThr || s.pwr.thermalThr || s.pwr.thermEmerg

/-- FAULT_N: low during an emergency, and while the package stays in reset because no Rind image verifies (R527). -/
def faultN (s : State) : Bool := !(emergency s || s.pwr.noRind)

/-- THERMTRIP_N: low from a hardware trip until power is removed (R509, R527). -/
def thermtripN (s : State) : Bool := !s.pwr.thermtrip

/-- A first-event log: valid, then its fields. -/
def logWord (o : Option Nat) : Nat := match o with
  | some v => 1 + v
  | none => 0

/-- GLB_DOMAIN (Table 1.9). -/
def domainWord (s : State) : Nat :=
  ownPlane s % 8 + (planes s - 1) % 8 * 2 ^ 4 + b2n (dev s).twinPresent * 2 ^ 8 + b2n s.twn.servesTwin * 2 ^ 9 + b2n s.twn.adoptPending * 2 ^ 10 +
    (dev s).domainId % 2 ^ 16 * 2 ^ 16

/-- GLB_OPF_ALLOT and GLB_OPF_USE (Table 7.14) from contexts and exclusive flags. -/
def ctxWord (n : Nat → Nat) (x : Nat → Bool) : Nat :=
  n 0 % 2 ^ 11 + b2n (x 0) * 2 ^ 11 + n 1 % 2 ^ 10 * 2 ^ 16 + b2n (x 1) * 2 ^ 26 + n 2 % 2 ^ 10 * 2 ^ 32 + b2n (x 2) * 2 ^ 42 + n 3 % 2 ^ 9 * 2 ^ 48 +
    b2n (x 3) * 2 ^ 57

/-- GLB_FW_SLOTS (Table 16.11). -/
def fwWord (s : State) : Nat :=
  let v := s.nv
  let rs := if v.rindSlotB then v.rindA else v.rindB
  let ps := if v.pasteSlotB then v.pasteA else v.pasteB
  b2n v.rindSlotB + 2 * b2n v.rindTrial + 4 * b2n v.rindStaged + 8 * b2n v.pasteSlotB + 16 * b2n v.pasteTrial + 32 * b2n v.pasteStaged +
    (if v.rindStaged then rs.svn % 256 else 0) * 2 ^ 8 + (if v.pasteStaged then ps.svn % 256 else 0) * 2 ^ 16

/-- GLB_MGMT_STATE (Table 16.10). -/
def mgmtWord (s : State) : Nat :=
  ctlCode s.mgmt.state + 8 * b2n s.mgmt.handshake + 16 * b2n s.mgmt.controller.isSome + s.mgmt.fmLevel % 2 ^ 16 * 2 ^ 16 +
    s.mgmt.devLevel % 2 ^ 16 * 2 ^ 32 + s.mgmt.minMinor % 2 ^ 8 * 2 ^ 48

/-- GLB_CORES (Table 16.12). -/
def coresWord (s : State) : Nat :=
  bitSet ((List.range 6).filter fun c => c ∉ s.mgmt.coresOut) + min 255 s.mgmt.restarts * 2 ^ 8 + s.mgmt.lastCause % 8 * 2 ^ 16

/-- GLB_PWR_STATE (Table 17.9). -/
def pwrWord (s : State) : Nat :=
  s.pwr.pstate % 8 + 8 * b2n s.pwr.supplyThr + 16 * b2n s.pwr.thermalThr + 32 * b2n (emergency s) +
    (if s.pwr.temps = [] then 0 else hottest s) % 2 ^ 16 * 2 ^ 16

/-- GLB_LOAD_DEV (Table 2.12). -/
def loadWord (s : State) : Nat := deviceLevel s + s.mem.loadVatPct % 256 * 2 ^ 8 + s.mem.loadWheyPct % 256 * 2 ^ 16 + b2n s.mem.loadThrottle * 2 ^ 24

/-- FTM_STATUS (Table 6.9). -/
def ftmStatus (s : State) : Nat :=
  ftCode s.ftm.state + 8 * b2n s.ftm.schedActive + 16 * b2n s.ftm.qualified +
    (if s.ftm.state = .locked then min 255 (ftFrame s - s.ftm.lockedFrom) else 0) * 2 ^ 8 +
    (if s.ftm.state = .holdover then min 65535 (holdErr s / 10 ^ 9) else 0) * 2 ^ 16

/-- A log tap in the words of Table 14.8. -/
def tapWord (t : Tap) : Nat → Nat
  | 0 => b2n t.en + t.cls % 8 * 2 + 16 * b2n t.req + 32 * b2n t.stream + 64 * b2n t.msg + 128 * b2n t.error + t.sizeLog2 % 64 * 2 ^ 32
  | 1 => t.ring % 2 ^ 52
  | _ => t.key.toNat

/-- RDU_GRP_STATE (Table 8.17). -/
def grpWord (x : Group) : Nat :=
  if x.state = .idle then 0 else grpCode x.state + x.part % 128 * 2 ^ 8 + (x.window - 1) % 256 * 2 ^ 16 + groupOpen x % 512 * 2 ^ 32

/-- FLU_COLL_STATE (Table 10.14). -/
def collWord (s : State) (i : Nat) : Nat :=
  let own := (agetD s.img.colls i {}).part % 128 * 2 ^ 4
  match aget s.eng.colls i with
  | none => own
  | some c => c.state % 4 + 4 * b2n c.compacting.isSome + 8 * b2n c.lostSide + own + c.gen % 2 ^ 16 * 2 ^ 16 + c.wc % 16 * 2 ^ 32 + c.a8 % 16 * 2 ^ 36

/-- CTU_SEQ_STATE (Table 11.9); the contexts of SEQ_CLOSEs, which do not count toward the four (R326), are not in it. -/
def seqWord (s : State) (q : Seq) : Nat :=
  let fl := (seqFlits s q.part q.sid).filter fun f => fOp f.word ≠ 1
  (if q.faulted then 3 else if fl ≠ [] then 2 else 1) + q.sid % 64 * 2 ^ 2 + q.part % 128 * 2 ^ 8 + q.head % 8 * 2 ^ 16 + (q.hkv - 1) % 16 * 2 ^ 19 +
    (q.g - 1) % 16 * 2 ^ 23 + q.kvFmt % 64 * 2 ^ 32 + (sumOf ((fl.filter fun f => fOp f.word ≠ 2).map fun f => sumOf (f.ctxs.map (·.n)))) % 4 * 2 ^ 38

/-- Tokens the page table of a sequence holds (Table 11.10). -/
def seqTokens (s : State) (q : Seq) : Nat := sumOf (((handleAt s q.part q.handle).map fun h => (tableEnts h q.nEntries).map (·.fill)).getD [])

/-- Contexts of an engine in use, and its units out. -/
def engUsed (s : State) (kind : Nat) : Nat := sumOf ((List.range (unitCount kind)).map (ctxUsed s kind))
def unitsOutWord (s : State) (kind : Nat) : Nat := bitSet ((List.range (unitCount kind)).filter (unitOut s kind))

/-- SEC_OWN_STATE (Table 15.9). -/
def ownWord (s : State) : Nat :=
  b2n s.nv.owned + 2 * b2n (claimOpen s) + 4 * b2n s.nv.sealSecret.isSome + 8 * b2n s.sec.pasteOwner + s.sec.rindSvn % 256 * 2 ^ 8 +
    s.sec.pasteSvn % 256 * 2 ^ 16 + s.nv.ownGen % 4096 * 2 ^ 32

/-- SEC_IMG_STATE (Table 13.13). -/
def imgWord (s : State) : Nat :=
  let phase := match s.sec.segs with
    | [] => 0
    | g :: _ => if g.phase ≤ 1 then 1 else g.phase
  b2n s.sec.loaded + phase % 4 * 2 + (s.sec.segs.length - 1) % 8 * 2 ^ 3 + s.sec.partials % 2 ^ 24 * 2 ^ 8

/-- SEC_IMG_RESULT (Table 13.14). -/
def resultWord (r : ImgResult) : Nat :=
  if r.valid then 1 + 2 * b2n r.partialSeg + r.cls % 256 * 2 ^ 8 + r.type % 256 * 2 ^ 16 + r.record % 2 ^ 16 * 2 ^ 32 else 0

/-- Words of the event latched by the last read of GLB_FAULT_EVENT0 (R417), but those that a read has cleared since (R7). -/
def latchedWord (s : State) (i : Nat) : Nat := match s.flt.latched with
  | some e => if i ∈ s.flt.cleared then 0 else (packFault e).getD i 0
  | none => 0

/-! ## Registers by block -/

/-- Registers of GLB_ that are no RC counter. -/
def glbReg (s : State) (off : Nat) : Nat :=
  match off with
  | 0x100 => domainWord s
  | 0x108 => (s.img.ranges.filter fun e => e.2.valid).length
  | 0x110 => s.sec.epoch.toNat
  | 0x190 => loadWord s
  | 0x308 => s.ftl.badRows.length
  | 0x310 => (s.ftl.relocs.filter fun r => r.step ≤ 3 ∨ r.step = 6).length
  | 0x320 => (s.ftl.events.head?.map packFtlEvent).getD 0
  | 0x418 => s.eng.opfSel
  | 0x420 => ctxWord (ctxAllot s s.eng.opfSel) (ctxExcl s s.eng.opfSel)
  | 0x428 => ctxWord (ctxHeld s s.eng.opfSel) fun _ => false
  | 0x430 =>
    (partRec s s.eng.opfSel).scratch % 2 ^ 12 + granHeld s s.eng.opfSel % 2 ^ 12 * 2 ^ 32 +
      (s.eng.handles.filter fun h => h.1.1 = s.eng.opfSel).length % 2 ^ 9 * 2 ^ 48
  | 0x438 => s.eng.scrFree
  | 0x500 => (dev s).ageS % 2 ^ 16 + (dev s).gwEtype % 2 ^ 16 * 2 ^ 16
  | 0x508 => s.eth.macs.length + s.img.l2.length
  | 0x608 => logWord (s.flt.calveLog.map fun e => e.1 % 16 * 2 + e.2.1 % 128 * 2 ^ 5 + e.2.2 % 2 ^ 48 * 2 ^ 16)
  | 0x610 => bits64 ((List.range 128).filter fun p => partState s p = 2) 0
  | 0x618 => bits64 ((List.range 128).filter fun p => partState s p = 2) 64
  | 0x648 => latchedWord s 0
  | 0x650 => latchedWord s 1
  | 0x658 => latchedWord s 2
  | 0x660 => latchedWord s 3
  | 0x668 => bitSet s.flt.lanesOut
  | 0x670 => s.tapSel
  | 0x678 => tapWord (agetD s.taps s.tapSel {}) 0
  | 0x680 => tapWord (agetD s.taps s.tapSel {}) 1
  | 0x688 => tapWord (agetD s.taps s.tapSel {}) 2
  | 0x690 => (agetD s.taps s.tapSel {}).gaps
  | 0x700 => mgmtWord s
  | 0x708 => fwWord s
  | 0x710 => coresWord s
  | 0x800 => pwrWord s
  | 0x808 => s.pwr.resetKind % 4 + s.pwr.resetCause % 16 * 4 + min 65535 s.pwr.warmCount * 2 ^ 16
  | 0x820 => logWord (s.pwr.event.map fun e => e.1 % 4 * 2 + e.2.1 % 16 * 2 ^ 8 + e.2.2.1 % 2 ^ 16 * 2 ^ 16 + e.2.2.2 % 2 ^ 32 * 2 ^ 32)
  | 0x900 => s.pwr.tempSel
  | 0x908 =>
    s.pwr.temps.getD s.pwr.tempSel 0 % 2 ^ 16 + s.pwr.tempMax.getD s.pwr.tempSel 0 % 2 ^ 16 * 2 ^ 16 + s.pwr.tempSel % 16 * 2 ^ 32
  | 0x910 => s.pwr.railSel
  | 0x918 =>
    s.pwr.mvs.getD s.pwr.railSel 0 % 2 ^ 16 + s.pwr.setMv.getD s.pwr.railSel 0 % 2 ^ 16 * 2 ^ 16 + s.pwr.currents.getD s.pwr.railSel 0 % 2 ^ 16 * 2 ^ 32
  | 0x920 => s.pwr.power % 2 ^ 16 + s.pwr.powerPeak % 2 ^ 16 * 2 ^ 16
  | _ => 0

/-- Registers of SEC_. -/
def secReg (s : State) (off : Nat) : Nat :=
  if 0x10 ≤ off ∧ off < 0x40 ∧ off % 8 = 0 then fieldAt s.sec.imgDigest (off - 0x10) 8
  else if 0x108 ≤ off ∧ off < 0x128 ∧ off % 8 = 0 then (s.nv.ownerKeys[(off - 0x108) / 8]?.map fun e => e.1 % 2 ^ 32 + 2 ^ 32).getD 0
  else if 0x158 ≤ off ∧ off < 0x178 ∧ off % 8 = 0 then bits64 (s.sec.stackKeys.map (·.1)) ((off - 0x158) / 8 * 64)
  else match off with
  | 0x00 => s.sec.imgSerial
  | 0x08 => s.sec.imgBase
  | 0x40 => imgWord s
  | 0x48 => resultWord s.sec.result
  | 0x100 => ownWord s
  | 0x128 => statusBits s + s.sec.tblEpoch.toNat % 2 ^ 32 * 2 ^ 32
  | 0x140 => bits64 s.sec.badkey 0
  | 0x148 => bits64 s.sec.badkey 64
  | 0x150 => s.mgmt.sessions.length % 16 + s.sec.sessions.length % 8 * 16
  | _ => 0

/-- Registers of TWN_. -/
def twnReg (s : State) (off : Nat) : Nat :=
  match off with
  | 0x00 => twnCode s.twn.state + 8 * b2n ((dev s).twinPresent && !ownOdd s) + s.twn.resyncPct % 256 * 2 ^ 8
  | 0x08 => s.twn.epoch % 2 ^ 32 + s.twn.adoptEpoch % 2 ^ 32 * 2 ^ 32
  | 0x18 => logWord (s.twn.invLog.map fun e => 2 * b2n e.1 + e.2.1 % 2 ^ 30 * 2 ^ 2 + e.2.2 % 2 ^ 32 * 2 ^ 32)
  | _ => 0

/-- Registers of AU_. -/
def auReg (s : State) (off : Nat) : Nat :=
  match off with
  | 0x00 => b2n s.mem.mirrorEn + 2 * b2n s.mem.mirrorActive + 256 * 2 ^ 16
  | 0x08 => s.mem.idem.length
  | 0x10 => s.mem.shadow.length
  | 0x30 => s.mem.locks.length
  | 0x38 => s.mem.lockPeak
  | 0x40 => s.mem.mirrorRtt
  | _ => 0

/-- Registers of VAT_. -/
def vatReg (s : State) (off : Nat) : Nat :=
  match off with
  | 0x00 => (dev s).rspCells % 2 ^ 20 + (dev s).schCells % 2 ^ 20 * 2 ^ 20 + (dev s).engCells % 2 ^ 20 * 2 ^ 40
  | 0x08 => s.vat.shr
  | 0x10 => s.vat.rsp
  | 0x18 => s.vat.sch
  | 0x20 => s.vat.eng
  | 0x28 => s.vat.ctl
  | 0x30 => bits64 s.vat.bankFail 0
  | 0x48 => s.vat.desc
  | 0x50 => ceilDiv (wheyUsed s) 1024
  | 0x78 => (dev s).wheyBwPct % 64 + (dev s).msgAgeMs % 32 * 2 ^ 8
  | _ => 0

/-- Registers of TMC_. -/
def tmcReg (s : State) (off : Nat) : Nat :=
  match off with
  | 0x00 => s.tmc.selIndex % 2 ^ 13 + s.tmc.selTable % 4 * 2 ^ 16 + b2n s.tmc.selError * 2 ^ 62
  | 0x10 => s.tmc.d0.toNat &&& (tmcMasks s.tmc.selTable).1
  | 0x18 => s.tmc.d1.toNat &&& (tmcMasks s.tmc.selTable).2
  | 0x20 => s.tmc.d2.toNat
  | _ => 0

/-- Registers of FTM_. -/
def ftmReg (s : State) (off : Nat) : Nat :=
  let m := s.ftm
  match off with
  | 0x00 => m.source % 8 + m.refPort % 256 * 2 ^ 8 + m.ptpDomain % 256 * 2 ^ 16 + m.stepThr % 2 ^ 16 * 2 ^ 32
  | 0x08 => ftmStatus s
  | 0x10 => ft s
  | 0x18 => unsigned 64 m.offset
  | 0x20 => m.incr
  | 0x28 => (dev s).holdoverMs % 2 ^ 14 + (dev s).driftPpb % 2 ^ 10 * 2 ^ 32
  | 0x30 => b2n m.ppsEn + m.ppsWidthUs % 512 * 2 + m.ppsDelayNs % 2 ^ 16 * 2 ^ 16
  | 0x38 => b2n m.activeBank + 2 * b2n m.stagedValid + 4 * b2n m.arm + 8 * b2n m.late + m.actFrame % 2 ^ 40 * 2 ^ 8
  | 0x40 => m.actBegan
  | 0x60 =>
    let d := m.demote
    if d.valid then 1 + d.reason % 8 * 2 + d.port % 256 * 2 ^ 8 + d.schedId % 4096 * 2 ^ 16 + d.slot % 2 ^ 16 * 2 ^ 32 + d.rid % 4096 * 2 ^ 48 else 0
  | _ => 0

/-- Registers of HBM_. -/
def hbmReg (s : State) (off : Nat) : Nat :=
  match off with
  | 0x00 => (dev s).firnGib % 512 + (dev s).wheyGib % 512 * 2 ^ 16 + (dev s).spillGib % 512 * 2 ^ 32 + (dev s).ctlGib % 16 * 2 ^ 48
  | 0x08 => bits64 s.hbm.chanFail 0
  | 0x10 => bits64 s.hbm.chanFail 64
  | 0x18 => firnBlocks s
  | 0x38 => (s.hbm.blocks.filter (·.pinned)).length
  | _ => 0

/-- Registers of the engine blocks, by engine. -/
def engReg (s : State) (kind off : Nat) : Nat :=
  match off with
  | 0x00 => engUsed s kind
  | 0x08 => unitsOutWord s kind
  | _ => match kind, off with
    | 0, 0x10 => (s.eng.groups.filter fun g => g.2.state = .armed ∨ g.2.state = .draining).length
    | 0, 0x40 => s.eng.grpSel
    | 0, 0x48 => grpWord (groupAt s s.eng.grpSel)
    | 0, 0x50 =>
      let d := s.eng.disc
      if d.valid then 1 + d.reason % 8 * 2 + d.port % 256 * 2 ^ 8 + d.group % 1024 * 2 ^ 16 + d.seq % 2 ^ 24 * 2 ^ 32 else 0
    | 1, 0x30 => pieceLocks s
    | 2, 0x38 => s.eng.collSel
    | 2, 0x40 => collWord s s.eng.collSel
    | 2, 0x48 => ((aget s.eng.colls s.eng.collSel).map (·.published)).getD 0 % 2 ^ 48
    | 2, 0x50 => ((aget s.eng.colls s.eng.collSel).map fun c => c.side.length % 2 ^ 25 + c.capacity % 2 ^ 25 * 2 ^ 32).getD 0
    | 3, 0x10 => s.eng.seqs.length
    | 3, 0x38 => s.eng.seqSel
    | 3, 0x40 => ((aget s.eng.seqs s.eng.seqSel).map (seqWord s)).getD 0
    | 3, 0x48 => ((aget s.eng.seqs s.eng.seqSel).map fun q => q.nEntries % 2 ^ 19 + seqTokens s q % 2 ^ 27 * 2 ^ 32).getD 0
    | _, _ => 0

/-- Slots of a frame that the injection windows of a port cover (R194). -/
def ingressSlots (s : State) (p : Nat) : Nat :=
  let ws := s.ftm.active.wins.filter fun w => decide (w.2.port = p) && decide ((agetD s.ftm.active.flows w.2.schedId {}).kind ≠ 3)
  if ws = [] then 0 else ((List.range 65536).filter fun t => ws.any fun w => winCovers w.2 t).length

/-- Registers of a port, by offset in its block. -/
def portReg (s : State) (p off : Nat) : Nat :=
  let q := port s p
  let r := portRec s p
  match off with
  | 0x220 =>
    let c := q.chk
    if c.valid then 1 + statusCode c.status % 16 * 2 + c.step % 16 * 2 ^ 5 + c.rid % 4096 * 2 ^ 9 + c.part % 128 * 2 ^ 21 + b2n c.dpa * 2 ^ 28 +
      c.opcode % 256 * 2 ^ 32 else 0
  | 0x228 => q.chk.addr
  | 0x300 =>
    stgUsed q % 2 ^ 11 + b2n (fifoSpilled q 0) * 2 ^ 11 + b2n (fifoSpilled q 1) * 2 ^ 12 + b2n (fifoSpilled q 2) * 2 ^ 13 + ceilDiv (wheyOf q) 1024 % 2 ^ 32 * 2 ^ 16
  | 0x310 => rspCap s p % 2 ^ 21 + q.rspUsed % 2 ^ 21 * 2 ^ 32
  | 0x318 => sumOf ((List.range 7).map fun c => q.markThr.getD c 0 % 256 * 2 ^ (8 * c))
  | 0x400 =>
    sumOf ((List.range 8).map fun i => r.pcpClass.getD i 0 % 8 * 2 ^ (3 * i)) + r.untaggedClass % 8 * 2 ^ 24 + r.cxlClass % 8 * 2 ^ 27
  | 0x500 => egressSlots s p % 2 ^ 17 + ingressSlots s p % 2 ^ 17 * 2 ^ 32
  | 0x510 => b2n q.tosTx + unsigned 16 q.asymPs * 2 ^ 16 + unsigned 32 q.delayPs * 2 ^ 32
  | 0x518 => r.windowKib % 2 ^ 11 + sumOf (q.grantsOut.map (·.left)) % 2 ^ 21 * 2 ^ 32
  | 0x600 =>
    r.protocol % 4 + r.role % 4 * 2 ^ 2 + r.width % 32 * 2 ^ 4 + r.minWidth % 32 * 2 ^ 9 + r.firstLane % 512 * 2 ^ 16 + r.maxRate % 16 * 2 ^ 32 +
      r.cxlVer % 4 * 2 ^ 36
  | 0x608 => linkCode q.link + q.widthNow % 32 * 2 ^ 8 + q.rateNow % 16 * 2 ^ 16 + q.laneMask % 2 ^ 16 * 2 ^ 32
  | 0x610 => 2 * b2n q.disable
  | 0x640 => logWord (q.downLog.map fun e => e.1 % 16 * 2 + e.2 % 2 ^ 48 * 2 ^ 16)
  | 0x648 => q.farReq % 2 ^ 12 + q.farMsg % 2 ^ 12 * 2 ^ 16
  | _ => if 0x340 ≤ off ∧ off < 0x380 ∧ off % 8 = 0 then depth (queue q ((off - 0x340) / 8)) else 0

/-- The port and the offset in its block of a PRT_ address; none for a port that the image does not define (R409). -/
def portOff (s : State) (off : Nat) : Option (Nat × Nat) :=
  if 0x100000 ≤ off ∧ off < 0x200000 ∧ (aget s.img.ports ((off - 0x100000) / 0x1000)).isSome then
    some ((off - 0x100000) / 0x1000, (off - 0x100000) % 0x1000)
  else none

/-- A register that is no RC counter, by its CSR address (Table 13.11); zero where nothing is assigned. -/
def csr (s : State) (off : Nat) : Nat :=
  match off / 0x10000 with
  | 0x0 => glbReg s off
  | 0x1 => secReg s (off - 0x10000)
  | 0x2 => twnReg s (off - 0x20000)
  | 0x3 => auReg s (off - 0x30000)
  | 0x4 => vatReg s (off - 0x40000)
  | 0x5 => tmcReg s (off - 0x50000)
  | 0x6 => ftmReg s (off - 0x60000)
  | 0x7 => hbmReg s (off - 0x70000)
  | 0x8 => engReg s 0 (off - 0x80000)
  | 0x9 => engReg s 1 (off - 0x90000)
  | 0xA => engReg s 2 (off - 0xA0000)
  | 0xB => engReg s 3 (off - 0xB0000)
  | _ => match portOff s off with
    | some (p, o) => portReg s p o
    | none => 0

/-- The value of any register, as a read finds it. -/
def readReg (s : State) (off : Nat) : Word64 :=
  match gctrAt off with
  | some c => agetD s.gctr c 0
  | none => match (portOff s off).bind fun x => (pctrAt x.2).map fun c => (x.1, c) with
    | some k => agetD s.pctr k 0
    | none => BitVec.ofNat 64 (csr s off)

/-- What REG_READ returns: for an RC counter Paste's running total (R483), else the register. -/
def readTotal (s : State) (off : Nat) : Nat :=
  match gctrAt off with
  | some c => agetD s.mgmt.totG c 0
  | none => match (portOff s off).bind fun x => (pctrAt x.2).map fun c => (x.1, c) with
    | some k => agetD s.mgmt.totP k 0
    | none => (readReg s off).toNat

/-! ## Reads that clear (RC) -/

/-- Single-bit SRAM errors corrected since the last read (R411): no command tells of one, so their number is a free value, taken at the read. -/
def sramNote (s : State) : State :=
  let r := takeFree s
  bumpG .sramCorr r.1 r.2

/-- A read of an RC register returns its value and clears it (R7); GLB_FAULT_EVENT0 and GLB_FTL_EVENT take the oldest event. Any other register
only returns its value. -/
def rcRead (off : Nat) (s : State) : State :=
  if off = 0x648 then faultRead s
  else
    let s := if off = 0x638 then sramNote s else s
    let out := tell (.reg off (readReg s off)) s
    match gctrAt off with
    | some c => { out with gctr := adel out.gctr c }
    | none => match (portOff s off).bind fun x => (pctrAt x.2).map fun c => (x.1, c) with
      | some k => { out with pctr := adel out.pctr k }
      | none =>
        if off = 0x320 then { out with ftl := { out.ftl with events := out.ftl.events.drop 1 } }
        else if off = 0x690 then setTap out.tapSel (fun t => { t with gaps := 0 }) out
        else if off = 0x30038 then { out with mem := { out.mem with lockPeak := 0 } }
        else if off = 0x650 ∨ off = 0x658 ∨ off = 0x660 then { out with flt := { out.flt with cleared := addOnce out.flt.cleared ((off - 0x648) / 8) } }
        else out

/-- Row RC_REGISTER_READ: reads by Paste. -/
def execRcRegisterRead (offset : Nat) (s : State) : Outcome := run (byPaste (rcRead offset)) s

/-! ## Writes (RW, W1C, W1S) -/

/-- GLB_TEMP_SEL (Table 18.10): the sensor is selected, and bit 8 clears its maximum (R534): it begins again from the present reading. -/
def tempSelWrite (v : Nat) (s : State) : State :=
  let i := bits v 0 4
  setPwr (fun w => { w with tempSel := i, tempMax := if bitAt v 8 then w.tempMax.set i (w.temps.getD i 0) else w.tempMax }) s

/-- A write to GLB_. -/
def glbWrite (off v : Nat) (s : State) : State :=
  match off with
  | 0x418 => { s with eng := { s.eng with opfSel := v % 128 } }
  | 0x608 => if bitAt v 0 then { s with flt := { s.flt with calveLog := none } } else s
  | 0x670 => { s with tapSel := v % 128 }
  | 0x678 =>
    let t := agetD s.taps s.tapSel {}
    tapWriteCfg s.tapSel (v % 2 ^ 64 + tapWord t 1 * 2 ^ 64 + tapWord t 2 * 2 ^ 128) s
  | 0x680 => setTap s.tapSel (fun t => if t.en then t else { t with ring := bits v 0 52 / 4096 * 4096 }) s
  | 0x688 => setTap s.tapSel (fun t => if t.en then t else { t with key := BitVec.ofNat 32 v }) s
  | 0x820 => if bitAt v 0 then setPwr (fun w => { w with event := none }) s else s
  | 0x900 => tempSelWrite v s
  | 0x910 => setPwr (fun w => { w with railSel := v % 16 }) s
  | _ => s

/-- A write to FTM_. FTM_PPS_CFG keeps its bits; FTM_SCHED clears late, takes act_frame, and arms. -/
def ftmWrite (off v : Nat) (s : State) : State :=
  match off with
  | 0x00 => ftmCtlWrite v s
  | 0x30 =>
    setFtm (fun m => { m with ppsEn := bitAt v 0, ppsWidthUs := bits v 1 9, ppsDelayNs := bits v 16 16 }) s
  | 0x38 =>
    let s := if bitAt v 3 then setFtm (fun m => { m with late := false }) s else s
    if bitAt v 2 then schedArm (bits v 8 40) s else setFtm (fun m => { m with actFrame := bits v 8 40 }) s
  | 0x60 => if bitAt v 0 then setFtm (fun m => { m with demote := {} }) s else s
  | _ => s

/-- A write to TMC_: the words take their values, and the command register starts a read or a write of the selected record; both bits at once do
nothing (R177). -/
def tmcRegWrite (off v : Nat) (s : State) : State :=
  match off with
  | 0x00 => setTmc (fun m => { m with selIndex := bits v 0 13, selTable := bits v 16 2, selError := m.selError && !bitAt v 62 }) s
  | 0x08 => if bitAt v 1 && !bitAt v 0 then tmcWrite s else if bitAt v 0 && !bitAt v 1 then tmcRead s else s
  | 0x10 => setTmc (fun m => { m with d0 := BitVec.ofNat 64 v }) s
  | 0x18 => setTmc (fun m => { m with d1 := BitVec.ofNat 64 v }) s
  | _ => s

/-- A write to an engine block. -/
def engWrite (kind off v : Nat) (s : State) : State :=
  match kind, off with
  | 0, 0x40 => { s with eng := { s.eng with grpSel := v % 1024 } }
  | 0, 0x50 => if bitAt v 0 then { s with eng := { s.eng with disc := {} } } else s
  | 2, 0x38 => { s with eng := { s.eng with collSel := v % 256 } }
  | 3, 0x38 => { s with eng := { s.eng with seqSel := v % 64 } }
  | _, _ => s

/-- A write to a port's block. -/
def portWrite (p off v : Nat) (s : State) : State :=
  match off with
  | 0x220 => if bitAt v 0 then setPort p (fun q => { q with chk := {} }) s else s
  | 0x318 => setPort p (fun q => { q with markThr := (List.range 7).map fun c => bits v (8 * c) 8 }) s
  | 0x510 => setPort p (fun q => { q with tosTx := bitAt v 0, asymPs := signed 16 (bits v 16 16) }) s
  | 0x610 => let s := disablePort p (bitAt v 1) s; if bitAt v 0 then retrain p s else s
  | 0x640 => if bitAt v 0 then setPort p (fun q => { q with downLog := none }) s else s
  | _ => s

/-- A register's write by its access code (R7, R8, R409). Paste is the only writer; SEC_ registers take no writes but the clear of SEC_IMG_RESULT, which is
Rind's. TWN_CTL bit 0 begins adoption (R428). -/
def regWrite (off v : Nat) (s : State) : State :=
  match off / 0x10000 with
  | 0x0 => glbWrite off v s
  | 0x1 => if off = 0x10048 ∧ bitAt v 0 then setSec (fun c => { c with result := {} }) s else s
  | 0x2 => if off = 0x20018 ∧ bitAt v 0 then setTwn (fun t => { t with invLog := none }) s
           else if off = 0x20020 ∧ bitAt v 0 ∧ (s.twn.state = .paired ∨ s.twn.state = .alone) ∧ (dev s).twinPresent ∧ s.mgmt.state ≠ .drained then
             beginAdopt (mirroringSound s) s
           else s
  | 0x3 => if off = 0x30000 then auCtlWrite (BitVec.ofNat 64 v) s else s
  | 0x5 => tmcRegWrite (off - 0x50000) v s
  | 0x6 => ftmWrite (off - 0x60000) v s
  | 0x8 => engWrite 0 (off - 0x80000) v s
  | 0xA => engWrite 2 (off - 0xA0000) v s
  | 0xB => engWrite 3 (off - 0xB0000) v s
  | _ => match portOff s off with
    | some (p, o) => portWrite p o v s
    | none => s

/-- Row REGISTER_WRITE. -/
def execRegisterWrite (offset : Nat) (v : Word64) (s : State) : Outcome := runR (byPaste (regWrite offset v.toNat)) s

/-- TEMP_MAX_CLEAR (R534): a write to GLB_TEMP_SEL. -/
def execTempMaxClear (v : Word64) (s : State) : Outcome := run (byPaste (tempSelWrite v.toNat)) s

end Sys2Proof.Machine
end

