-- ==== Sys2Proof/Machine/MgmtCmds.lean ====
section
/-! DEFINITION. Prosis sessions and the commands that no other chapter gives (chapter 16): the handshake, firmware slots, streams, pins, dataset
loads, telemetry, and the restart of Paste. -/

namespace Sys2Proof.Machine

/-! ## Cores and Paste (R475, R476, R491) -/

/-- A Paste slot and a Rind slot: true B. -/
def pasteSlot (s : State) (b : Bool) : FwSlot := if b then s.nv.pasteB else s.nv.pasteA
def rindSlot (s : State) (b : Bool) : FwSlot := if b then s.nv.rindB else s.nv.rindA

/-- The floor of a Paste signer (R445). -/
def pasteFloorOf (s : State) (owner : Bool) : Nat := if owner then s.nv.pasteFloorOwner else s.nv.pasteFloor

/-- A slot's version is at or above the floor (R445, R491). -/
def pasteAbove (s : State) (b : Bool) : Bool := (pasteSlot s b).valid && decide (pasteFloorOf s (pasteSlot s b).owner ≤ (pasteSlot s b).svn)

/-- Rind may start Paste from a slot (R445): its signature is good by a key in force, and its version is not below the floor. The shipped image, of
which the model holds no bytes, is taken as signed. -/
def pasteStarts (s : State) (b : Bool) : Bool :=
  let f := pasteSlot s b
  pasteAbove s b && (f.bytes.isEmpty || (if f.owner then s.nv.ownerKeys.any fun k => Config.ownerFwOk k.2 f.bytes else Config.aeddunKeyOk true f.bytes))

/-- REQUESTER and UPLINK ports go down (cause 5) and stay where the control state holds them (Table 16.2). -/
def holdRequesters (s : State) : State :=
  ((s.img.ports.filter fun e => decide (e.2.role = 0 ∨ e.2.role = 3)).map (·.1)).foldl (fun s p => portGoesDown p 5 s) s

/-- With fewer than three cores the plane is held in HELD until a cold reset (Table 14.9). -/
def coresCheck (s : State) : State :=
  if coresUp s < 3 ∧ (s.mgmt.state = .run ∨ s.mgmt.state = .drained ∨ s.mgmt.state = .draining) then
    let t := holdRequesters (setMgmt (fun m => { m with state := .held }) s)
    if s.mgmt.state = .draining then bgDone 0x30 2 0 .state 0 t else t
  else s

/-- Paste's services (Table 16.1). -/
inductive PasteService where
  | links | flash | time | prosis | telemetry
  deriving DecidableEq, Repr

/-- The cores a service runs on (R474): those of Table 16.1, and for one that has left service the lowest-numbered remaining core. -/
def serviceCores (s : State) (v : PasteService) : List Nat :=
  let up := (List.range 6).filter (· ∉ s.mgmt.coresOut)
  let home : List Nat := match v with
    | .links => [0] | .flash => [1, 2] | .time => [3] | .prosis => [4] | .telemetry => [5]
  (home.filterMap fun c => if c ∈ up then some c else up.head?).foldl addOnce []

/-- A core leaves service until the next cold reset (R475). -/
def coreLeaves (c : Nat) (s : State) : State := coresCheck (setMgmt (fun m => { m with coresOut := addOnce m.coresOut c }) s)

/-- Paste starts from the active slot, or stays NOT_RUNNING (R445, R491): its level, its version; the plane leaves BOOT when an image is applied. -/
def startPaste (s : State) : State :=
  let f := pasteSlot s s.nv.pasteSlotB
  if !pasteStarts s s.nv.pasteSlotB then setMgmt (fun m => { m with pasteUp := false }) s
  else
    let s := setSec (fun c => { c with pasteSvn := f.svn, pasteOwner := f.owner }) (setNv (fun v => { v with rindBooted := true }) s)
    setMgmt (fun m => { m with
      pasteUp := true, pasteStartAt := s.now, ctrEpoch := (m.ctrEpoch + 1) % 2 ^ 32
      devLevel := if f.bytes.isEmpty then 0x0104 else Config.fwLevel f.bytes % 65536
      minMinor := if f.bytes.isEmpty then 0x02 else Config.fwMinMinor f.bytes % 256
      state := if m.state = .boot ∧ s.sec.loaded then .held else m.state }) s

/-- What Paste held is lost (R476, R501): sessions, subscriptions, uploads, buffered events, running totals; dataset loads and pin fills in progress
are abandoned. -/
def wipePaste (s : State) : State :=
  let s := closeAll (s.mgmt.sessions.map (·.sess)) s
  let s := setMgmt (fun m => { m with
    subs := [], uploads := [], held := [], heldLost := 0, totG := [], totP := [], partTot := []
    bgs := m.bgs.filter fun b => decide (b.command ≠ 0x50 ∧ b.command ≠ 0x52) }) s
  let s := (s.ftl.loads.filter fun l => l.flipAt.isNone).foldl (fun s l => dsAbort l s) s
  let s : State := { s with
    hbm := { s.hbm with pins := s.hbm.pins.filter (·.done), fills := s.hbm.fills.map fun (f : Fill) => { f with pin := false } }
    flt := { s.flt with unitTot := [] } }
  { s with ports := s.ports.map fun e => (e.1, { e.2 with sentBytes := [0, 0, 0, 0, 0, 0, 0, 0] }) }

/-- Ten minutes, an hour and 30 s in nanoseconds. -/
def tenMinutes : Nat := 600000000000
def anHour : Nat := 3600000000000
def halfMinute : Nat := 30000000000

/-- A TRIAL Paste reverts to the other slot when that one may run; otherwise Paste stays NOT_RUNNING (R491). -/
def pasteRevert (s : State) : State :=
  let b := !s.nv.pasteSlotB
  if pasteAbove s b then startPaste (setNv (fun v => { v with pasteSlotB := b, pasteTrial := false }) s)
  else setMgmt (fun m => { m with pasteUp := false }) s

/-- Rind restarts Paste (R475): `cause` as in GLB_CORES.last_cause. -/
def restartPaste (cause : Nat) (s : State) : State :=
  let early := decide (cause = 0) && decide (s.now ≤ s.mgmt.pasteStartAt + halfMinute)
  let starts := if cause = 2 then [] else s.now :: s.mgmt.pasteStarts.filter fun t => decide (s.now < t + tenMinutes)
  let s := wipePaste s
  let s := setMgmt (fun m => { m with restarts := min 255 (m.restarts + 1), lastCause := cause, pasteStarts := starts }) s
  if s.nv.pasteTrial ∧ cause ≠ 2 ∧ (early ∨ starts.length ≥ 2) then pasteRevert s else startPaste s

/-- PASTE_HEARTBEAT_TIMEOUT (R475): a core in service has sent no heartbeat for 100 ms; one that causes two restarts within an hour leaves. -/
def heartbeatTimeout (core : Nat) (s : State) : State :=
  if core ≥ 6 ∨ core ∈ s.mgmt.coresOut ∨ !s.mgmt.pasteUp then s
  else
    let rs := s.mgmt.coreRestarts.filter fun e => decide (s.now < e.2 + anHour)
    let again := rs.any fun e => e.1 == core
    let s := setMgmt (fun m => { m with coreRestarts := rs ++ [(core, s.now)] }) s
    restartPaste 0 (if again then coreLeaves core s else s)

/-- Row PASTE_HEARTBEAT_TIMEOUT. -/
def execPasteHeartbeatTimeout (core : Nat) (s : State) : Outcome := runR (heartbeatTimeout core) s

/-- CORE_UNCORRECTABLE (R475): the core leaves service and Paste restarts. -/
def coreUnc (core : Nat) (s : State) : State :=
  if core ≥ 6 ∨ core ∈ s.mgmt.coresOut then s else restartPaste 1 (coreLeaves core s)

/-- Row CORE_UNCORRECTABLE. -/
def execCoreUncorrectable (core : Nat) (s : State) : Outcome := runR (coreUnc core) s

/-- PASTE_RESTART_REQUEST (R475): by Paste itself. -/
def execPasteRestartRequest (s : State) : Outcome := runR (byPaste (restartPaste 4)) s

/-- RESET kind 3 (R497): the command is answered, then Paste restarts. -/
def execResetPaste (sess : Nat) (s : State) : Outcome := runR (prosis sess 0x90 (fun s => restartPaste 3 (reply sess 0x90 .ok [] s))) s

/-! ## Sessions (R466, R479, R480) -/

/-- PROSIS_SESSION_OPEN (R466, R447): at most eight; an owned part checks the chain and the revocation list, and claim sessions need the claim window
open and no other claim session. -/
def sessionOpen (sess : Nat) (chain : Bytes) (cert : Nat) (claim : Bool) (s : State) : State :=
  if !s.mgmt.pasteUp ∨ s.mgmt.sessions.length ≥ 8 ∨ (sessAt s sess).isSome then s
  else if claim then
    if claimOpen s ∧ !claimHeld s sess ∧ Config.certP384 chain then setMgmt (fun m => { m with sessions := m.sessions ++ [{ sess := sess, claim := true, cert := cert }] }) s else s
  else if s.nv.owned ∧ Config.chainOk s.nv.mgmtCa chain ∧ !revoked s chain cert then
    setMgmt (fun m => { m with sessions := m.sessions ++ [{ sess := sess, cert := cert, issuers := Config.chainSerials chain }] }) s
  else s

/-- Row PROSIS_SESSION_OPEN. -/
def execProsisSessionOpen (sess : Nat) (clientCa : Bytes) (certSerial : Nat) (claimSession : Bool) (s : State) : Outcome :=
  run (sessionOpen sess clientCa certSerial claimSession) s

/-- PROSIS_SESSION_CLOSE. -/
def execProsisSessionClose (sess : Nat) (s : State) : Outcome := runR (closeSess sess) s

/-- `s` with a session changed. -/
def setSess (n : Nat) (f : Sess → Sess) (s : State) : State :=
  setMgmt (fun m => { m with sessions := modFirst (fun x => x.sess = n) f m.sessions }) s

/-- HELLO is refused with LEVEL (R479): another major, or a minor below min_minor. -/
def levelRefuses (s : State) (lvl : Nat) : Bool := decide (lvl / 256 ≠ s.mgmt.devLevel / 256) || decide (lvl % 256 < s.mgmt.minMinor)

/-- Events held while no session could take them are delivered in sequence (R484); the number dropped goes with the next event. -/
def deliverHeld (sess : Nat) (s : State) : State :=
  let n := s.mgmt.heldLost
  let k := s.mgmt.held.length
  let s := s.mgmt.held.foldl (fun s e => tell (.event sess e.1 e.2 0) s) s
  setSess sess (fun x => { x with lost := x.lost + n, told := x.told + k }) (setMgmt (fun m => { m with held := [], heldLost := 0 }) s)

/-- An accepted HELLO: the first session, or one that takes, controls (R480); HELD moves to RUN and the held ports train (R479), unless too few cores
are left (Table 14.9). A claim session neither controls nor moves the plane. -/
def helloAccepted (sess lvl : Nat) (take claim : Bool) (s : State) : State :=
  let s := setSess sess (fun x => { x with helloOk := true, levelRefused := false }) s
  let s := setMgmt (fun m => { m with fmLevel := lvl }) s
  if claim then s
  else
    let s := setMgmt (fun m => { m with
      controller := if take || !m.hadController then some sess else m.controller, hadController := true, handshake := true }) s
    if s.mgmt.state = .held ∧ coresUp s ≥ 3 then startRequesters (setMgmt (fun m => { m with state := .run }) s) else s

/-- What an accepted HELLO answers with (R479). -/
def helloBody (s : State) : List Nat :=
  [s.mgmt.devLevel, s.mgmt.minMinor, (dev s).planeIndex, (dev s).domainId, ctlCode s.mgmt.state, s.sec.imgSerial, s.sec.imgBase]

/-- HELLO (R479, R480). -/
def hello (sess lvl : Nat) (take : Bool) (s : State) : State :=
  let claim := ((sessAt s sess).map (·.claim)).getD false
  if levelRefuses s lvl then
    reply sess 0x01 .level [] (setMgmt (fun m => { m with controller := if m.controller = some sess then none else m.controller })
      (setSess sess (fun x => { x with helloOk := false, levelRefused := true }) s))
  else
    let s := helloAccepted sess lvl take claim s
    let s := reply sess 0x01 .ok (helloBody s) s
    if claim then s else deliverHeld sess s

/-- Row HELLO. -/
def execHello (sess fmLevel : Nat) (take : Bool) (s : State) : Outcome := runR (prosis sess 0x01 (hello sess fmLevel take)) s

/-- BYE: the session closes after the response. -/
def execBye (sess : Nat) (s : State) : Outcome := runR (prosis sess 0x02 (fun s => closeSess sess (reply sess 0x02 .ok [] s))) s

/-! ## Firmware slots (R488 to R491) -/

/-- `s` with a firmware slot written. -/
def setSlot (paste b : Bool) (f : FwSlot) (s : State) : State :=
  setNv (fun v => if paste then (if b then { v with pasteB := f } else { v with pasteA := f }) else (if b then { v with rindB := f } else { v with rindA := f })) s

/-- The slot that is not active. -/
def otherSlot (s : State) (paste : Bool) : Bool := if paste then !s.nv.pasteSlotB else !s.nv.rindSlotB

/-- `s` with a staged bit. -/
def setStaged (paste on : Bool) (s : State) : State :=
  setNv (fun v => if paste then { v with pasteStaged := on } else { v with rindStaged := on }) s

/-- What a whole staged image is worth (R489): its slot record when the signature is good and the version not below the signer's floor. -/
def stagedSlot (s : State) (paste : Bool) (raw : Bytes) : Option FwSlot :=
  let v := Config.fwVersion raw
  let mk (owner : Bool) (floor : Nat) : Option FwSlot := if floor ≤ v then some { bytes := raw, svn := v, owner := owner, valid := true } else none
  if !paste then (if Config.aeddunKeyOk false raw then mk false s.nv.rindFloor else none)
  else if Config.aeddunKeyOk true raw then mk false s.nv.pasteFloor
  else if s.nv.ownerKeys.any fun k => Config.ownerFwOk k.2 raw then mk true s.nv.pasteFloorOwner
  else none

/-- FW_STAGE: the inactive slot is written from its first bytes on; after the last byte Rind checks it, and one that fails is erased, with the class of
a signature (R489). -/
def fwStage (sess : Nat) (paste : Bool) (offset total : Nat) (bytes : Bytes) (s : State) : State :=
  let t := b2n paste
  if !uploadOk s sess 1 t offset total (if paste then 24 * 2 ^ 20 else 4 * 2 ^ 20) bytes then reply sess 0x20 .badBody [] s
  else if s.mgmt.uploads.any fun u => u.what == 1 && u.target == t && u.sess != sess then reply sess 0x20 .busy [] s
  else
    let b := otherSlot s paste
    let s := if offset = 0 then setStaged paste false (setSlot paste b {} s) else s
    match upload sess 1 t offset total bytes s with
    | (none, s) => reply sess 0x20 .ok [] s
    | (some raw, s) => match stagedSlot s paste raw with
      | some f => reply sess 0x20 .ok [] (setStaged paste true (setSlot paste b f s))
      | none => reply sess 0x20 .denied [0x03] s

/-- Row FW_STAGE. -/
def execFwStage (sess : Nat) (paste : Bool) (offset total : Nat) (bytes : Bytes) (s : State) : Outcome :=
  runR (prosisLong sess 0x20 (9 + bytes.length) (fwStage sess paste offset total bytes)) s

/-- FW_COMMIT: TRIAL ends; for Rind the floor rises to the committed version (R491). -/
def fwCommit (sess : Nat) (paste : Bool) (s : State) : State :=
  reply sess 0x22 .ok [] <|
    if paste then setNv (fun v => { v with pasteTrial := false }) s
    else setNv (fun v => { v with rindTrial := false, rindFloor := max v.rindFloor (rindSlot s v.rindSlotB).svn }) s

/-- Row FW_COMMIT. -/
def execFwCommit (sess : Nat) (paste : Bool) (s : State) : Outcome := runR (prosis sess 0x22 (fwCommit sess paste)) s

/-- FW_STATUS: GLB_FW_SLOTS, then the security version and the SHA-384 of the four slots, Rind A, B, Paste A, B. -/
def fwStatus (sess : Nat) (s : State) : State :=
  let slots := [s.nv.rindA, s.nv.rindB, s.nv.pasteA, s.nv.pasteB]
  reply sess 0x23 .ok (fwWord s :: slots.map (·.svn) ++ slots.map fun f => leNat (Config.sha384 f.bytes)) s

/-- Row FW_STATUS. -/
def execFwStatus (sess : Nat) (s : State) : Outcome := runR (prosis sess 0x23 (fwStatus sess)) s

/-! ## Time and streams -/

/-- TIME_SET_SECONDS (R182): for the next PPS edge; STATE unless FTM_CTL.source is 1. -/
def timeSet (sess secs : Nat) (s : State) : State :=
  if s.ftm.source ≠ 1 then reply sess 0x40 .state [] s else reply sess 0x40 .ok [] (setFtm (fun m => { m with setSecs := some (secs % 2 ^ 64) }) s)

/-- Row TIME_SET_SECONDS. -/
def execTimeSetSeconds (sess secs : Nat) (s : State) : Outcome := runR (prosis sess 0x40 (timeSet sess secs)) s

/-- STREAM_START (R199): STATE if the flow is not kind 3 in the active bank or the frame is below the current frame + 2; BUSY while its stream runs. -/
def streamStart (sess schedId frame : Nat) (s : State) : State :=
  let f := agetD s.ftm.active.flows schedId {}
  if !f.valid ∨ f.kind ≠ 3 ∨ frame < ftFrame s + 2 then reply sess 0x41 .state [] s
  else if s.ftm.streams.any fun x => x.schedId == schedId then reply sess 0x41 .busy [] s
  else reply sess 0x41 .ok [] (setFtm (fun m => { m with streams := m.streams ++ [{ schedId := schedId, startFrame := frame, flow := f }] }) s)

/-- Row STREAM_START. -/
def execStreamStart (sess schedId frame : Nat) (s : State) : Outcome := runR (prosis sess 0x41 (streamStart sess schedId frame)) s

/-- STREAM_STOP: the stream stops at its next send slot; STATE when none runs. -/
def streamStop (sess schedId : Nat) (s : State) : State :=
  if !s.ftm.streams.any fun x => x.schedId == schedId then reply sess 0x42 .state [] s
  else reply sess 0x42 .ok [] (setFtm (fun m => { m with streams := modFirst (fun x => x.schedId = schedId) (fun x => { x with stopping := true }) m.streams }) s)

/-- Row STREAM_STOP. -/
def execStreamStop (sess schedId : Nat) (s : State) : Outcome := runR (prosis sess 0x42 (streamStop sess schedId)) s

/-! ## Pins and dataset loads -/

/-- A range that a command may name: valid, with a stripe on this plane. -/
def ownRange (s : State) (range : Nat) : Bool := (rangeOf s range).valid && (!(rangeOf s range).pinned || (rangeOf s range).pinnedPlane == ownPlane s)

/-- Blocks of the stripe of a range, and those of them that already count for it (R83, R87). -/
def pinBlocks (s : State) (range : Nat) : Nat := ceilDiv (stripePages (rangeOf s range) (planes s)) 16
def pinHeld (s : State) (range : Nat) : Nat :=
  (s.hbm.blocks.filter fun b => b.range == range && b.odd == ownOdd s && b.gen == firnGen s range && b.owner == (rangeOf s range).owner).length

/-- FIRN_PIN (R90): refused whole when it needs more than the owner's remaining allotment; answered when every sector has been filled. -/
def firnPin (sess range : Nat) (s : State) : State :=
  let e := rangeOf s range
  if !ownRange s range ∨ !e.firn then reply sess 0x50 .badBody [] s
  else if bgHolds s 0 range then reply sess 0x50 .busy [] s
  else if pinBlocks s range - pinHeld s range > firnAllot s e.owner * 16384 - firnUse s e.owner then reply sess 0x50 .limit [] s
  else
    let n := stripePages e (planes s) * 4096
    let p : Pin := { range := range, sess := sess, odd := ownOdd s, stop := n }
    bgStart 0x50 sess 0 range { s with hbm := { s.hbm with pins := s.hbm.pins.filter (fun p => p.range ≠ range) ++ [p] } }

/-- Row FIRN_PIN. -/
def execFirnPin (sess range : Nat) (s : State) : Outcome := runR (prosis sess 0x50 (firnPin sess range)) s

/-- FIRN_UNPIN (R91): the blocks are ordinary ones again. -/
def firnUnpin (sess range : Nat) (s : State) : State :=
  if !ownRange s range then reply sess 0x51 .badBody [] s
  else if bgHolds s 0 range then reply sess 0x51 .busy [] s
  else reply sess 0x51 .ok [] { s with hbm := { s.hbm with
    pins := s.hbm.pins.filter fun p => p.range ≠ range
    fills := s.hbm.fills.map (unpinFill range)
    blocks := s.hbm.blocks.map fun b => if b.range = range then { b with pinned := false } else b } }

/-- Row FIRN_UNPIN. -/
def execFirnUnpin (sess range : Nat) (s : State) : Outcome := runR (prosis sess 0x51 (firnUnpin sess range)) s

/-- Logical blocks of a flash range's stripe on this plane's role: port and number. -/
def dsBlocks (s : State) (range : Nat) : List (Nat × Nat) :=
  ((flashExts s (dev s) s.img (rangeOf s range)).filter fun x => x.1 == ownOdd s).flatMap fun x =>
    (List.range (x.2.2.2 - x.2.2.1)).map fun i => (x.2.1, x.2.2.1 + i)

/-- The free blocks a load takes, the least worn first (R107); `none` when a pool runs out (R111). -/
def dsTake : List (Nat × Nat) → State → List (Nat × Nat × MapEnt) → Option (List (Nat × Nat × MapEnt) × State)
  | [], s, acc => some (acc, s)
  | (p, lb) :: l, s, acc => match bestFree s p with
    | none => none
    | some b => dsTake l (takeBlock p b s) (acc ++ [(p, lb, mapEntOf b)])

/-- A source and target of DATASET_LOAD (R109): tier 2 into tier 3, of one owner and one size, each with a stripe on this plane. -/
def dsPair (s : State) (target source : Nat) : Bool :=
  let t := rangeOf s target
  let e := rangeOf s source
  ownRange s target && ownRange s source && t.tier == 1 && e.tier == 0 && t.owner == e.owner && t.size == e.size

/-- DATASET_LOAD (R109 to R111): answered at the flip. -/
def datasetLoad (sess target source : Nat) (s : State) : State :=
  if !dsPair s target source then reply sess 0x52 .badBody [] s
  else if bgHolds s 0 target ∨ bgHolds s 0 source ∨ s.ftl.loads.any (fun l => l.target == target) then reply sess 0x52 .busy [] s
  else
    let bs := dsBlocks s target
    match dsTake bs s [] with
    | none => reply sess 0x52 .limit [] s
    | some (m, s') =>
      let old := bs.filterMap fun b => let x := mapEnt s b.1 (ownOdd s) b.2; if x.valid then some (b.1, pblockOf x) else none
      let l : DsLoad := {
        target := target, source := source, sess := sess, newMap := m, oldBlocks := old, odd := ownOdd s
        rows := ceilDiv (stripePages (rangeOf s target) (planes s) * 4096) 131072 }
      bgStart 0x52 sess 0 target { s' with ftl := { s'.ftl with loads := s'.ftl.loads ++ [l] } }

/-- Row DATASET_LOAD. -/
def execDatasetLoad (sess target source : Nat) (s : State) : Outcome := runR (prosis sess 0x52 (datasetLoad sess target source)) s

/-! ## Registers and telemetry (R483 to R487) -/

/-- REG_READ: `count` 64-bit registers from an offset, 1 to 64 of them. -/
def regReads (sess offset count : Nat) (s : State) : State :=
  if count < 1 ∨ count > 64 then reply sess 0x70 .badBody [] s
  else reply sess 0x70 .ok ((List.range count).map fun i => readTotal s (offset + 8 * i)) s

/-- Row REG_READ. -/
def execRegRead (sess offset count : Nat) (s : State) : Outcome := runR (prosis sess 0x70 (regReads sess offset count)) s

/-- Bytes of one sample with its two headers (R487, Table 16.6). -/
def sampleBytes (s : State) (scope groups : Nat) : Nat :=
  let ports := s.img.ports.length
  40 + (if bitAt groups 0 then 72 * ports else 0) + (if bitAt groups 1 then 128 * ports else 0) +
    (if bitAt groups 2 then 64 * (if scope = 1 then 1 else s.img.parts.length) else 0) + (if bitAt groups 3 then 32 * 36 else 0) + (if bitAt groups 4 then 64 else 0)

/-- What subscriptions send in bytes each millisecond, as a fraction: periods are whole milliseconds. -/
def telemRate (s : State) (l : List Sub) : Nat × Nat :=
  l.foldl (fun r u => (r.1 * u.periodMs + sampleBytes s u.scope u.groups * r.2, r.2 * u.periodMs)) (0, 1)

/-- Subscriptions stay within 40 MB/s (R487). -/
def telemFits (s : State) (l : List Sub) : Bool := decide ((telemRate s l).1 ≤ 40000 * (telemRate s l).2)

/-- TELEM_SUBSCRIBE (R485, R487): at most 16 subscriptions and 40 MB/s. -/
def telemSubscribe (sess periodMs scope part groups : Nat) (s : State) : State :=
  if periodMs < 1 ∨ periodMs > 60000 ∨ scope > 1 ∨ groups = 0 ∨ groups ≥ 32 ∨ (scope = 1 ∧ (groups ≠ 4 ∨ part > 127)) then reply sess 0x80 .badBody [] s
  else if scope = 1 ∧ bgHolds s 3 part then reply sess 0x80 .busy [] s
  else
    let u : Sub := { subId := s.mgmt.nextSub, sess := sess, periodMs := periodMs, scope := scope, part := part, groups := groups }
    if s.mgmt.subs.length ≥ 16 ∨ !telemFits s (s.mgmt.subs ++ [u]) then reply sess 0x80 .limit [] s
    else reply sess 0x80 .ok [u.subId] (setMgmt (fun m => { m with subs := m.subs ++ [u], nextSub := (m.nextSub + 1) % 65536 }) s)

/-- Row TELEM_SUBSCRIBE. -/
def execTelemSubscribe (sess periodMs scope part groups : Nat) (s : State) : Outcome :=
  runR (prosis sess 0x80 (telemSubscribe sess periodMs scope part groups)) s

/-- TELEM_CANCEL: of a subscription of the session. -/
def telemCancel (sess subId : Nat) (s : State) : State :=
  if s.mgmt.subs.any fun u => u.subId == subId && u.sess == sess then
    reply sess 0x81 .ok [] (setMgmt (fun m => { m with subs := m.subs.filter fun u => !(u.subId == subId && u.sess == sess) }) s)
  else reply sess 0x81 .badBody [] s

/-- Row TELEM_CANCEL. -/
def execTelemCancel (sess subId : Nat) (s : State) : Outcome := runR (prosis sess 0x81 (telemCancel sess subId)) s

/-- The RC counters are added into Paste's totals and begin again (R486). -/
def accumulate (s : State) : State :=
  let s := sramNote s
  let g := s.gctr.foldl (fun t c => amod t c.1 0 (· + c.2.toNat)) s.mgmt.totG
  let p := s.pctr.foldl (fun t c => amod t c.1 0 (· + c.2.toNat)) s.mgmt.totP
  { setMgmt (fun m => { m with totG := g, totP := p }) s with gctr := [], pctr := [] }

/-- Row COUNTER_ACCUMULATE. -/
def execCounterAccumulate (s : State) : Outcome := run (byPaste accumulate) s

/-- Records of a group for a sample (Table 16.6). -/
def portRecord (s : State) (p : Nat) : List Nat :=
  [p, linkCode (port s p).link] ++ ([.fecCorr, .fecUnc, .crcErr, .replay, .dropAdmit, .dropAge, .marked, .flushLost] : List PCtr).map fun c => agetD s.mgmt.totP (p, c) 0
def queueRecords (s : State) (p : Nat) : List Nat :=
  (List.range 8).flatMap fun c => [8 * p + c, depth (queue (port s p) c), (port s p).sentBytes.getD c 0]
def partRecord (s : State) (p : Nat) : List Nat :=
  let n := agetD s.mem.outPart p 0
  let t (i : Nat) : Nat := agetD s.mgmt.partTot (p, i) 0
  [p, ownLevel s p n, n, t 0, t 1, t 2, firnUse s p, t 3, t 4, t 5]
def engRecord (s : State) (cycles : Nat) (u : UnitId) : List Nat :=
  let t := agetD s.flt.unitTot u (0, 0)
  [u.kind, u.num, b2n (unitOut s u.kind u.num), ctxUsed s u.kind u.num, cycles, t.1, t.2]
def devRecord (s : State) : List Nat :=
  [loadWord s, ftmStatus s, (readReg s 0x60018).toNat, s.vat.shr, ceilDiv (wheyUsed s) 1024, agetD s.mgmt.totG .firnHit 0, agetD s.mgmt.totG .firnMiss 0,
   agetD s.mgmt.totG .calveCnt 0]

/-- The body of a sample: the groups in bit order, objects in ascending order; issue cycles of the engines are free values. -/
def sampleBody (s : State) (u : Sub) : List Nat :=
  let ps := sortBy (fun p => p) (s.img.ports.map (·.1))
  (if bitAt u.groups 0 then ps.flatMap (portRecord s) else []) ++ (if bitAt u.groups 1 then ps.flatMap (queueRecords s) else []) ++
    (if bitAt u.groups 2 then (if u.scope = 1 then [u.part] else sortBy (fun p => p) (s.img.parts.map (·.1))).flatMap (partRecord s) else []) ++
    (if bitAt u.groups 3 then (allUnits.filter fun x => decide (x.kind < 4)).flatMap fun x => engRecord s (Config.freeNat (s.freeIx + 64 * x.kind + x.num)) x else []) ++
    (if bitAt u.groups 4 then devRecord s else [])

/-- TELEM_SAMPLE (R485): due at each FT that is a multiple of the period; FT moves by up to 2 ns at a time. One that cannot be sent in time is merged
into the next, which a free bit tells, and counts in the next one's skipped count. -/
def telemSample (subId : Nat) (s : State) : State :=
  match s.mgmt.subs.find? fun u => u.subId = subId with
  | none => s
  | some u =>
    if !s.mgmt.pasteUp ∨ ft s % (u.periodMs * 1000000) ≥ 2 then s
    else
      let s := accumulate s
      let (b, s) := takeFree s
      if b % 2 = 1 then
        bumpG .telemSkip 1 (setMgmt (fun m => { m with subs := modFirst (fun x => x.subId = subId) (fun x => { x with skipped := x.skipped + 1 }) m.subs }) s)
      else tell (.sample u.sess subId s.mgmt.ctrEpoch (ft s) u.skipped (sampleBody s u))
        (setMgmt (fun m => { m with subs := modFirst (fun x => x.subId = subId) (fun x => { x with skipped := 0 }) m.subs }) { s with freeIx := s.freeIx + 256 })

/-- Row TELEM_SAMPLE. -/
def execTelemSample (subId : Nat) (s : State) : Outcome := run (telemSample subId) s

/-- EVENT_LOG_WRITE (R488): the event log ring of 5 MiB gets an entry, of 16 bytes. -/
def eventLog (s : State) : State :=
  if !s.mgmt.pasteUp then s else setNv (fun v => { v with log := ((ft s, s.mgmt.evSeq) :: v.log).take 327680 }) s

/-- Row EVENT_LOG_WRITE. -/
def execEventLogWrite (s : State) : Outcome := run eventLog s

/-! ## CXL.io, MCTP, PLDM (R376, R495) -/

/-- CXL_IO_REQUEST: a configuration, DVSEC or mailbox request of a CXL host is answered by Paste with a value the spec does not state. -/
def execCxlIoRequest (port code : Nat) (s : State) : Outcome :=
  run (fun s =>
    if portIs s port 2 0 ∧ portUp s port ∧ s.mgmt.pasteUp then let (v, s) := takeFree s; tell (.cxlIo port code v) s else s) s

/-- MCTP_CONTROL: answered by Rind, whether Paste runs or not, with what the MCTP specification gives. -/
def execMctpControl (code : Nat) (s : State) : Outcome := run (fun s => let (v, s) := takeFree s; tell (.mctp code v) s) s

/-- PLDM sensors, numbered by the model: 0 to 15 the die and stack sensors, 16 the hottest, 17 to 26 voltages, 27 to 36 currents, 37 package power, 38 the
control state. -/
def pldmValue (s : State) (n : Nat) : Option Nat :=
  if n < 16 then some (tempOf s n)
  else if n = 16 then some (hottest s)
  else if n < 27 then some (s.pwr.mvs.getD (n - 17) 0)
  else if n < 37 then some (s.pwr.currents.getD (n - 27) 0)
  else if n = 37 then some s.pwr.power
  else if n = 38 then some (ctlCode s.mgmt.state)
  else none

/-- PLDM_GET_SENSOR. -/
def execPldmGetSensor (sensor : Nat) (s : State) : Outcome :=
  run (fun s => match pldmValue s sensor with
    | some v => tell (.pldm sensor v) s
    | none => s) s

end Sys2Proof.Machine
end

