-- ==== Sys2Proof/Machine/Power.lean ====
section
/-! DEFINITION. Resets and boot (R497 to R505), power states (R506 to R508), throttles and emergencies (R509 to R512), loss of power (R513), sensors and
the TAP (chapter 18), and the activation of firmware (R490). -/

namespace Sys2Proof.Machine

/-! ## Boot (Table 17.2) -/

/-- A Rind slot whose image the boot ROM accepts (R443). The shipped image, of which the model holds no bytes, is taken as signed. -/
def romTakes (s : State) (b : Bool) : Bool :=
  let f := rindSlot s b
  f.valid && decide (s.nv.rindFloor ≤ f.svn) && (f.bytes.isEmpty || Config.aeddunKeyOk false f.bytes)

/-- The ROM starts Rind from a slot; starting the other slot ends TRIAL. -/
def rindFrom (b : Bool) (s : State) : State :=
  let old := s.nv.rindSlotB
  let s := setNv (fun v => if b = old then { v with rindBoots := if v.rindTrial ∧ !v.rindBooted then v.rindBoots + 1 else v.rindBoots }
    else { v with rindSlotB := b, rindTrial := false, rindBoots := 0, rindBooted := true }) s
  setPwr (fun w => { w with noRind := false, cdi := some ((rindSlot s b).bytes, (rindSlot s b).svn), udsLocked := true })
    (setSec (fun c => { c with rindSvn := (rindSlot s b).svn }) s)

/-- Step B2 (R443, R491): the active slot, or the other one; a TRIAL Rind that has not set its booted flag is not started a third time while the other
slot may run. The second part says whether Rind may start Paste. -/
def bootRind (s : State) : State × Bool :=
  let a := s.nv.rindSlotB
  let third := s.nv.rindTrial && !s.nv.rindBooted && decide (s.nv.rindBoots ≥ 2)
  if third && romTakes s (!a) then (setPwr (fun w => { w with resetCause := 3 }) (rindFrom (!a) s), true)
  else if romTakes s a then (rindFrom a s, !third)
  else if romTakes s (!a) then (rindFrom (!a) s, true)
  else (tell .noRind (setPwr (fun w => { w with noRind := true }) s), false)

/-- Stored images that R503 may apply: full ones above the highest serial applied, the highest first. -/
def newerImages (s : State) : List Bytes :=
  let l := [s.nv.imgA, s.nv.imgB].filter fun b => !b.isEmpty && !(imageOf b).partialSeg && decide (s.nv.serialFloor < (imageOf b).serial)
  match l with
  | [a, b] => if (imageOf a).serial < (imageOf b).serial then [b, a] else [a, b]
  | l => l

/-- The first of some images that passes is applied; one that fails is reported and skipped. The second part says whether one was applied. -/
def tryImages (old : Bool) : List Bytes → State → State × Bool
  | [], s => (s, false)
  | b :: l, s => match validate s b true old with
    | some f => tryImages old l (refuse (imageOf b).serial false f s)
    | none => (applyFull (imageOf b) s, true)

/-- The image that the boot image record names, where a slot holds it. -/
def recordedImage (s : State) : List Bytes :=
  match s.nv.bootImage with
  | none => []
  | some (n, d) => ([s.nv.imgA, s.nv.imgB].filter fun b => !b.isEmpty && !(imageOf b).partialSeg && (imageOf b).serial == n && (imageOf b).digest == d).take 1

/-- Step B7 (R503): a newer stored image, else the recorded one, else none, and the control state stays BOOT. -/
def chooseImage (s : State) : State :=
  let r := tryImages false (newerImages s) s
  let s := if r.2 then r.1 else (tryImages true (recordedImage r.1) r.1).1
  if s.mgmt.pasteUp then s else setMgmt (fun m => { m with state := .boot }) s

/-- Rind opens its key store; one whose recorded generation differs from that of OTP is refused (R451), and Rind goes on as a part without one: DESIGN CHOICE
(assumption 60). -/
def openStore (s : State) : State :=
  if s.nv.storeGen = s.nv.ownGen then s
  else setNv (fun v => { v with
    storeGen := v.ownGen, owned := false, ownerKeys := [], mgmtCa := [], crl := [], sealSecret := none, nonces := [], serialFloor := 0
    pasteFloor := 0, pasteFloorOwner := 0 }) s

/-- Set point of a rail, mV: the nominal voltage, and for VDD_CD the one last written (R520). -/
def setPoint (s : State) (rail : Nat) : Nat :=
  if rail = 0 then s.pwr.vddSet else ([750, 800, 750, 1200, 800, 800, 1100, 750, 1800, 800] : List Nat).getD rail 0

/-- What the levels of R509 are taken from: during a change of VDD_CD, and for 10 us after it, the lower of the old and the new set point (R520). -/
def levelPoint (s : State) (rail : Nat) : Nat :=
  if rail = 0 ∧ s.now < s.pwr.vddUntil then min s.pwr.vddOld s.pwr.vddSet else setPoint s rail

/-- After B4 the fused set point of VDD_CD is written, unless an AVSBus timeout has ended set-point changes (R520). The change takes as long as 10 mV/us
allow: DESIGN CHOICE (assumption 35). -/
def writeVdd (s : State) : State :=
  if s.pwr.avsStopped ∨ s.pwr.vddSet = Config.fusedPoint then s
  else
    let d := (Config.fusedPoint - s.pwr.vddSet) + (s.pwr.vddSet - Config.fusedPoint)
    setPwr (fun w => { w with vddOld := w.vddSet, vddSet := Config.fusedPoint, vddUntil := s.now + 100 * d + 10000 }) s

/-- Table 17.2 from B2 on, once the package is powered and out of reset. -/
def boot (s : State) : State :=
  if !s.pwr.on ∨ s.pwr.heldCold ∨ s.pwr.heldWarm then s
  else
    let r := bootRind s
    if r.1.pwr.noRind then r.1
    else
      let t := writeVdd (openStore r.1)
      chooseImage (if r.2 then startPaste t else setMgmt (fun m => { m with pasteUp := false }) t)

/-! ## What a reset leaves (Table 17.3) -/

/-- FAILING goes to the twin before a plane stops serving (R499); it is sent at once. -/
def failNotice (s : State) : State :=
  match twinPort s with
  | some p => if (s.twn.servesOwn ∨ s.twn.servesTwin) ∧ portUp s p then nextCtr (wireOut p (sealTwin .failing s) s) else s
  | none => s

/-- What every reset of the core die clears: tables, queues, tables of the atomic unit, Firn, engine work, taps, counters. FT and its lock state, and
registers with S access, are kept. -/
def clearCore (s : State) : State :=
  let s := if s.ftm.source = 4 ∧ s.ftm.qualified then disqualify s else s
  { s with
    img := {}, pstate := [], ports := []
    mem := { mirrorEn := s.mem.mirrorEn, winIx := ft s / 64000 }, hbm := {}, vat := {}, tmc := {}
    ftm := { s.ftm with
      activeBank := false, stagedValid := false, arm := false, late := false, actFrame := 0, actBegan := 0, active := {}, staged := {}
      sent := [], streams := [], units := [], demote := {} }
    eng := { unitsOut := s.eng.unitsOut }, eth := {}, twn := {}, taps := [], tapSel := 0, gctr := [], pctr := [] }

/-- Sensor and power registers that a reset clears; the conditions in effect, the set points and the TAP stay. -/
def clearPwr (kind cause : Nat) (w : Pwr) : Pwr :=
  { w with
    pstate := 0, parkFromHeld := false, tempSel := 0, tempMax := [], railSel := 0, resetKind := kind, resetCause := cause }

/-- A warm reset clears the package but for the VDD_AON domain (R497, Table 17.3). -/
def clearWarm (cause : Nat) (s : State) : State :=
  let s := clearCore (failNotice s)
  { s with
    ftl := {}
    flt := { lanesOut := s.flt.lanesOut, modulesOut := s.flt.modulesOut, residues := s.flt.residues }
    sec := { stackKeys := s.sec.stackKeys, transitKey := s.sec.transitKey, controlKey := s.sec.controlKey, strap := s.sec.strap, sLoaded := s.sec.sLoaded }
    mgmt := { coresOut := s.mgmt.coresOut, restarts := s.mgmt.restarts, lastCause := s.mgmt.lastCause, coreRestarts := s.mgmt.coreRestarts, ctrEpoch := s.mgmt.ctrEpoch }
    pwr := { clearPwr 1 cause s.pwr with cdi := none, udsLocked := false, warmCount := min 65535 (s.pwr.warmCount + 1) } }

/-- A cold reset clears everything but the non-volatile store; the transit and control keys are drawn anew, fused-off units stay out. What sensors and rails
measure goes on. -/
def clearCold (cause : Nat) (strap : Bool) (s : State) : State :=
  let (a, s) := takeDraw s
  let (b, s) := takeDraw s
  let t := clearCore s
  { t with
    mem := {}, ftm := {}, ftl := {}
    eng := { unitsOut := s.nv.fusedOff.filter fun u => decide (u.kind < 4) }
    flt := { lanesOut := (s.nv.fusedOff.filter fun u => decide (u.kind = 4)).map (·.num) }
    sec := { transitKey := a, controlKey := b, strap := strap }
    mgmt := { ctrEpoch := s.mgmt.ctrEpoch }
    pwr := { cdi := none, udsLocked := false, temps := s.pwr.temps, mvs := s.pwr.mvs, currents := s.pwr.currents, power := s.pwr.power, resetCause := cause } }

/-- A fabric reset clears the core die's data path; Rind, Paste and their sessions, event queues and flash maps stay (Table 17.3). A segment that waits
and a load are given up. -/
def clearFabric (cause : Nat) (s : State) : State :=
  let s := failNotice s
  let s := s.sec.segs.foldl (fun s g => bgDone 0x10 4 g.img.serial .state 0 s) s
  let s := (s.ftl.loads.filter fun l => l.flipAt.isNone).foldl (fun s l => dsAbort l s) (abandonRelocs (fun _ => true) s)
  let s := s.hbm.pins.foldl (fun s p => bgDone 0x50 0 p.range .state 0 s) s
  let s := clearCore s
  { s with
    ftl := { s.ftl with relocs := [], rebuilds := [], loads := [] }
    flt := { s.flt with calveLog := none, tableLost := false }
    sec := { s.sec with
      imgSerial := 0, imgBase := 0, imgDigest := [], loaded := false, partials := 0, segSerials := [], result := {}, segs := [], twinResults := [],
      rots := [], revoked := [], epoch := 0, tblDigest := [], tblEpoch := 0, tblPending := false, badkey := [] }
    mgmt := { s.mgmt with state := .boot, handshake := false }
    pwr := clearPwr 2 cause s.pwr }

/-! ## The resets of Table 17.1 -/

/-- COLD_RESET: PWRGD rises, or VDD_AON is lost; OWN_CLAIM is sampled (R446, R527). After a hardware trip power must have been removed (R509). -/
def coldReset (ownClaim : Bool) (s : State) : State :=
  if s.pwr.thermtrip then s else boot (clearCold 0 ownClaim s)

/-- Row COLD_RESET. -/
def execColdReset (ownClaim : Bool) (s : State) : Outcome := .next (afterCmd s (coldReset ownClaim s))

/-- PWRGD_FALL (R523): the whole package is held in reset until PWRGD rises. -/
def execPwrgdFall (s : State) : Outcome := .next (afterCmd s (setPwr (fun w => { w with heldCold := true, heldWarm := false }) s))

/-- WARM_RESET: WARM_RST_N has been low for 1 us. -/
def warmReset (cause : Nat) (s : State) : State :=
  if !s.pwr.on ∨ s.pwr.heldCold ∨ s.pwr.heldWarm then s else boot (clearWarm cause s)

/-- Row WARM_RESET. -/
def execWarmReset (s : State) : Outcome := .next (afterCmd s (warmReset 1 s))

/-- No partition is ACTIVE. -/
def noneActive (s : State) : Bool := s.pstate.all fun e => e.2 != 1

/-- DRAINED, or HELD with no partition ACTIVE (Table 17.1, R490). -/
def idlePlane (s : State) : Bool := decide (s.mgmt.state = .drained) || (decide (s.mgmt.state = .held) && noneActive s)

/-- A fabric reset: steps B4, B5, B7 and B8. -/
def fabricReset (cause : Nat) (s : State) : State := chooseImage (clearFabric cause s)

/-- RESET kind 0. -/
def resetFabric (sess : Nat) (s : State) : State :=
  if !idlePlane s then reply sess 0x90 .state [] s else fabricReset 4 (reply sess 0x90 .ok [] s)

/-- Row RESET_FABRIC. -/
def execResetFabric (sess : Nat) (s : State) : Outcome := runR (prosis sess 0x90 (resetFabric sess)) s

/-- What a partition reset does (R500). -/
def partReset (p : Nat) (s : State) : State :=
  let (k, s) := takeDraw s
  let s := setSec (fun c => { c with stackKeys := aset c.stackKeys (2 * p) k }) s
  let s := setTap p (fun t => { t with en := false }) s
  { setMgmt (fun m => { m with partTot := m.partTot.filter fun e => e.1.1 ≠ p }) s with
    hbm := { s.hbm with
      blocks := s.hbm.blocks.filter fun b => b.owner ≠ p
      pins := s.hbm.pins.filter fun x => (rangeOf s x.range).owner ≠ p } }

/-- RESET kind 1 (R497, R498): the partition is DOWN. -/
def resetPartition (sess p : Nat) (s : State) : State :=
  if p > 127 then reply sess 0x90 .badBody [] s
  else if bgHolds s 3 p then reply sess 0x90 .busy [] s
  else if partState s p ≠ 2 then reply sess 0x90 .state [] s
  else reply sess 0x90 .ok [] (partReset p s)

/-- Row RESET_PARTITION. -/
def execResetPartition (sess part : Nat) (s : State) : Outcome := runR (prosis sess 0x90 (resetPartition sess part)) s

/-- RESET kind 2 (R498, R501): the port goes down with cause 5 and trains again. -/
def resetPort (sess p : Nat) (s : State) : State :=
  if (aget s.img.ports p).isNone then reply sess 0x90 .badBody [] s else reply sess 0x90 .ok [] (retrain p s)

/-- Row RESET_PORT. -/
def execResetPort (sess port : Nat) (s : State) : Outcome := runR (prosis sess 0x90 (resetPort sess port)) s

/-! ## Activation (R490) -/

/-- FW_ACTIVATE: Paste restarts and a fabric reset follows; Rind takes a warm reset. -/
def fwActivate (sess : Nat) (paste b : Bool) (s : State) : State :=
  let f := if paste then pasteSlot s b else rindSlot s b
  if !idlePlane s then reply sess 0x21 .state [] s
  else if s.sec.segs ≠ [] ∨ s.mgmt.uploads.any (fun u => u.what == 1 && u.target == b2n paste && b == otherSlot s paste) then reply sess 0x21 .busy [] s
  else if emergency s then reply sess 0x21 .emergency [] s
  else if !f.valid then reply sess 0x21 .badBody [] s
  else
    let s := setStaged paste (if b = otherSlot s paste then false else if paste then s.nv.pasteStaged else s.nv.rindStaged) (reply sess 0x21 .ok [] s)
    if paste then
      let s := setNv (fun v => { v with
        pasteSlotB := b, pasteTrial := true
        pasteFloor := if f.owner then v.pasteFloor else max v.pasteFloor f.svn
        pasteFloorOwner := if f.owner then max v.pasteFloorOwner f.svn else v.pasteFloorOwner }) s
      fabricReset 5 (restartPaste 2 s)
    else warmReset 3 (setNv (fun v => { v with rindSlotB := b, rindTrial := true, rindBoots := 0, rindBooted := false }) s)

/-- Row FW_ACTIVATE. -/
def execFwActivate (sess : Nat) (paste slotB : Bool) (s : State) : Outcome := runR (prosis sess 0x21 (fwActivate sess paste slotB)) s

/-! ## Power states (Table 17.4) -/

/-- A REQUESTER or UPLINK port as Hold and Idle-low leave it: credits and grants are withheld; in Idle-low its lanes idle, or its CXL link is in L1. -/
def holdPort (idle : Bool) (s : State) (p : Nat) : State :=
  let r := portRec s p
  if (r.role ≠ 0 ∧ r.role ≠ 3) ∨ !portUp s p then s
  else
    let s := if r.protocol = 2 then wireOut p (.cxlCredits false) s else s
    if idle then setPort p (fun q => { q with idle := true }) s else s

/-- Hold and Idle-low begin. -/
def enterHold (idle : Bool) (s : State) : State :=
  let s := leaveHold s
  let s := setPwr (fun w => { w with pstate := if idle then 2 else 1 }) { s with eng := { s.eng with aclkGated := true } }
  (s.ports.map (·.1)).foldl (holdPort idle) s

/-- Park begins (R508): ports go down with cause 5; Vat, staging, Whey and the atomic unit's tables are lost, Firn, maps and the structure stay. A plane
with a twin stops serving first. -/
def enterPark (s : State) : State :=
  let held := decide (s.mgmt.state = .held)
  let s := if (dev s).twinPresent then
      let s := failNotice s
      setTwn (fun t => { t with servesOwn := false, servesTwin := false, state := .alone, twinInService := none }) s
    else s
  let s := setMgmt (fun m => { m with state := .parked }) s
  let s := (s.ports.map (·.1)).foldl (fun s p => portGoesDown p 5 s) s
  let s := (s.ftl.loads.filter fun l => l.flipAt.isNone).foldl (fun s l => dsAbort l s) (abandonRelocs (fun _ => true) s)
  let m := s.mem
  { s with
    ports := s.ports.map fun e => (e.1, { e.2 with q := [[], [], [], [], [], [], [], []], rspQ := [], ctlQ := [], rspUsed := 0, stg := [] })
    mem := { mirrorEn := m.mirrorEn, lockPeak := m.lockPeak, mirrorRtt := m.mirrorRtt, loadLevel := m.loadLevel, loadVatPct := m.loadVatPct,
             loadWheyPct := m.loadWheyPct, loadThrottle := m.loadThrottle, loadDone := m.loadDone, winLevel := m.winLevel, winVat := m.winVat,
             winWhey := m.winWhey, winThrottle := m.winThrottle, winIx := m.winIx, suspect := m.suspect, tagHi := m.tagHi }
    vat := { bankFail := s.vat.bankFail, failed := s.vat.failed }
    hbm := { s.hbm with selfRefresh := true, fills := [], pins := s.hbm.pins.map fun (p : Pin) => { p with fid := none } }
    ftl := { s.ftl with rebuilds := [] }
    eng := { s.eng with aclkGated := true }
    pwr := { s.pwr with pstate := 3, parkFromHeld := held } }

/-- Park ends (R508): ports train; HELD if Park was entered from it, else DRAINED. -/
def leavePark (s : State) : State :=
  let s := { s with
    hbm := { s.hbm with selfRefresh := false }, eng := { s.eng with aclkGated := false }
    pwr := { s.pwr with pstate := 0 }, mgmt := { s.mgmt with state := if s.pwr.parkFromHeld then .held else .drained } }
  startPorts s

/-- A power-state request (R506): its status and effect. -/
def powerReq (code : Nat) (s : State) : PStatus × State :=
  if code > 3 then (.badBody, s)
  else if emergency s ∧ code ≠ 3 then (.emergency, s)
  else if code = 0 then (.ok, if s.pwr.pstate = 3 then leavePark s else leaveHold s)
  else if code = 3 then
    if s.pwr.pstate = 3 then (.ok, s)
    else if noneActive s ∧ (s.mgmt.state = .drained ∨ s.mgmt.state = .held ∨ !(dev s).twinPresent) then (.ok, enterPark s)
    else (.state, s)
  else if noneActive s ∧ s.pwr.pstate ≠ 3 then (.ok, enterHold (decide (code = 2)) s)
  else (.state, s)

/-- POWER_STATE on a Prosis session. -/
def powerCmd (sess code : Nat) (s : State) : State :=
  let r := powerReq code s
  reply sess 0x91 r.1 [] r.2

/-- Rows POWER_RUN, POWER_HOLD, POWER_IDLE_LOW and POWER_PARK. -/
def execPowerRun (sess : Nat) (s : State) : Outcome := runR (prosis sess 0x91 (powerCmd sess 0)) s
def execPowerHold (sess : Nat) (s : State) : Outcome := runR (prosis sess 0x91 (powerCmd sess 1)) s
def execPowerIdleLow (sess : Nat) (s : State) : Outcome := runR (prosis sess 0x91 (powerCmd sess 2)) s
def execPowerPark (sess : Nat) (s : State) : Outcome := runR (prosis sess 0x91 (powerCmd sess 3)) s

/-- PLDM_SET_STATE_EFFECTER (R495, R506): the same requests, by the BMC. -/
def execPldmSetStateEffecter (code : Nat) (s : State) : Outcome :=
  runR (fun s => let r := powerReq code s; tell (.pldmSet r.1) r.2) s

/-! ## Supply and thermal conditions (Table 17.5) -/

/-- The first event since the last clear is captured (Table 17.11). -/
def capture (kind which value : Nat) (s : State) : State :=
  let t := ft s
  setPwr (fun w => { w with event := w.event.orElse fun _ => some (kind, which, value, t) }) s

/-- SUPPLY_WARNING: a rail below 95 % of its set point for 50 ns. -/
def supplyWarning (rail mv : Nat) (s : State) : State :=
  if rail ≥ 10 ∨ 20 * mv ≥ 19 * levelPoint s rail ∨ s.pwr.supplyThr then s
  else bumpG .throttleCnt 1 (capture 0 rail mv (setPwr (fun w => { w with supplyThr := true }) s))

/-- Row SUPPLY_WARNING. -/
def execSupplyWarning (rail mv : Nat) (s : State) : Outcome := run (supplyWarning rail mv) s

/-- SUPPLY_WARNING_END: 100 us after every rail is back. -/
def execSupplyWarningEnd (s : State) : Outcome := run (setPwr fun w => { w with supplyThr := false }) s

/-- SUPPLY_RESET: a rail below 90 % of its set point. The package is held in a warm reset, or for VDD_AON in a cold one. -/
def supplyReset (rail mv : Nat) (s : State) : State :=
  if rail ≥ 10 ∨ 10 * mv ≥ 9 * levelPoint s rail then s
  else
    let s := capture 1 rail mv s
    let e := s.pwr.event
    let s := if rail = 9 then clearCold 2 s.sec.strap s else clearWarm 2 s
    setPwr (fun w => { w with heldWarm := true, heldCold := decide (rail = 9), supplyThr := false, event := e }) s

/-- Row SUPPLY_RESET. -/
def execSupplyReset (rail mv : Nat) (s : State) : Outcome := run (supplyReset rail mv) s

/-- SUPPLY_RESET_RELEASE: every rail has been above 95 % for 1 ms; boot goes on. -/
def supplyRelease (s : State) : State := if s.pwr.heldWarm then boot (setPwr (fun w => { w with heldWarm := false, heldCold := false }) s) else s

/-- Row SUPPLY_RESET_RELEASE. -/
def execSupplyResetRelease (s : State) : Outcome := .next (afterCmd s (supplyRelease s))

/-- Ports with a lane on the lane die of a sensor, two sensors to a die (Table 18.11, R517). -/
def portsOfSensor (s : State) (n : Nat) : List Nat :=
  if n < 3 ∨ n > 10 then [] else ((s.img.ports.filter fun e => decide (e.2.firstLane / 128 ≤ (n - 3) / 2 ∧ (n - 3) / 2 ≤ (e.2.firstLane + e.2.width - 1) / 128)).map (·.1))

/-- THERMAL_THROTTLE: a sensor at 100 C or above; ports of a hot lane die are paced. -/
def thermalThrottle (n tempQ : Nat) (s : State) : State :=
  if n ≥ 16 ∨ signed 16 tempQ < 400 then s
  else
    let s := (portsOfSensor s n).foldl (fun s p => setPort p (fun q => { q with paced := true }) s) s
    if s.pwr.thermalThr then s
    else bumpG .throttleCnt 1 (capture 2 n tempQ (setPwr (fun w => { w with thermalThr := true }) s))

/-- Row THERMAL_THROTTLE. -/
def execThermalThrottle (sensor tempQ : Nat) (s : State) : Outcome := run (thermalThrottle sensor tempQ) s

/-- THERMAL_THROTTLE_END: every sensor below 97 C for 10 ms. -/
def throttleEnd (s : State) : State :=
  { setPwr (fun w => { w with thermalThr := false }) s with ports := s.ports.map fun e => (e.1, { e.2 with paced := false }) }

/-- Row THERMAL_THROTTLE_END. -/
def execThermalThrottleEnd (s : State) : Outcome := run throttleEnd s

/-- THERMAL_EMERGENCY (R511): a sensor at 110 C or above. The event is reported, as one of kind 6, the calving, with its cause and the sensor's number, whose
unit_kind Table 14.3 does not name (assumption 57); the twin is told, every partition is calved with cause 8, and the plane parks. -/
def thermalEmergency (n tempQ : Nat) (s : State) : State :=
  if n ≥ 16 ∨ signed 16 tempQ < 440 then s
  else
    let s := capture 3 n tempQ (setPwr (fun w => { w with thermEmerg := true }) s)
    let u := takeFree s
    let s := faultEvent 6 (u.1 % 16) n 8 0 u.2
    if s.pwr.pstate = 3 then s else enterPark (settleAll (calve 8 allParts (failNotice s)))

/-- Row THERMAL_EMERGENCY. -/
def execThermalEmergency (sensor tempQ : Nat) (s : State) : Outcome := runR (thermalEmergency sensor tempQ) s

/-- EMERGENCY_END: every die sensor has read below 95 C for 10 ms; the plane stays in Park. -/
def execEmergencyEnd (s : State) : Outcome := run (setPwr fun w => { w with thermEmerg := false }) s

/-- HARDWARE_TRIP: a sensor at 120 C; THERMTRIP_N is low until power is removed, and the package is held in cold reset. -/
def execHardwareTrip (sensor : Nat) (s : State) : Outcome :=
  .next (afterCmd s (if s.pwr.on ∧ sensor < 16 then setPwr (fun w => { w with thermtrip := true, heldCold := true, heldWarm := false }) s else s))

/-- AVS_TIMEOUT (R520): a fault event, of a kind Table 14.3 does not name, and no further set-point change until a cold reset. -/
def avsTimeout (rail : Nat) (s : State) : State :=
  if rail ≥ 10 then s
  else
    let (k, s) := takeFree s
    let (u, s) := takeFree s
    setPwr (fun w => { w with avsStopped := true }) (faultEvent (k % 16) (u % 16) rail 0 0 s)

/-- Row AVS_TIMEOUT. -/
def execAvsTimeout (rail : Nat) (s : State) : Outcome := run (avsTimeout rail) s

/-- POWER_LOSS (R513): the package is off; FT is lost unless VDD_AON stayed up (R180). What else is lost, the cold reset that follows clears. -/
def powerLoss (aonKept : Bool) (s : State) : State :=
  { setPwr (fun w => { w with on := false, heldCold := false, heldWarm := false, thermtrip := false }) s with ftm := if aonKept then s.ftm else {} }

/-- Row POWER_LOSS. -/
def execPowerLoss (aonKept : Bool) (s : State) : Outcome := .next (afterCmd s (powerLoss aonKept s))

/-! ## Sensors and the TAP (R534, R529) -/

/-- A list of registers of 16 bits. -/
def regs16 (n : Nat) (l : List Nat) : List Nat := (List.range n).map fun i => l.getD i 0 % 65536

/-- SENSOR_REGISTER_UPDATE: readings, maxima and the peak; the canary set is due when the hottest sensor crosses a multiple of 5 C (R414). -/
def sensorUpdate (temps mvs currents : List Nat) (power : Nat) (s : State) : State :=
  let before := hottestQ s
  let ts := regs16 16 temps
  let hi (i : Nat) : Nat := if signed 16 (s.pwr.tempMax.getD i 0) < signed 16 (ts.getD i 0) then ts.getD i 0 else s.pwr.tempMax.getD i 0
  let s := setPwr (fun w => { w with
    temps := ts, tempMax := (List.range 16).map hi, mvs := regs16 10 mvs, setMv := (List.range 10).map (setPoint s), currents := regs16 10 currents
    power := power % 65536, powerPeak := max w.powerPeak (power % 65536) }) s
  if before / 20 = hottestQ s / 20 then s else { s with flt := { s.flt with canaryDue := true } }

/-- Row SENSOR_REGISTER_UPDATE. -/
def execSensorRegisterUpdate (temps mvs currents : List Nat) (power : Nat) (s : State) : Outcome := run (sensorUpdate temps mvs currents power) s

/-- TAP_INSTRUCTION_LOAD (R529): 0 BYPASS, 1 IDCODE, 2 SAMPLE/PRELOAD, 3 EXTEST, 4 EXTEST_PULSE, 5 EXTEST_TRAIN, 6 CLAMP, 7 HIGHZ, numbered by the model.
The last five take pins from their function, and load only while WARM_RST_N is low; anything else loads BYPASS. -/
def tapLoad (ir : Nat) (low : Bool) (s : State) : State :=
  let x := if ir > 7 ∨ (ir ≥ 3 ∧ !low) then 0 else ir
  if s.pwr.on then tell (.tap x (if x = 1 then some 0x107200A9 else none)) (setPwr (fun w => { w with tapIr := x }) s) else s

/-- Row TAP_INSTRUCTION_LOAD. -/
def execTapInstructionLoad (ir : Nat) (warmRstLow : Bool) (s : State) : Outcome := .next (afterCmd s (tapLoad ir warmRstLow s))

end Sys2Proof.Machine
end

