-- ==== Sys2Proof/Machine/Dispatch.lean ====
section
/-! DEFINITION. One arm per command: its effect on everything but the queue. -/

namespace Sys2Proof.Machine

/-- The effect of a command (the caller has taken it from the queue). -/
def exec (i : Instr) (s : State) : Host.Outcome State Fault Refusal :=
  match i with
  | .loadLine h => Sys2Proof.Machine.execLoadLine h s
  | .loadStream h len => Sys2Proof.Machine.execLoadStream h len s
  | .storeLine h data => Sys2Proof.Machine.execStoreLine h data s
  | .storeMasked h data mask => Sys2Proof.Machine.execStoreMasked h data mask s
  | .storeGuarded h data => Sys2Proof.Machine.execStoreGuarded h data s
  | .atAdd h opa => Sys2Proof.Machine.execAtAdd h opa s
  | .atAnd h opa => Sys2Proof.Machine.execAtAnd h opa s
  | .atOr h opa => Sys2Proof.Machine.execAtOr h opa s
  | .atXor h opa => Sys2Proof.Machine.execAtXor h opa s
  | .atSwap h opa => Sys2Proof.Machine.execAtSwap h opa s
  | .atMin h opa => Sys2Proof.Machine.execAtMin h opa s
  | .atMax h opa => Sys2Proof.Machine.execAtMax h opa s
  | .atUmin h opa => Sys2Proof.Machine.execAtUmin h opa s
  | .atUmax h opa => Sys2Proof.Machine.execAtUmax h opa s
  | .cas64 h cmp swp => Sys2Proof.Machine.execCas64 h cmp swp s
  | .cas128 h cmp swp => Sys2Proof.Machine.execCas128 h cmp swp s
  | .flushRange h len => Sys2Proof.Machine.execFlushRange h len s
  | .fence h => Sys2Proof.Machine.execFence h s
  | .publish h rbase rlen expd new => Sys2Proof.Machine.execPublish h rbase rlen expd new s
  | .opFlit h flit => Sys2Proof.Machine.execOpFlit h flit s
  | .twinForwardedRequest ref h k view => Sys2Proof.Machine.execTwinForwardedRequest ref h k view s
  | .forwardedResponse ref r => Sys2Proof.Machine.execForwardedResponse ref r s
  | .trayResponse aid st data => Sys2Proof.Machine.execTrayResponse aid st data s
  | .dispatchDeadline req => Sys2Proof.Machine.execDispatchDeadline req s
  | .executionDeadline req => Sys2Proof.Machine.execExecutionDeadline req s
  | .trayAnswerTimeout aid => Sys2Proof.Machine.execTrayAnswerTimeout aid s
  | .lineLockAcquired req => Sys2Proof.Machine.execLineLockAcquired req s
  | .mirrorEntry m => Sys2Proof.Machine.execMirrorEntry m s
  | .mirrorAck req => Sys2Proof.Machine.execMirrorAck req s
  | .mirrorDone rid tag => Sys2Proof.Machine.execMirrorDone rid tag s
  | .mirrorDoneAck req => Sys2Proof.Machine.execMirrorDoneAck req s
  | .idemEntryExpire rid tag => Sys2Proof.Machine.execIdemEntryExpire rid tag s
  | .shadowEntryFree rid tag => Sys2Proof.Machine.execShadowEntryFree rid tag s
  | .mirrorCatchupDone => Sys2Proof.Machine.execMirrorCatchupDone s
  | .fenceComplete req => Sys2Proof.Machine.execFenceComplete req s
  | .fenceTimeout req => Sys2Proof.Machine.execFenceTimeout req s
  | .drainMarkerReturn mid => Sys2Proof.Machine.execDrainMarkerReturn mid s
  | .loadWindowEnd => Sys2Proof.Machine.execLoadWindowEnd s
  | .cxlMemrd port dpa => Sys2Proof.Machine.execCxlMemrd port dpa s
  | .cxlMemwr port dpa data => Sys2Proof.Machine.execCxlMemwr port dpa data s
  | .cxlMemwrptl port dpa data mask => Sys2Proof.Machine.execCxlMemwrptl port dpa data mask s
  | .cxlMemwrPoison port dpa data => Sys2Proof.Machine.execCxlMemwrPoison port dpa data s
  | .cxlWerrCompletion req => Sys2Proof.Machine.execCxlWerrCompletion req s
  | .auCtlWrite v => Sys2Proof.Machine.execAuCtlWrite v s
  | .accessDrainDone => Sys2Proof.Machine.execAccessDrainDone s
  | .firnFillComplete fid => Sys2Proof.Machine.execFirnFillComplete fid s
  | .stackChannelOut chan => Sys2Proof.Machine.execStackChannelOut chan s
  | .firnSweepDone range => Sys2Proof.Machine.execFirnSweepDone range s
  | .flashRebuild reb => Sys2Proof.Machine.execFlashRebuild reb s
  | .relocationRequest port pblock => Sys2Proof.Machine.execRelocationRequest port pblock s
  | .relocationStart port pblock => Sys2Proof.Machine.execRelocationStart port pblock s
  | .relocationFlip port pblock => Sys2Proof.Machine.execRelocationFlip port pblock s
  | .relocationErase port pblock => Sys2Proof.Machine.execRelocationErase port pblock s
  | .relocationProgFail port pblock => Sys2Proof.Machine.execRelocationProgFail port pblock s
  | .disturbLimit port pblock => Sys2Proof.Machine.execDisturbLimit port pblock s
  | .ftlTwinSync => Sys2Proof.Machine.execFtlTwinSync s
  | .datasetFlip range => Sys2Proof.Machine.execDatasetFlip range s
  | .datasetOldErase range => Sys2Proof.Machine.execDatasetOldErase range s
  | .ftlEventRead => Sys2Proof.Machine.execFtlEventRead s
  | .ethFrame port fcsOk frame => Sys2Proof.Machine.execEthFrame port fcsOk frame s
  | .msg port rid part cmark frame => Sys2Proof.Machine.execMsg port rid part cmark frame s
  | .data h => Sys2Proof.Machine.execData h s
  | .reduce h => Sys2Proof.Machine.execReduce h s
  | .msgAgeDiscard port unit => Sys2Proof.Machine.execMsgAgeDiscard port unit s
  | .bankFail bank => Sys2Proof.Machine.execBankFail bank s
  | .stagingAdmit port unit => Sys2Proof.Machine.execStagingAdmit port unit s
  | .rspReservation req => Sys2Proof.Machine.execRspReservation req s
  | .egressSelect port unc => Sys2Proof.Machine.execEgressSelect port unc s
  | .portDown port cause => Sys2Proof.Machine.execPortDown port cause s
  | .limitHoldRelease req => Sys2Proof.Machine.execLimitHoldRelease req s
  | .tmcIndRead => Sys2Proof.Machine.execTmcIndRead s
  | .tmcIndWrite => Sys2Proof.Machine.execTmcIndWrite s
  | .ppsEdge => Sys2Proof.Machine.execPpsEdge s
  | .ptpSync mgmtPort domain sync => Sys2Proof.Machine.execPtpSync mgmtPort domain sync s
  | .tosServoUpdate => Sys2Proof.Machine.execTosServoUpdate s
  | .sourceQualify => Sys2Proof.Machine.execSourceQualify s
  | .sourceDisqualify => Sys2Proof.Machine.execSourceDisqualify s
  | .holdoverExpire => Sys2Proof.Machine.execHoldoverExpire s
  | .schedActivate => Sys2Proof.Machine.execSchedActivate s
  | .ppsOutRise => Sys2Proof.Machine.execPpsOutRise s
  | .ppsOutFall => Sys2Proof.Machine.execPpsOutFall s
  | .tosSend port => Sys2Proof.Machine.execTosSend port s
  | .ftmCtlWrite v => Sys2Proof.Machine.execFtmCtlWrite v s
  | .schedArm actFrame => Sys2Proof.Machine.execSchedArm actFrame s
  | .schedBankSwap => Sys2Proof.Machine.execSchedBankSwap s
  | .schedWindowOpen win => Sys2Proof.Machine.execSchedWindowOpen win s
  | .streamUnitRead schedId => Sys2Proof.Machine.execStreamUnitRead schedId s
  | .grantIssue port allowance perSlot => Sys2Proof.Machine.execGrantIssue port allowance perSlot s
  | .grantLapse gid => Sys2Proof.Machine.execGrantLapse gid s
  | .scrAlloc part slot => Sys2Proof.Machine.execScrAlloc part slot s
  | .scrFree part slot => Sys2Proof.Machine.execScrFree part slot s
  | .scrFill part slot => Sys2Proof.Machine.execScrFill part slot s
  | .proxyAtAdd part slot => Sys2Proof.Machine.execProxyAtAdd part slot s
  | .proxyAtAnd part slot => Sys2Proof.Machine.execProxyAtAnd part slot s
  | .proxyAtOr part slot => Sys2Proof.Machine.execProxyAtOr part slot s
  | .proxyAtXor part slot => Sys2Proof.Machine.execProxyAtXor part slot s
  | .proxyAtSwap part slot => Sys2Proof.Machine.execProxyAtSwap part slot s
  | .proxyAtMin part slot => Sys2Proof.Machine.execProxyAtMin part slot s
  | .proxyAtMax part slot => Sys2Proof.Machine.execProxyAtMax part slot s
  | .proxyAtUmin part slot => Sys2Proof.Machine.execProxyAtUmin part slot s
  | .proxyAtUmax part slot => Sys2Proof.Machine.execProxyAtUmax part slot s
  | .proxyCas64 part slot => Sys2Proof.Machine.execProxyCas64 part slot s
  | .proxyCas128 part slot => Sys2Proof.Machine.execProxyCas128 part slot s
  | .proxyStoreGuarded part slot => Sys2Proof.Machine.execProxyStoreGuarded part slot s
  | .proxyFlushRange part slot => Sys2Proof.Machine.execProxyFlushRange part slot s
  | .proxyFence part slot => Sys2Proof.Machine.execProxyFence part slot s
  | .proxyPublish part slot => Sys2Proof.Machine.execProxyPublish part slot s
  | .flitStart part slot => Sys2Proof.Machine.execFlitStart part slot s
  | .flitTimeLimit part slot => Sys2Proof.Machine.execFlitTimeLimit part slot s
  | .engineAccessReturn aid st data => Sys2Proof.Machine.execEngineAccessReturn aid st data s
  | .engCellReserve part slot => Sys2Proof.Machine.execEngCellReserve part slot s
  | .engineCompletion part slot => Sys2Proof.Machine.execEngineCompletion part slot s
  | .scratchZeroed => Sys2Proof.Machine.execScratchZeroed s
  | .groupArm part slot => Sys2Proof.Machine.execGroupArm part slot s
  | .groupDisarm part slot => Sys2Proof.Machine.execGroupDisarm part slot s
  | .groupRelease group => Sys2Proof.Machine.execGroupRelease group s
  | .reduceMem part slot => Sys2Proof.Machine.execReduceMem part slot s
  | .chunkTimeout group seq => Sys2Proof.Machine.execChunkTimeout group seq s
  | .gather part slot => Sys2Proof.Machine.execGather part slot s
  | .scatter part slot => Sys2Proof.Machine.execScatter part slot s
  | .scatterAdd part slot => Sys2Proof.Machine.execScatterAdd part slot s
  | .scatterAddPiece part slot => Sys2Proof.Machine.execScatterAddPiece part slot s
  | .collDefine part slot => Sys2Proof.Machine.execCollDefine part slot s
  | .collDrop part slot => Sys2Proof.Machine.execCollDrop part slot s
  | .collDropDone coll => Sys2Proof.Machine.execCollDropDone coll s
  | .append part slot => Sys2Proof.Machine.execAppend part slot s
  | .scan part slot => Sys2Proof.Machine.execScan part slot s
  | .compact part slot => Sys2Proof.Machine.execCompact part slot s
  | .compactFlip coll => Sys2Proof.Machine.execCompactFlip coll s
  | .compactRecord coll => Sys2Proof.Machine.execCompactRecord coll s
  | .collRebase part slot => Sys2Proof.Machine.execCollRebase part slot s
  | .collAck part slot => Sys2Proof.Machine.execCollAck part slot s
  | .seqOpen part slot => Sys2Proof.Machine.execSeqOpen part slot s
  | .seqClose part slot => Sys2Proof.Machine.execSeqClose part slot s
  | .seqCloseComplete part slot => Sys2Proof.Machine.execSeqCloseComplete part slot s
  | .pageMap part slot => Sys2Proof.Machine.execPageMap part slot s
  | .kvAppend part slot => Sys2Proof.Machine.execKvAppend part slot s
  | .attend part slot => Sys2Proof.Machine.execAttend part slot s
  | .flitReceive port fecOk flit => Sys2Proof.Machine.execFlitReceive port fecOk flit s
  | .ack port fseq => Sys2Proof.Machine.execAck port fseq s
  | .nak port fseq => Sys2Proof.Machine.execNak port fseq s
  | .ackTimer port => Sys2Proof.Machine.execAckTimer port s
  | .resendTimeout port => Sys2Proof.Machine.execResendTimeout port s
  | .credit port req msgs => Sys2Proof.Machine.execCredit port req msgs s
  | .tos port echoValid txPs tTx e1Ps e1 e2Ps e2 arrivalPs arrival => Sys2Proof.Machine.execTos port echoValid txPs tTx e1Ps e1 e2Ps e2 arrivalPs arrival s
  | .grant port allowance perSlot expiry => Sys2Proof.Machine.execGrant port allowance perSlot expiry s
  | .cap port role gen width reqCr msgCr grantKib devId claims => Sys2Proof.Machine.execCap port role gen width reqCr msgCr grantKib devId claims s
  | .down port cause => Sys2Proof.Machine.execDown port cause s
  | .narrow port mask fseq => Sys2Proof.Machine.execNarrow port mask fseq s
  | .linkSilence port => Sys2Proof.Machine.execLinkSilence port s
  | .laneDegrade port lane => Sys2Proof.Machine.execLaneDegrade port lane s
  | .cxlLinkDown port => Sys2Proof.Machine.execCxlLinkDown port s
  | .ethLinkLoss port => Sys2Proof.Machine.execEthLinkLoss port s
  | .ucieModuleFail module => Sys2Proof.Machine.execUcieModuleFail module s
  | .trainingStepComplete port passLanes result => Sys2Proof.Machine.execTrainingStepComplete port passLanes result s
  | .trainingStepTimeout port => Sys2Proof.Machine.execTrainingStepTimeout port s
  | .portRetrain port => Sys2Proof.Machine.execPortRetrain port s
  | .portDisable port on => Sys2Proof.Machine.execPortDisable port on s
  | .flashResponse aid ok data => Sys2Proof.Machine.execFlashResponse aid ok data s
  | .flashCmdTimeout aid => Sys2Proof.Machine.execFlashCmdTimeout aid s
  | .l2Age vid mac => Sys2Proof.Machine.execL2Age vid mac s
  | .gatewayFrame port h => Sys2Proof.Machine.execGatewayFrame port h s
  | .gwPieceResend window block piece => Sys2Proof.Machine.execGwPieceResend window block piece s
  | .twinHeartbeat claims => Sys2Proof.Machine.execTwinHeartbeat claims s
  | .twinHeartbeatSend => Sys2Proof.Machine.execTwinHeartbeatSend s
  | .failing => Sys2Proof.Machine.execFailing s
  | .twinCalve part => Sys2Proof.Machine.execTwinCalve part s
  | .adoptionComplete => Sys2Proof.Machine.execAdoptionComplete s
  | .resyncState p => Sys2Proof.Machine.execResyncState p s
  | .resyncTransferDone x => Sys2Proof.Machine.execResyncTransferDone x s
  | .resyncHandover => Sys2Proof.Machine.execResyncHandover s
  | .imagePut sess target offset total bytes => Sys2Proof.Machine.execImagePut sess target offset total bytes s
  | .segmentTwinResult serial valid digest => Sys2Proof.Machine.execSegmentTwinResult serial valid digest s
  | .segmentPhase2 => Sys2Proof.Machine.execSegmentPhase2 s
  | .sramUncorrectable site => Sys2Proof.Machine.execSramUncorrectable site s
  | .residueMismatch u part slot => Sys2Proof.Machine.execResidueMismatch u part slot s
  | .canary u pass => Sys2Proof.Machine.execCanary u pass s
  | .canarySetRun failed => Sys2Proof.Machine.execCanarySetRun failed s
  | .issueRateCanary u pass => Sys2Proof.Machine.execIssueRateCanary u pass s
  | .faultEventRead => Sys2Proof.Machine.execFaultEventRead s
  | .calve sess parts => Sys2Proof.Machine.execCalve sess parts s
  | .calveRequest parts => Sys2Proof.Machine.execCalveRequest parts s
  | .markerTimeout mid => Sys2Proof.Machine.execMarkerTimeout mid s
  | .tapSet sess part cfg => Sys2Proof.Machine.execTapSet sess part cfg s
  | .tapControlPage part => Sys2Proof.Machine.execTapControlPage part s
  | .badkeyAlert part => Sys2Proof.Machine.execBadkeyAlert part s
  | .tableDigestRecompute => Sys2Proof.Machine.execTableDigestRecompute s
  | .keyRotate by_ range => Sys2Proof.Machine.execKeyRotate by_ range s
  | .keyReport sess part => Sys2Proof.Machine.execKeyReport sess part s
  | .nonce sess => Sys2Proof.Machine.execNonce sess s
  | .sealSecretSet sess secret sg => Sys2Proof.Machine.execSealSecretSet sess secret sg s
  | .sealExport sess => Sys2Proof.Machine.execSealExport sess s
  | .sealImport sess blob sg => Sys2Proof.Machine.execSealImport sess blob sg s
  | .ownerKeyAdd sess keyId key sg => Sys2Proof.Machine.execOwnerKeyAdd sess keyId key sg s
  | .ownerKeyRevoke sess keyId sg => Sys2Proof.Machine.execOwnerKeyRevoke sess keyId sg s
  | .mgmtCaSet sess ca sg => Sys2Proof.Machine.execMgmtCaSet sess ca sg s
  | .crlSet sess serials sg => Sys2Proof.Machine.execCrlSet sess serials sg s
  | .release sess sg => Sys2Proof.Machine.execRelease sess sg s
  | .claim sess keyId key ca => Sys2Proof.Machine.execClaim sess keyId key ca s
  | .getVersion sess => Sys2Proof.Machine.execGetVersion sess s
  | .getCapabilities sess => Sys2Proof.Machine.execGetCapabilities sess s
  | .negotiateAlgorithms sess => Sys2Proof.Machine.execNegotiateAlgorithms sess s
  | .getDigests sess => Sys2Proof.Machine.execGetDigests sess s
  | .getCertificate sess => Sys2Proof.Machine.execGetCertificate sess s
  | .challenge sess nonce => Sys2Proof.Machine.execChallenge sess nonce s
  | .getMeasurements sess index nonce => Sys2Proof.Machine.execGetMeasurements sess index nonce s
  | .keyExchange sess claimSession => Sys2Proof.Machine.execKeyExchange sess claimSession s
  | .finish sess clientCa certSerial => Sys2Proof.Machine.execFinish sess clientCa certSerial s
  | .heartbeat sess => Sys2Proof.Machine.execHeartbeat sess s
  | .endSession sess => Sys2Proof.Machine.execEndSession sess s
  | .hello sess fmLevel take => Sys2Proof.Machine.execHello sess fmLevel take s
  | .bye sess => Sys2Proof.Machine.execBye sess s
  | .fwStage sess paste offset total bytes => Sys2Proof.Machine.execFwStage sess paste offset total bytes s
  | .fwActivate sess paste slotB => Sys2Proof.Machine.execFwActivate sess paste slotB s
  | .fwCommit sess paste => Sys2Proof.Machine.execFwCommit sess paste s
  | .fwStatus sess => Sys2Proof.Machine.execFwStatus sess s
  | .planeDrain sess => Sys2Proof.Machine.execPlaneDrain sess s
  | .drainComplete => Sys2Proof.Machine.execDrainComplete s
  | .planeResume sess => Sys2Proof.Machine.execPlaneResume sess s
  | .adopt sess => Sys2Proof.Machine.execAdopt sess s
  | .timeSetSeconds sess secs => Sys2Proof.Machine.execTimeSetSeconds sess secs s
  | .streamStart sess schedId frame => Sys2Proof.Machine.execStreamStart sess schedId frame s
  | .streamStop sess schedId => Sys2Proof.Machine.execStreamStop sess schedId s
  | .firnPin sess range => Sys2Proof.Machine.execFirnPin sess range s
  | .firnUnpin sess range => Sys2Proof.Machine.execFirnUnpin sess range s
  | .datasetLoad sess target source => Sys2Proof.Machine.execDatasetLoad sess target source s
  | .regRead sess offset count => Sys2Proof.Machine.execRegRead sess offset count s
  | .telemSubscribe sess periodMs scope part groups => Sys2Proof.Machine.execTelemSubscribe sess periodMs scope part groups s
  | .telemCancel sess subId => Sys2Proof.Machine.execTelemCancel sess subId s
  | .telemSample subId => Sys2Proof.Machine.execTelemSample subId s
  | .counterAccumulate => Sys2Proof.Machine.execCounterAccumulate s
  | .eventLogWrite => Sys2Proof.Machine.execEventLogWrite s
  | .pasteHeartbeatTimeout core => Sys2Proof.Machine.execPasteHeartbeatTimeout core s
  | .coreUncorrectable core => Sys2Proof.Machine.execCoreUncorrectable core s
  | .mctpControl code => Sys2Proof.Machine.execMctpControl code s
  | .pldmGetSensor sensor => Sys2Proof.Machine.execPldmGetSensor sensor s
  | .pldmSetStateEffecter code => Sys2Proof.Machine.execPldmSetStateEffecter code s
  | .coldReset ownClaim => Sys2Proof.Machine.execColdReset ownClaim s
  | .warmReset => Sys2Proof.Machine.execWarmReset s
  | .pwrgdFall => Sys2Proof.Machine.execPwrgdFall s
  | .resetFabric sess => Sys2Proof.Machine.execResetFabric sess s
  | .resetPartition sess part => Sys2Proof.Machine.execResetPartition sess part s
  | .resetPort sess port => Sys2Proof.Machine.execResetPort sess port s
  | .resetPaste sess => Sys2Proof.Machine.execResetPaste sess s
  | .powerRun sess => Sys2Proof.Machine.execPowerRun sess s
  | .powerHold sess => Sys2Proof.Machine.execPowerHold sess s
  | .powerIdleLow sess => Sys2Proof.Machine.execPowerIdleLow sess s
  | .powerPark sess => Sys2Proof.Machine.execPowerPark sess s
  | .supplyWarning rail mv => Sys2Proof.Machine.execSupplyWarning rail mv s
  | .supplyWarningEnd => Sys2Proof.Machine.execSupplyWarningEnd s
  | .supplyReset rail mv => Sys2Proof.Machine.execSupplyReset rail mv s
  | .thermalThrottle sensor tempQ => Sys2Proof.Machine.execThermalThrottle sensor tempQ s
  | .thermalThrottleEnd => Sys2Proof.Machine.execThermalThrottleEnd s
  | .thermalEmergency sensor tempQ => Sys2Proof.Machine.execThermalEmergency sensor tempQ s
  | .emergencyEnd => Sys2Proof.Machine.execEmergencyEnd s
  | .hardwareTrip sensor => Sys2Proof.Machine.execHardwareTrip sensor s
  | .avsTimeout rail => Sys2Proof.Machine.execAvsTimeout rail s
  | .powerLoss aonKept => Sys2Proof.Machine.execPowerLoss aonKept s
  | .tempMaxClear v => Sys2Proof.Machine.execTempMaxClear v s
  | .rcRegisterRead offset => Sys2Proof.Machine.execRcRegisterRead offset s
  | .registerWrite offset v => Sys2Proof.Machine.execRegisterWrite offset v s
  | .pasteRestartRequest => Sys2Proof.Machine.execPasteRestartRequest s
  | .policerTokensPositive pol => Sys2Proof.Machine.execPolicerTokensPositive pol s
  | .supplyResetRelease => Sys2Proof.Machine.execSupplyResetRelease s
  | .cxlLinkUp port width => Sys2Proof.Machine.execCxlLinkUp port width s
  | .ethLinkUp port => Sys2Proof.Machine.execEthLinkUp port s
  | .cxlLinkNarrow port width => Sys2Proof.Machine.execCxlLinkNarrow port width s
  | .cxlIoRequest port code => Sys2Proof.Machine.execCxlIoRequest port code s
  | .prosisSessionOpen sess clientCa certSerial claimSession => Sys2Proof.Machine.execProsisSessionOpen sess clientCa certSerial claimSession s
  | .prosisSessionClose sess => Sys2Proof.Machine.execProsisSessionClose sess s
  | .tapInstructionLoad ir warmRstLow => Sys2Proof.Machine.execTapInstructionLoad ir warmRstLow s
  | .sensorRegisterUpdate temps mvs currents power => Sys2Proof.Machine.execSensorRegisterUpdate temps mvs currents power s

end Sys2Proof.Machine
end

