-- ==== Sys2Proof/Machine/Tick.lean ====
section
/-! DEFINITION. What passes by itself: a nanosecond of the 1 ns counter, on an empty queue (assumption 2). -/

namespace Sys2Proof.Machine

/-- FT advances by one increment in each of the five TCLK cycles of 8 ns (R179). -/
def ftTick (m : Ftm) : Ftm :=
  let n := m.tclk + 5
  { m with tclk := n % 8, ftFix := (m.ftFix + n / 8 * m.incr) % 2 ^ 104 }

/-- A shaper's credit over 1 ns (R166): it rises while its queue holds a unit and is not sending, or is empty and in debt; an empty queue keeps no
credit; class 7 slot time holds it; a unit being sent has taken its whole change when it began. `idle_slope` is in MB/s, which is milli-bytes per nanosecond. -/
def shaperTick (s : State) (x : Nat × Shp) : Nat × Shp :=
  let r := shaperNow s x.1
  let p := x.1 / 8
  let c := x.1 % 8
  let q := port s p
  let v := x.2.credit
  if !r.shaped ∨ slotTime s p ∨ (q.sendCls = some c ∧ s.now < q.busyUntil) then x
  else if (queue q c).isEmpty then (x.1, { credit := if 0 < v then 0 else min 0 (v + (r.idleSlope : Nat)) })
  else (x.1, { credit := min ((r.hiCredit * 64000 : Nat) : Int) (v + (r.idleSlope : Nat)) })

/-- Every shaped queue has its credit. -/
def shapers (s : State) : List (Nat × Shp) :=
  ((shapersNow s).filter fun e => e.2.shaped).map fun e => shaperTick s (e.1, agetD s.tmc.shps e.1 {})

/-- One nanosecond of a package that is powered and out of reset; FT also runs through a warm reset (R180). Shapers see the nanosecond that
ends, and a channel of the stacks beyond R81's threshold leaves. -/
def tick (s : State) : State :=
  let aon := s.pwr.on && !s.pwr.heldCold
  let shps := shapers s
  let s := { s with now := s.now + 1, ftm := if aon then ftTick s.ftm else s.ftm }
  track <| if !live s then s
  else { settleSegs (chanThreshold (bumpG .throttleNs (b2n (throttled s)) { s with tmc := { s.tmc with shps := shps } })) with pending := s.pending, now := s.now }

end Sys2Proof.Machine
end

