-- ==== Sys2Proof/Safety.lean ====
section
/-! DEFINITION. What claims about the plane are stated in: when nothing waits to go on by itself, when the LOAD window has kept up, when a Prosis command may
execute, and what it is for a step to be safe. -/

namespace Sys2Proof.Machine

/-- Nothing in the plane waits to go on by itself: no request, no calving, no flit, no collection, no relocation, load or pin, no adoption, no unit of a
stream, no segment. What follows a command then changes nothing. -/
def Quiet (s : State) : Prop :=
  s.mem.reqs = [] ∧ s.mem.calveDue = [] ∧ s.eng.flits = [] ∧ s.eng.colls = [] ∧ s.ftl.relocs = [] ∧ s.ftl.loads = [] ∧ s.hbm.pins = [] ∧
  s.mgmt.bgs = [] ∧ s.twn.adoptPending = false ∧ s.ftm.units = [] ∧ s.sec.segs = []

/-- The LOAD window in progress has recorded at least the present state of the device (R72). -/
def Tracked (s : State) : Prop :=
  levelNow s ≤ s.mem.winLevel ∧ vatUsed s * 100 / max 1 (vatCells s) ≤ s.mem.winVat ∧ wheyUsed s * 100 / max 1 (wheyCarve s) ≤ s.mem.winWhey ∧
  (throttled s = true → s.mem.winThrottle = true)

/-- A session whose accepted HELLO controls the plane, which is not in BOOT: it may send every command (R479 to R481). -/
def Controls (s : State) (sess : Nat) : Prop :=
  ∃ x, sessAt s sess = some x ∧ x.claim = false ∧ x.helloOk = true ∧ s.mgmt.controller = some sess ∧ x.sess = sess ∧ s.mgmt.pasteUp = true ∧
    s.mgmt.state ≠ .boot

/-- A step that is safe: it answers a next state, and takes exactly the command at the front of the queue. -/
def SafeStep (s : State) : Prop := ∃ t, step s = .next t ∧ t.pending = s.pending.tail

/-- The command leaves what its effect made of `s`, namely `t`: tracked, with the queue and the 1 ns counter as they were. -/
def Makes (c : Instr) (s t : State) : Prop := exec c s = .next (afterCmd s t)

/-- The same, after which requests, engines and the flash machinery go on as far as they can by themselves. -/
def MakesE (c : Instr) (s t : State) : Prop := Makes c s (settleAll t)

/-- The same for commands after which segments of an image may move on too. -/
def MakesR (c : Instr) (s t : State) : Prop := Makes c s (settleSegs t)

/-- The time unit runs: through a held warm reset too (R180). -/
def timeUnitOn (s : State) : Bool := s.pwr.on && !s.pwr.heldCold

/-- A command of the time unit, which runs on through a held warm reset, during which nothing else goes on by itself (R180). -/
def MakesT (c : Instr) (s t : State) : Prop := Makes c s (if live s then settleAll t else t)

/-! ## Memory requests -/

/-- The header and the kind of each of the twenty memory requests of Table 2.2. -/
def memReqOf : Instr → Option (ReqHdr × ReqKind)
  | .loadLine h => some (h, .loadLine)
  | .loadStream h n => some (h, .loadStream n)
  | .storeLine h d => some (h, .storeLine d)
  | .storeMasked h d m => some (h, .storeMasked d m)
  | .storeGuarded h d => some (h, .storeGuarded d)
  | .atAdd h a => some (h, .atomic .add a)
  | .atAnd h a => some (h, .atomic .and a)
  | .atOr h a => some (h, .atomic .or a)
  | .atXor h a => some (h, .atomic .xor a)
  | .atSwap h a => some (h, .atomic .swap a)
  | .atMin h a => some (h, .atomic .min a)
  | .atMax h a => some (h, .atomic .max a)
  | .atUmin h a => some (h, .atomic .umin a)
  | .atUmax h a => some (h, .atomic .umax a)
  | .cas64 h c w => some (h, .cas64 c w)
  | .cas128 h c w => some (h, .cas128 c w)
  | .flushRange h n => some (h, .flushRange n)
  | .fence h => some (h, .fence)
  | .publish h rb rl e n => some (h, .publish rb rl e n)
  | .opFlit h w => some (h, .opFlit w)
  | _ => none

/-- A request as it is entered: accepted now, at the end of its port's command FIFO (R38, R118); a CXL.mem transaction keeps its DPA. -/
def entered (h : ReqHdr) (k : ReqKind) (src : ReqSrc) (dpa : Nat) (s : State) : Req :=
  { id := s.nextId, hdr := h, kind := k, src := src, accAt := s.now, accFt := ft s, phase := .fifo, dpa := dpa }

/-- Units of 256 B a request takes in staging: its 32-byte header and its payload (R118). -/
def reqUnits (k : ReqKind) : Nat := ceilDiv (32 + kindPayload k) 256

/-- The plane with a request staged in its port's command FIFO, which uses the far end's REQ credits (R118, R364). -/
def accepted (h : ReqHdr) (k : ReqKind) (src : ReqSrc) (dpa : Nat) (s : State) : State :=
  let s1 := setPort h.port (fun q => { q with stg := q.stg ++ [
    { uid := s.nextId + 1, fifo := 0, item := .req s.nextId, units := reqUnits k, since := s.now, ft := ft s }] }) { s with nextId := s.nextId + 2 }
  let s2 := setPort h.port (fun q => { q with farReq := q.farReq - reqUnits k, reissued := q.reissued + b2n h.reissue }) s1
  { s2 with mem := { s2.mem with reqs := s2.mem.reqs ++ [entered h k src dpa s] } }

/-- The port's staging can take the request, no unit of its command FIFO is in Whey and no request waits there to leave it; the next identifier
names no request. -/
def StagingOpen (h : ReqHdr) (k : ReqKind) (s : State) : Prop :=
  stgUsed (port s h.port) + reqUnits k ≤ 1024 ∧ fifoSpilled (port s h.port) 0 = false ∧ fifoHead s h.port = none ∧ findReq s s.nextId = none

/-- The plane with the request out of its FIFO: it is outstanding, charged at step 8, has the view of its checks, and is in the log tap if one is set
(R153, R27, R32, R437). -/
def checked (h : ReqHdr) (k : ReqKind) (cxl : Bool) (id : Nat) (view : Option (Nat × RangeEntry × Bool)) (s : State) : State :=
  let a := setReq id (fun r => { r with counted := true, phase := .lock }) (outInc h.rid h.part s)
  let c := step8 cxl h k a
  tapCopy h.part h.cls 0 h.rid (packReq h k) (setReq id (fun q => { q with
    view := view, fgen := viewGen s view, region := regionCheck s h.part k, covered := kindWrite k, yellow := decide (c.1 = Colour.yellow) }) c.2)
    (some (s.now, ft s))

/-- What becomes of a request that is accepted, leaves its FIFO and passes every check: payloads before it that nothing waits for are discarded (R122), it is
dispatched, here or to the twin, and the requests behind it may leave. -/
def admitted (h : ReqHdr) (k : ReqKind) (src : ReqSrc) (dpa : Nat) (cxl : Bool) (view : Option (Nat × RangeEntry × Bool)) (fwd : Bool) (s : State) : State :=
  let a := unspill h.port (dropDead h.port (accepted h k src dpa s))
  pump h.port (s.mem.reqs.length + 1) (dispatch s.nextId fwd (checked h k cxl s.nextId view a))

/-! ## Operation flits -/

/-- Engine, op, transition, partition and slot of each command that runs an op of an accepted flit (Tables 7.5, 7.9, 8.8, 9.1, 10.2, 11.1). -/
def opOf : Instr → Option (Nat × Nat × (Flit → State → State) × Nat × Nat)
  | .scrAlloc p k => some (6, 1, stepScrAlloc, p, k)
  | .scrFree p k => some (6, 2, stepScrFree, p, k)
  | .scrFill p k => some (6, 3, stepScrFill, p, k)
  | .proxyStoreGuarded p k => some (1, 0x12, stepProxy, p, k)
  | .proxyAtAdd p k => some (1, 0x20, stepProxy, p, k)
  | .proxyAtAnd p k => some (1, 0x21, stepProxy, p, k)
  | .proxyAtOr p k => some (1, 0x22, stepProxy, p, k)
  | .proxyAtXor p k => some (1, 0x23, stepProxy, p, k)
  | .proxyAtSwap p k => some (1, 0x24, stepProxy, p, k)
  | .proxyAtMin p k => some (1, 0x25, stepProxy, p, k)
  | .proxyAtMax p k => some (1, 0x26, stepProxy, p, k)
  | .proxyAtUmin p k => some (1, 0x27, stepProxy, p, k)
  | .proxyAtUmax p k => some (1, 0x28, stepProxy, p, k)
  | .proxyCas64 p k => some (1, 0x2C, stepProxy, p, k)
  | .proxyCas128 p k => some (1, 0x2D, stepProxy, p, k)
  | .proxyFlushRange p k => some (1, 0x30, stepProxy, p, k)
  | .proxyFence p k => some (1, 0x31, stepProxy, p, k)
  | .proxyPublish p k => some (1, 0x32, stepProxy, p, k)
  | .groupArm p k => some (2, 1, stepGroupArm, p, k)
  | .groupDisarm p k => some (2, 2, stepGroupDisarm, p, k)
  | .reduceMem p k => some (2, 3, stepReduceMem, p, k)
  | .gather p k => some (3, 1, stepGtu, p, k)
  | .scatter p k => some (3, 2, stepGtu, p, k)
  | .scatterAdd p k => some (3, 3, stepGtu, p, k)
  | .scatterAddPiece p k => some (3, 3, stepPiece, p, k)
  | .collDefine p k => some (4, 1, stepCollDefine, p, k)
  | .collDrop p k => some (4, 2, stepCollDrop, p, k)
  | .append p k => some (4, 3, stepAppend, p, k)
  | .scan p k => some (4, 4, stepScan, p, k)
  | .compact p k => some (4, 5, stepCompact, p, k)
  | .collRebase p k => some (4, 6, stepCollRebase, p, k)
  | .collAck p k => some (4, 7, stepCollAck, p, k)
  | .seqOpen p k => some (5, 1, stepSeqOpen, p, k)
  | .seqClose p k => some (5, 2, stepSeqClose, p, k)
  | .pageMap p k => some (5, 3, stepPageMap, p, k)
  | .kvAppend p k => some (5, 4, stepKvAppend, p, k)
  | .attend p k => some (5, 5, stepAttend, p, k)
  | _ => none

/-- The flit runs: it has been accepted, is past its fence wait, has not ended, and the engines are clocked. -/
def Runs (s : State) (e op part slot : Nat) (f : Flit) : Prop :=
  flitAt s part slot = some f ∧ fEngine f.word = e ∧ fOp f.word = op ∧ f.waiting = false ∧ f.prov = false ∧ f.fin = none ∧ s.eng.aclkGated = false

end Sys2Proof.Machine
end

