-- ==== Sys2Proof/Certificates/Slice0/Obligations.lean ====
section
/-! DEFINITION. The statements for the provers. `Makes c s t` says that a live package answers command `c` with `t`, tracked; `MakesE` and `MakesR` that what
waits then goes on by itself. Where no statement says otherwise a next state is that of the command's own effect, given as an equation: what the equation does
not change is unchanged. -/

open Sys2Proof Sys2Proof.Machine

/-! ## The queue of commands -/

/-- A step takes the command at the front of the queue and runs it on the state with the rest of the queue. -/
def Obligations.StepRunsTheFrontCommand : Prop :=
  ∀ (c : Instr) (s : State), step { s with pending := c :: s.pending } = exec c s

/-- On an empty queue one nanosecond passes (the model's choice, assumption 2): the 1 ns counter advances by one and the queue stays empty. Of eight
nanoseconds FT takes exactly five TCLK cycles (625 MHz), each of which adds the increment (R179). -/
def Obligations.IdleStepsAdvanceTime : Prop :=
  (∀ s : State, s.pending = [] → ∃ t, step s = .next t ∧ t.now = s.now + 1 ∧ t.pending = []) ∧
  (∀ m : Ftm, m.tclk < 8 → m.incr * 5 < 2 ^ 104 →
      let t := ftTick (ftTick (ftTick (ftTick (ftTick (ftTick (ftTick (ftTick m)))))))
      t.ftFix = (m.ftFix + 5 * m.incr) % 2 ^ 104 ∧ t.tclk = m.tclk ∧ t.incr = m.incr)

/-- Every command answers a next state; none stops the block, and none changes the queue or the 1 ns counter. -/
def Obligations.EveryCommandAnswers : Prop :=
  ∀ (c : Instr) (s : State), ∃ t, exec c s = .next t ∧ t.pending = s.pending ∧ t.now = s.now

/-- Queued commands run first in, first out, and no time passes meanwhile: as many steps as there are commands answer a state with an empty queue at the same
time. -/
def Obligations.QueueDrainsInOrder : Prop :=
  ∀ (cs : List Instr) (s : State), ∃ t, core.run cs.length { s with pending := cs } = .next t ∧ t.pending = [] ∧ t.now = s.now

/-! ## Reset and the LOAD window -/

/-- What reset leaves where the spec states the value: FT is zero and FREE at the nominal increment (R179, R180), no partition is ACTIVE, the scratch granules
are all free, the port links are DISABLED, the scheduled plane is suspended, the counters are zero and the queue is empty. -/
def Obligations.ResetState : Prop :=
  let s := State.reset
  ft s = 0 ∧ s.ftm.state = .free ∧ s.ftm.incr = 1759218604442 ∧ s.ftm.schedActive = false ∧ activeParts s = [] ∧ s.eng.scrFree = 2560 ∧
    s.mem.reqs = [] ∧ s.mem.locks = [] ∧ s.mem.idem = [] ∧ s.eng.flits = [] ∧ s.gctr = [] ∧ s.pctr = [] ∧ s.pending = [] ∧
    (∀ p, (port s p).link = .disabled) ∧ vatUsed s = 0 ∧ s.mgmt.state = .boot ∧ live s = true

/-- The device state is tracked continuously (R72): after every step the LOAD window in progress has recorded at least the present level, the Vat and the Whey
percentage and a throttle. -/
def Obligations.LoadWindowKeepsTheWorst : Prop :=
  ∀ s t : State, Tracked s → step s = .next t → Tracked t

/-- The same holds right after reset. -/
def Obligations.LoadWindowHoldsAtReset : Prop :=
  Tracked State.reset

/-! ## Memory requests (chapters 1, 2 and 5) -/

/-- LOAD_LINE, LOAD_STREAM, STORE_LINE, STORE_MASKED, STORE_GUARDED, AT_ADD, AT_AND, AT_OR, AT_XOR, AT_SWAP, AT_MIN, AT_MAX, AT_UMIN, AT_UMAX, CAS64, CAS128,
FLUSH_RANGE, FENCE, PUBLISH and OP_FLIT on a requester's port that is UP, with room in staging, nothing ahead and no limit reached: a request that passes
every check of Table 1.6 is accepted with the next identifier, leaves its FIFO as outstanding, is charged and recorded, and is dispatched. -/
def Obligations.MemoryRequestIsAdmitted : Prop :=
  ∀ (c : Instr) (h : ReqHdr) (k : ReqKind) (s : State) (view : Option (Nat × RangeEntry × Bool)) (fwd : Bool),
    memReqOf c = some (h, k) → live s = true → portIs s h.port 1 0 = true → portUp s h.port = true → StagingOpen h k s → limitHeld s h = false →
    check12 s h = none → check37 s h k = .pass view fwd → (step8 false h k s).1 ≠ Colour.red →
    MakesE c s (admitted h k .bamom 0 false view fwd s)

/-- The checks in their order (R27): a request that fails at a step is answered with that step's status, counted and captured, and later steps are not
evaluated; one that is red at step 8 is answered RETRY_LATER; one that passes goes on. A plane that starts up or returns goes on past step 2 for the requests
that R504 and R433 have answered at step 5, and none of them passes steps 3 to 7 (the model's reading, assumption 52). -/
def Obligations.ChecksAreMadeInOrder : Prop :=
  ∀ (id : Nat) (s : State) (r : Req), findReq s id = some r →
    (∀ st n, check12 s r.hdr = some (st, n) → (n ≠ 2 ∨ startHolds s r.hdr r.kind = false) →
      runChecks id s = finishRetire id st 0 [] (chkFail r.hdr r.kind st n s)) ∧
    (∀ st st' n, check12 s r.hdr = some (st, 2) → startHolds s r.hdr r.kind = true → check37 s r.hdr r.kind = .fail st' n →
      runChecks id s = finishRetire id st' 0 [] (chkFail r.hdr r.kind st' n s)) ∧
    (startHolds s r.hdr r.kind = true → ∀ view fwd, check37 s r.hdr r.kind ≠ .pass view fwd) ∧
    (∀ st n, check12 s r.hdr = none → check37 s r.hdr r.kind = .fail st n →
      runChecks id s = finishRetire id st 0 [] (chkFail r.hdr r.kind st n s)) ∧
    (∀ view fwd, check12 s r.hdr = none → check37 s r.hdr r.kind = .pass view fwd → (step8 (isCxl r) r.hdr r.kind s).1 = Colour.red →
      runChecks id s = finishRetire id .retryLater 0 [] (chkFail r.hdr r.kind .retryLater 8 (step8 (isCxl r) r.hdr r.kind s).2))

/-- Steps 3 to 7 for a load, store or atomic of fabric memory (Table 1.6): a request that passes names one valid range entry that covers the whole access, is
the partition's own or SHARED, carries its key, which is not zero, and has the rights of Table 1.4; and its view is that entry. -/
def Obligations.PassedRequestHoldsKeyAndRights : Prop :=
  ∀ (s : State) (h : ReqHdr) (k : ReqKind) (view : Option (Nat × RangeEntry × Bool)) (fwd : Bool),
    inAperture h.addr = false → k ≠ .fence → check37 s h k = .pass view fwd →
    ∃ i e, findRange s h.addr (kindLen k) = some (i, e) ∧ covers e h.addr (kindLen k) = true ∧ (e.owner = h.part ∨ e.shared = true) ∧
      h.key = e.key ∧ e.key ≠ 0 ∧ hasRights k (rightsFor e h.part) = true ∧ step3Ok h.addr h.cls k = true ∧
      view = some (i, e, servingPlane s e h.addr % 2 == 1)

/-- CXL_MEMRD, CXL_MEMWR, CXL_MEMWRPTL and CXL_MEMWR_POISON on a host port that is UP, inside a window: the transaction is the request of R29 with the
window's requester ID, address and key, a poisoned write with the poison marker, and it is admitted as a memory request; a full-line write into aperture space
is an OP_FLIT (R233), and step 8 treats it as CXL.mem. It takes a request credit of the port, and a write a data credit, which the host holds (Table 12.10).
-/
def Obligations.CxlTransactionIsAdmitted : Prop :=
  ∀ (s : State) (p dpa : Nat) (w : WindowRec) (data : Bytes) (mask : Word64) (view : Option (Nat × RangeEntry × Bool)) (fwd : Bool),
    live s = true → portIs s p 2 0 = true → portUp s p = true → 1 ≤ (port s p).cxlReq → windowAt s p dpa = some w →
    (∀ (c : Instr) (k : ReqKind) (psn : Bool), let h := windowHdr s w p dpa psn
      let u := cxlTake p (!kindLoad k) (if (port s p).rateNow = 5 then fecSeen p s else s)
      (kindLoad k = true ∨ 1 ≤ (port s p).cxlDat) → (c, k, psn) ∈ [(.cxlMemrd p dpa, .loadLine, false), (.cxlMemwr p dpa data, fullLine data h, false),
        (.cxlMemwrptl p dpa data mask, .storeMasked (slice data 0 64) mask, false), (.cxlMemwrPoison p dpa data, fullLine data h, true)] →
      StagingOpen h k u → limitHeld u h = false → check12 u h = none → check37 u h k = .pass view fwd → (step8 true h k u).1 ≠ Colour.red →
      MakesE c s (cxlCredits p (admitted h k (.cxl (!kindLoad k)) dpa true view fwd u)))

/-- A load of plain memory whose every piece has come back OK is answered OK with the bytes of its pieces in order (R45, R17). An answer to a Bamom requester
joins the end of the response queue of the request's port, when the port is UP, with its header and its data in 16-byte cells (R43, R133). -/
def Obligations.LoadAnswerCarriesItsBytes : Prop :=
  (∀ (s : State) (id range : Nat) (e : RangeEntry) (odd : Bool) (r : Req), findReq s id = some r → r.view = some (range, e, odd) → e.sealed = false →
      kindLoad r.kind = true → (r.phase = .queued ∨ r.phase = .exec) → pieceStatus r = .ok →
      progress id s = finishRetire id .ok 0 (slice (joinPieces r.pieces) 0 (kindLen r.kind)) s) ∧
  (∀ (s : State) (p id res : Nat) (counted : Bool) (r : Rsp), portUp s p = true →
      ∃ d, (port (queueRsp p id res counted r s) p).rspQ = (port s p).rspQ ++ [d] ∧ d.item = .rsp id r ∧ d.counted = counted ∧
        d.bytes = 16 + r.data.length ∧ d.cells = max res (ceilDiv (16 + r.data.length) 16))

/-- The atomic unit's results (R62, Table 2.2), for a line and the target's place in it: an AT request and a compare-and-swap return the old value and write
what their operation gives, or leave the line when that is the old value; STORE_GUARDED writes the line only where its guard word is zero and else returns it
with VERSION_CONFLICT; PUBLISH writes its new word only over the word it expects. The nine AT operations compute what Table 2.2 says of the old value and the
operand. -/
def Obligations.AtomicUnitResults : Prop :=
  (∀ (off : Nat) (line : Bytes), let w : Word64 := BitVec.ofNat 64 (fieldAt line off 8)
      (∀ op opa, (auCompute (.atomic op opa) off line).st = .ok ∧ (auCompute (.atomic op opa) off line).res = w.setWidth 128 ∧
        (auCompute (.atomic op opa) off line).line = if atApply op w opa = w then none else some (overlay line off (natLe 8 (atApply op w opa).toNat))) ∧
      (∀ cmp swp, (auCompute (.cas64 cmp swp) off line).res = w.setWidth 128 ∧
        (w ≠ cmp → (auCompute (.cas64 cmp swp) off line).line = none) ∧
        (w = cmp → swp ≠ w → (auCompute (.cas64 cmp swp) off line).line = some (overlay line off (natLe 8 swp.toNat)))) ∧
      (∀ d, guardWord line = 0 → auCompute (.storeGuarded d) off line = { st := .ok, res := 0, line := some (slice d 0 64) }) ∧
      (∀ d, guardWord line ≠ 0 → auCompute (.storeGuarded d) off line = { st := .versionConflict, res := (guardWord line).setWidth 128, line := none }) ∧
      (∀ rb rl e n, w ≠ e → auCompute (.publish rb rl e n) off line = { st := .versionConflict, res := w.setWidth 128, line := none }) ∧
      (∀ rb rl e n, w = e → n ≠ w → auCompute (.publish rb rl e n) off line = { st := .ok, res := 0, line := some (overlay line off (natLe 8 n.toNat)) })) ∧
  (∀ a b : Word64, atApply .add a b = a + b ∧ atApply .and a b = a &&& b ∧ atApply .or a b = a ||| b ∧ atApply .xor a b = a ^^^ b ∧ atApply .swap a b = b ∧
      (atApply .min a b).toInt = min a.toInt b.toInt ∧ (atApply .max a b).toInt = max a.toInt b.toInt ∧
      (atApply .umin a b).toNat = min a.toNat b.toNat ∧ (atApply .umax a b).toNat = max a.toNat b.toNat)

/-- classify_tagged (R56): a tag recorded with another opcode or address is UNSUPPORTED; one not applied runs anew; one running is joined; one recorded is
answered again. A tag in no table that is not ahead of the requester's highest is STALE_TAG, and a partition at its quota is RETRY_LATER. -/
def Obligations.TagsAreClassified : Prop :=
  ∀ (s : State) (r : Req),
    (∀ e, findIdem s r.hdr.rid r.hdr.tag = some e → (e.opcode ≠ kindCode r.kind ∨ e.addr ≠ r.hdr.addr) → classifyTag s r = .refuse .unsupported) ∧
    (∀ e, findIdem s r.hdr.rid r.hdr.tag = some e → e.opcode = kindCode r.kind → e.addr = r.hdr.addr →
      (e.state = .notApplied → classifyTag s r = .new) ∧ (e.state = .running → classifyTag s r = .join) ∧
      (e.state = .recorded → classifyTag s r = .recorded e.status e.result)) ∧
    (∀ hi, findIdem s r.hdr.rid r.hdr.tag = none → s.twn.servesTwin = false → aget s.mem.tagHi r.hdr.rid = some hi →
      ((r.hdr.tag + 65536 - hi % 65536) % 65536 = 0 ∨ 32768 ≤ (r.hdr.tag + 65536 - hi % 65536) % 65536) → classifyTag s r = .refuse .staleTag)

/-- FORWARDED_RESPONSE, DISPATCH_DEADLINE, EXECUTION_DEADLINE, LINE_LOCK_ACQUIRED, FENCE_COMPLETE, FENCE_TIMEOUT, CXL_WERR_COMPLETION, RSP_RESERVATION and
LIMIT_HOLD_RELEASE, each for a request in the phase its row names (R13, R39, R51, R66, R68, R75, R133, R154). -/
def Obligations.EventsOfARequest : Prop :=
  ∀ (s : State) (id : Nat) (r : Req), live s = true → findReq s id = some r →
    (∀ a : Rsp, r.phase = .fwd → MakesE (.forwardedResponse id a) s (finishRetire id a.status a.result a.data s)) ∧
    (inDispatch r = true → r.accAt + 3000 ≤ s.now → kindTagged r.kind = false → MakesE (.dispatchDeadline id) s
      (let t := dropQueued (accOf id) (bumpG .deadlineDisp 1 s)
        let u := finishRetire id .retryLater 0 [] (if r.phase = .fifo then payloadStays r t else t)
        pump r.hdr.port (u.mem.reqs.length + 1) u)) ∧
    (∀ t, r.dispAt = some t → r.released = false → r.phase ≠ .fence → t + 11000 ≤ s.now → MakesE (.executionDeadline id) s
      (expired id ((((s.mem.accs.filter fun a => decide (id ∈ servedBy s a) && decide (a.state = .sent) && !a.viaTwin).map (·.port)).foldl addOnce []).foldl
        (fun s p => suspectPort p s) (bumpG .deadlineExec 1 s)))) ∧
    (r.phase = .lock → isPublish r.kind = false → MakesE (.lineLockAcquired id) s (goLock id s)) ∧
    (r.phase = .lock → isPublish r.kind = true → r.stage = 2 → MakesE (.lineLockAcquired id) s (casStart id s)) ∧
    (r.phase = .fence → r.finalSt ≠ .fenceIncomplete → r.waits = [] → r.markers = [] → MakesE (.fenceComplete id) s (finishRetire id .ok 0 [] s)) ∧
    (r.phase = .fence → r.accAt + 16000 ≤ s.now → MakesE (.fenceTimeout id) s
      (let t := finishRetire id .fenceIncomplete 0 [] (bumpP r.hdr.port .fenceInc 1 s)
       { t with mem := { t.mem with calveDue := t.mem.calveDue ++ [(2, r.hdr.part)] } })) ∧
    (r.phase = .werr → partActive s r.hdr.part = false → MakesE (.cxlWerrCompletion id) s
      (retire id (portAnswer r (rspOf s r r.finalSt 0 []) s))) ∧
    (r.phase = .rsp → (∀ w, r.kind ≠ .opFlit w) → MakesE (.rspReservation id) s (goRsp id s)) ∧
    (r.phase = .rsp → (∃ w, r.kind = .opFlit w) → MakesE (.rspReservation id) s (goSubmit id s)) ∧
    (r.phase = .fifo → MakesE (.limitHoldRelease id) s (pump r.hdr.port (s.mem.reqs.length + 1) s))

/-- TRAY_RESPONSE, ENGINE_ACCESS_RETURN and TRAY_ANSWER_TIMEOUT for an access that is out (R44, R45, R222, R537): the access leaves, with the ENG cells of an
engine's, and its piece of the request is done with the answer's status, and with its data when it is a load that came back OK; an access unanswered 1 ms
after its execution deadline takes its tray port down with cause 9. -/
def Obligations.TrayAnswers : Prop :=
  ∀ (s : State) (a : Acc) (st : Status) (data : Bytes) (id i : Nat), live s = true → findAcc s a.aid = some a →
    (a.owner = .req id i → a.state = .sent → (a.kind = .load ∨ a.kind = .store ∨ a.kind = .storeMasked ∨ a.kind = .flush) →
      let t := reqPiece id i false st (if a.kind = .load ∧ st = .ok then slice data 0 a.len else []) (accGone a s)
      (a.eng = false → MakesE (.trayResponse a.aid st data) s t) ∧ (a.eng = true → MakesE (.engineAccessReturn a.aid st data) s t)) ∧
    (a.state ≠ .queued → a.state ≠ .held → a.viaTwin = false → a.execEnd ≠ 0 → a.execEnd + 1000000 ≤ s.now → MakesE (.trayAnswerTimeout a.aid) s (portGoesDown a.port 9 s))

/-- MIRROR_ENTRY, MIRROR_ACK, MIRROR_DONE and MIRROR_DONE_ACK, the steps of Table 2.4 with a twin that is reachable (R59). IDEM_ENTRY_EXPIRE,
SHADOW_ENTRY_FREE and MIRROR_CATCHUP_DONE (R55, R59, R61): an answered entry leaves after 256 us, and not before; a shadow entry leaves 256 us after it was
stored if it is DONE and is kept as overdue if not; with the catch-up acknowledged its entries count as mirrored and what was recorded meanwhile is sent. -/
def Obligations.IdempotencyAndMirroring : Prop :=
  (∀ (s : State) (e : MirrorEnt) (rid tag id : Nat), live s = true →
      (twinUp s = true → ∀ cl, let a := sendTwin (.mirrorAck e.rid e.tag) { s with mem := { s.mem with
          shadow := (s.mem.shadow.filter fun x => !(x.ent.rid == e.rid && x.ent.tag == e.tag)) ++ [{ ent := e, storedAt := s.now }] } }
        let b := setTwn (fun t => { t with peer := cl }) a
        MakesR (.mirrorEntry { ent := e, claims := cl }) s (if a.twn.twinInService = none then a else if claimsRest b then b else cl.foldl checkClaim b)) ∧
      (∀ r, findReq s id = some r → r.phase = .auMirror → MakesE (.mirrorAck id) s (mirrorPast id (setReq id (fun r => { r with mirAck := true }) { s with mem := { s.mem with
        mirrorRtt := s.now - agetD s.mem.mirrorAt id s.now, mirrorAt := adel s.mem.mirrorAt id } }))) ∧
      (twinUp s = true → MakesE (.mirrorDone rid tag) s
        (sendTwin (.doneAck rid tag) (setShadow rid tag (fun e => { e with ent := { e.ent with done := true } }) s))) ∧
      (∀ r, findReq s id = some r → r.phase = .auDone → r.released = true → MakesE (.mirrorDoneAck id) s (retire id s))) ∧
  (∀ (s : State) (rid tag : Nat), live s = true →
      (∀ e t, findIdem s rid tag = some e → e.ansAt = some t → t + 256000 ≤ s.now → MakesE (.idemEntryExpire rid tag) s
        { s with mem := { s.mem with idem := s.mem.idem.filter fun e => !(e.rid == rid && e.tag == tag) } }) ∧
      (∀ e t, findIdem s rid tag = some e → e.ansAt = some t → s.now < t + 256000 → MakesE (.idemEntryExpire rid tag) s s) ∧
      (∀ e, (s.mem.shadow.find? fun e => e.ent.rid = rid ∧ e.ent.tag = tag) = some e → e.storedAt + 256000 ≤ s.now → (e.ent.done = true ∨ e.ent.running = true) →
        MakesE (.shadowEntryFree rid tag) s
          { s with mem := { s.mem with shadow := s.mem.shadow.filter fun e => !(e.ent.rid == rid && e.ent.tag == tag) } }) ∧
      (∀ e, (s.mem.shadow.find? fun e => e.ent.rid = rid ∧ e.ent.tag = tag) = some e → e.storedAt + 256000 ≤ s.now → e.ent.done = false → e.ent.running = false →
        MakesE (.shadowEntryFree rid tag) s (setShadow rid tag (fun e => { e with overdue := true }) s)) ∧
      (s.mem.catchup ≠ [] → s.mem.mirrorEn = true → twinUp s = true → MakesE .mirrorCatchupDone s (startCatchup { s with mem := { s.mem with
        catchup := [], idem := s.mem.idem.map fun e => if (e.rid, e.tag) ∈ s.mem.catchup then { e with mirrored := true } else e } })))

/-- TWIN_FORWARDED_REQUEST from a reachable twin, for an address this plane serves and a partition that is not DOWN (R13): it is entered as accepted when the
twin accepted it, with the view of this plane's tables, and dispatched without new checks; DRAIN_MARKER_RETURN, LOAD_WINDOW_END and AU_CTL_WRITE (R67, R72,
R77): a marker with nothing behind it returns; at a multiple of 64,000 ns of FT the window's worst values are what answers carry from now on and a new window
begins in the present state; mirror_en is written through the Paste only while no partition holds the A right, and a request already past step 1 keeps the old
setting. -/
def Obligations.TwinRequestMarkerWindowAndMirrorControl : Prop :=
  ∀ (s : State), live s = true →
    (∀ (ref at_ i : Nat) (h : ReqHdr) (k : ReqKind) (e : RangeEntry) (region : Option (Nat × RangeEntry)), twinUp s = true → (∀ n, k ≠ .flushRange n) →
      partState s h.part ≠ 2 → serve s (servingPlane s e h.addr) = .here →
      MakesE (.twinForwardedRequest ref h k { acceptedAt := at_, range := i, e := e, region := region }) s (dispatch s.nextId false { s with
        nextId := s.nextId + 1
        mem := { s.mem with reqs := s.mem.reqs ++ [{
          id := s.nextId, hdr := h, kind := k, src := .twin ref, accAt := at_, phase := .lock, view := some (i, e, servingPlane s e h.addr % 2 == 1),
          fgen := firnGen s i, region := region, covered := kindWrite k }] } })) ∧
    (∀ (mid : Nat) (m : Marker), (s.mem.markers.find? fun m => m.mid = mid) = some m → m.behind = [] →
      MakesE (.drainMarkerReturn mid) s (markerBack mid s)) ∧
    (ft s / 64000 ≠ s.mem.winIx → MakesE .loadWindowEnd s (track { s with mem := { s.mem with
      loadLevel := s.mem.winLevel, loadVatPct := s.mem.winVat, loadWheyPct := s.mem.winWhey, loadThrottle := s.mem.winThrottle, loadDone := true
      winLevel := 0, winVat := 0, winWhey := 0, winThrottle := false, winIx := ft s / 64000 } })) ∧
    (ft s / 64000 = s.mem.winIx → MakesE .loadWindowEnd s s) ∧
    (∀ v : Word64, s.mgmt.pasteUp = true → someAtomics s = false → s.mem.mirrorEn = true → bitAt v.toNat 0 = false →
      MakesE (.auCtlWrite v) s { s with mem := { s.mem with
        mirrorEn := false, mirrorActive := false, mirrorSound := false
        reqs := s.mem.reqs.map fun r => { r with mirrored := r.mirrored && s.mem.mirrorActive } } }) ∧
    (∀ v : Word64, s.mgmt.pasteUp = false ∨ someAtomics s = true → MakesE (.auCtlWrite v) s s)

/-- The LOAD field (R72, Table 2.6): the device level is 3 with Whey above a quarter or a throttle, else 2 with the Vat three quarters full or Whey in use,
else 1 with the Vat half full, else 0; and an answer carries four times its partition's own level, which is at most 3, and the device level. -/
def Obligations.LoadFieldOfTable26 : Prop :=
  ∀ s : State,
    ((wheyCarve s < 4 * wheyUsed s ∨ throttled s = true) → levelNow s = 3) ∧
    (4 * wheyUsed s ≤ wheyCarve s → throttled s = false → (3 * vatCells s ≤ 4 * vatUsed s ∨ 0 < wheyUsed s) → levelNow s = 2) ∧
    (wheyUsed s = 0 → throttled s = false → 4 * vatUsed s < 3 * vatCells s → vatCells s ≤ 2 * vatUsed s → levelNow s = 1) ∧
    (wheyUsed s = 0 → throttled s = false → 2 * vatUsed s < vatCells s → levelNow s = 0) ∧
    (∀ part self, loadField s part self = 4 * ownLevel s part (agetD s.mem.outPart part 0 - self) + deviceLevel s ∧
      ownLevel s part (agetD s.mem.outPart part 0 - self) ≤ 3)

/-! ## Firn, flash and the stacks (chapter 3) -/

/-- The 8+2 code of a stripe (chapter 3): a lost data unit comes back from the other seven and P, or, with P lost too, from the other seven and Q; and any two
lost data units come back from the other six with P and Q. -/
def Obligations.LostColumnsComeBackFromParity : Prop :=
  (∀ (n : Nat) (d : Nat → Bytes) (x : Nat), (∀ i, (d i).length = n) → x < 8 →
      let all := (List.range 8).map fun i => (i, d i)
      (∀ q, aget (stripeData n (all.filter fun e => e.1 ≠ x) (some (parityP n all)) q) x = some (d x)) ∧
      aget (stripeData n (all.filter fun e => e.1 ≠ x) none (some (parityQ n all))) x = some (d x)) ∧
  (∀ (n : Nat) (d : Nat → Bytes) (x y : Nat), (∀ i, (d i).length = n) → x < y → y < 8 →
      let all := (List.range 8).map fun i => (i, d i)
      let got := stripeData n (all.filter fun e => e.1 ≠ x ∧ e.1 ≠ y) (some (parityP n all)) (some (parityQ n all))
      aget got x = some (d x) ∧ aget got y = some (d y))

/-- A map entry keeps its fields in the eight bytes of Table 3.4. -/
def Obligations.MapEntryRoundTrip : Prop :=
  ∀ m : MapEnt, m.block < 65536 → m.die < 256 → m.chan < 64 → m.newBlock < 65536 → m.newDie < 256 → m.newChan < 64 → unpackMap (packMap m) = m

/-- FIRN_FILL_COMPLETE, STACK_CHANNEL_OUT, FIRN_SWEEP_DONE and FLASH_REBUILD (R86, R81, R412, R93, R98): a complete fill serves who waits, is written into
Firn if it may be, and leaves the miss table; a failed channel is out, reported, and what lay on it is dropped, and the stacks fail once the channels out
exceed the carve, which is reported and calves every partition; a sweep that is over is no more running; and with eight columns in hand a sector is decoded
and answers its access. -/
def Obligations.FirnAndStackEvents : Prop :=
  ∀ (s : State), live s = true →
    (∀ (fid : Nat) (f : Fill) (b : Bytes), findFill s fid = some f → f.left = 0 → f.failed = none → f.alloc = true →
      fillOpen (fillServe fid s) f (rangeOf (fillServe fid s) f.range) 0 4096 = some b →
      let w := firnWrite f.range f.odd f.gen f.owner f.loc b f.pin (fillServe fid s)
      MakesE (.firnFillComplete fid) s (dropFill fid (pinFilled f (if w.1 then w.2 else bumpG .firnNoalloc 1 w.2)))) ∧
    (∀ (fid : Nat) (f : Fill) (st : Status), findFill s fid = some f → f.left = 0 → f.failed = some st →
      MakesE (.firnFillComplete fid) s (dropFill fid (pinFilled f (fillServe fid s)))) ∧
    (∀ c : Nat, c < 128 → c ∉ s.hbm.chanFail →
      let out := faultEvent 1 6 c 0 0 { s with hbm := { s.hbm with chanFail := s.hbm.chanFail ++ [c] } }
      let t := mapsLost c (sidesLost c (spillLost c ((out.ports.map (·.1)).foldl (fun s p => wheyLost c p s) (dropSectors c out))))
      (3 * t.hbm.chanFail.length ≤ (dev t).firnGib → MakesE (.stackChannelOut c) s t) ∧
      ((dev t).firnGib < 3 * t.hbm.chanFail.length → t.hbm.failed = false →
        MakesE (.stackChannelOut c) s (calve 8 allParts (faultEvent 6 6 c 8 0 (stopServing { t with hbm := { t.hbm with failed := true } }))))) ∧
    (∀ r : Nat, MakesE (.firnSweepDone r) s { s with hbm := { s.hbm with sweeps := s.hbm.sweeps.filter (· ≠ r) } }) ∧
    (∀ (n : Nat) (r : Rebuild) (a : Acc), (s.ftl.rebuilds.find? fun r => r.reb = n) = some r → 8 ≤ r.got.length → r.acc = some a →
      r.entry.firn = false →
      diverted s ((isetOf s r.entry.iset).getD (rebMember r) 0)
        (pblockOf (colEnt s { range := r.range, entry := r.entry, gen := r.gen, loc := rebLoc s r, cols := r.cols } r.odd r.col)) = true →
      MakesE (.flashRebuild n) s (deliverAcc a .ok (sectorPart a (decodeCol r.u r.col r.got))
        (bumpG .ftlRebuild 1 { s with ftl := { s.ftl with rebuilds := s.ftl.rebuilds.filter fun x => x.reb ≠ n } })))

/-- RELOCATION_REQUEST, RELOCATION_START, RELOCATION_FLIP, RELOCATION_ERASE, RELOCATION_PROG_FAIL and DISTURB_LIMIT (Table 3.6, R101 to R105): each step of a
block's relocation, under the condition the step needs, with the Paste up, which runs the flash layer (R440). -/
def Obligations.StepsOfARelocation : Prop :=
  ∀ (s : State) (p b : Nat), live s = true → s.mgmt.pasteUp = true →
    (∀ lb range odd grp, (dev s).readThr ≤ agetD s.ftl.reads (p, b) 0 → findReloc s p b = none → lblockOf s p b = some (odd, lb) →
      lblockRange s p odd lb = some (range, grp) →
      MakesE (.relocationRequest p b) s
        (flashEvent 2 ((isetOf s (rangeOf s range).iset).findIdx (· == p)) range odd (lb * upbOf s p)
          { s with ftl := { s.ftl with relocs := s.ftl.relocs ++ [{ port := p, old := b, lblock := lb, odd := odd, range := range, grp := grp }] } })) ∧
    (∀ r n, findReloc s p b = some r → r.step = 1 → relocsBeside s r < 2 → bestFree s p = some n →
      MakesE (.relocationStart p b) s
        (setReloc p b (fun r => { r with step := 2, new := n, pos := 0 }) (setMap p r.odd r.lblock (withNew · n) (takeBlock p n s)))) ∧
    (∀ r, findReloc s p b = some r → r.step = 3 →
      MakesE (.relocationFlip p b) s
        (let a := sendTwin (.mapEntry p r.odd r.lblock (BitVec.ofNat 64 (packMap (mapEntOf r.new)))) s
        setReloc p b (fun r => { r with step := 4, flipAt := s.now })
          (setMap p r.odd r.lblock (fun _ => mapEntOf r.new)
            (takeBlock p b { a with ftl := { a.ftl with loads := a.ftl.loads.map (loadMoved r b) } })))) ∧
    (∀ r, findReloc s p b = some r → r.step = 4 → r.flipAt + 16000 ≤ s.now → (sendErase p b (rangeOf s r.range).owner r.odd s).1 = true →
      MakesE (.relocationErase p b) s (setReloc p b (fun r => { r with step := 5 }) (sendErase p b (rangeOf s r.range).owner r.odd s).2)) ∧
    (∀ r n, findReloc s p b = some r → r.step = 6 →
      let t := flashEvent 4 ((isetOf s (rangeOf s r.range).iset).findIdx (· == p)) r.range r.odd (r.lblock * upbOf s p) (markBad p r.new s)
      bestFree t p = some n →
      MakesE (.relocationProgFail p b) s
        (setReloc p b (fun r => { r with step := 2, new := n, pos := 0 }) (setMap p r.odd r.lblock (withNew · n) (takeBlock p n t)))) ∧
    (∀ r, disturbOf s p ≤ agetD s.ftl.reads (p, b) 0 → disturbOf s p ≠ 0 → findReloc (requestReloc p b s) p b = some r → r.diverted = false →
      r.step ≠ 4 → r.step ≠ 5 →
      let t := requestReloc p b s
      MakesE (.disturbLimit p b) s
        (flashEvent 3 ((isetOf t (rangeOf t r.range).iset).findIdx (· == p)) r.range r.odd (r.lblock * upbOf t p)
          (setReloc p b (fun r => { r with diverted := true }) t)))

/-- FTL_TWIN_SYNC, DATASET_FLIP, DATASET_OLD_ERASE and FTL_EVENT_READ (R108, R112, R116), with the Paste up: the counters of every block go to a reachable
twin, and what was sent is kept; a load's new map takes effect in one command with the range's Firn generation, and its command ends OK; 16 us after the flip
every old block whose erase is not already out is sent its erase, and a flipped load with no old block left is over; and the oldest flash event is returned
and removed, zero when there is none. -/
def Obligations.FlashLayerEvents : Prop :=
  ∀ (s : State), live s = true → s.mgmt.pasteUp = true →
    (twinUp s = true →
      let keys := (s.ftl.reads.map (·.1) ++ s.ftl.erases.map (·.1)).foldl addOnce []
      let counts := keys.map fun k => (k.1, k.2, agetD s.ftl.reads k 0, agetD s.ftl.erases k 0)
      MakesE .ftlTwinSync s (sendTwin (.counters counts) { s with ftl := { s.ftl with syncAt := s.now, synced := counts } })) ∧
    (∀ (range : Nat) (l : DsLoad), (s.ftl.loads.find? fun l => l.target = range) = some l → l.stage = 3 → l.failed = false → l.flipAt = none →
      let a := abandonRelocs (fun r => r.range == range && r.odd == l.odd) s
      let b := l.newMap.foldl (fun s m => setMap m.1 l.odd m.2.1 (fun _ => m.2.2) (sendTwin (.mapEntry m.1 l.odd m.2.1 (BitVec.ofNat 64 (packMap m.2.2))) s)) a
      let c := l.oldBlocks.foldl (fun s b => takeBlock b.1 b.2 s) b
      let d := { c with ftl := { c.ftl with
        badRows := c.ftl.badRows.filter fun b => !(b.1 == range && b.2.1 == l.odd), badRanges := c.ftl.badRanges.filter (· ≠ range) } }
      MakesE (.datasetFlip range) s (bgDone 0x52 0 range .ok 0 (setLoad range (fun l => { l with flipAt := some d.now }) (firnInvalidate range d)))) ∧
    (∀ (range t : Nat) (l : DsLoad), (s.ftl.loads.find? fun l => l.target = range) = some l → l.flipAt = some t → t + 16000 ≤ s.now →
      MakesE (.datasetOldErase range) s (loadsOver ((l.oldBlocks.filter fun b => !s.mem.accs.any fun a => a.owner == .erase b.1 b.2).foldl
        (fun s b => (sendErase b.1 b.2 (rangeOf s range).owner l.odd s).2) s))) ∧
    (MakesE .ftlEventRead s (tell (.reg 0x320 (BitVec.ofNat 64 ((s.ftl.events.head?.map packFtlEvent).getD 0)))
      { s with ftl := { s.ftl with events := s.ftl.events.drop 1 } }))

/-! ## The switch core (chapters 4, 5 and 12) -/

/-- ETH_FRAME and MSG (R117 to R119, R363, R378, R379): a tagged frame of an uplink that is long enough, passes its check sequence and has a VID of some
partition is bridged for the lowest such partition; a frame in a MSG unit of a registered requester is bridged for its partition, under the default VID when
untagged, and its credits return. A frame that finds others of its FIFO staged or no room is staged behind them, and is dropped and counted when it cannot be.
What the RS FEC of the uplink corrects or does not at a frame is the counters' free value. -/
def Obligations.FramesAreBridged : Prop :=
  ∀ (s : State) (p : Nat) (f : Bytes), live s = true → portUp s p = true → 64 ≤ f.length → f.length ≤ 9220 →
    (portIs s p 3 3 = true →
      let v := fecSeen p s
      let n := ceilDiv f.length 256
      (∀ part, fifoOpen v p 2 n = true → isPause f = false → frType f ≠ (dev v).gwEtype → frTagged f = true →
        (allParts.find? fun q => (aget v.img.parts q).isSome && vidOf v q (frVid f)) = some part →
        MakesE (.ethFrame p true f) s (bridge p part 0 0 (frVid f) (frPcp f) (frClass v p f) f v)) ∧
      (fifoOpen v p 2 n = false → let t := stage p 2 n false (.frame true 0 0 false f) v
        MakesE (.ethFrame p true f) s (if t.1 then t.2 else dropAdmit p v)) ∧
      MakesE (.ethFrame p false f) s (dropAdmit p v)) ∧
    (∀ rid part cmark, portIs s p 1 0 = true →
      let n := ceilDiv (8 + f.length) 256
      let t := setPort p (fun q => { q with farMsg := q.farMsg - n }) s
      let u := returnCredits p 0 n t
      (fifoOpen t p 2 n = true → isPause f = false → (frTagged f = true → vidOf u part (frVid f) = true) →
        check12 u { port := p, rid := rid, part := part, cls := 0, cmark := cmark, poison := false, tag := 0, reissue := false, addr := 0, key := 0 } = none →
        MakesE (.msg p rid part cmark f) s (bridge p part rid (subOf u rid) (if frTagged f then frVid f else (partRec u part).defaultVid)
          (if frTagged f then frPcp f else 0) (frClass u p f) f u)) ∧
      (fifoOpen t p 2 n = false → let w := stage p 2 n false (.frame false rid part cmark f) t
        MakesE (.msg p rid part cmark f) s (if w.1 then w.2 else dropAdmit p t)))

/-- DATA and REDUCE of an elastic class (R361, R205 to R207, R259): a unit of a registered requester with a destination uses a grant it fits in, which moves
its cells from the grant's reservation, and is policed, tapped and placed; one without a grant is discarded. check_slot (R200): a class 7 unit is admitted
under its flow only while the scheduled plane is active, the flow is valid and of the unit's requester and partition, its window is open and the unit still
fits in it; and then the window's sent count rises by its bytes. -/
def Obligations.StreamUnitsNeedAGrantOrAWindow : Prop :=
  (∀ (s : State) (h : StreamHdr), live s = true → portIs s h.port 1 0 = true → portUp s h.port = true → h.payload ≠ [] → h.payload.length ≤ 16368 →
      check12 s { port := h.port, rid := h.rid, part := h.part, cls := h.cls, cmark := false, poison := false, tag := 0, reissue := false, addr := 0,
                  key := 0 } = none →
      destOk s h = true → h.cls ≠ 7 →
      ∀ c, c = (if h.dkind = 2 then Instr.reduce h else .data h) →
        let u : StreamOut := { utype := if h.dkind = 2 then 0xD1 else 0xD0, hdr := h, accSlot := ftSlot s }
        (∀ g, grantFor (port s h.port).grantsOut (ftSlot s) (streamBytes u) = some g →
          MakesE c s (enterElastic u (poolTake .shr (streamCells u - g.cells) (setPort h.port (fun q => { q with
            grantsOut := grantUse g.gid (ftSlot s) (streamBytes u) (streamCells u) q.grantsOut }) s)))) ∧
        (grantFor (port s h.port).grantsOut (ftSlot s) (streamBytes u) = none → MakesE c s (dropAdmit h.port s))) ∧
  (∀ (s t : State) (h : StreamHdr) (f : FlowRec), checkSlot h s = .ok (f, t) →
      s.ftm.schedActive = true ∧ aget s.ftm.active.flows h.schedId = some f ∧ f.valid = true ∧ f.kind ≠ 3 ∧ f.rid = h.rid ∧ f.part = h.part ∧
      ∃ i w, openWindow s h.schedId h.port (16 + h.payload.length) = some (i, w) ∧ agetD s.ftm.sent i 0 + (16 + h.payload.length) ≤ w.slotBytes * w.len ∧
        t = { s with ftm := { s.ftm with sent := aset s.ftm.sent i (agetD s.ftm.sent i 0 + (16 + h.payload.length)) } })

/-- MSG_AGE_DISCARD, STAGING_ADMIT, EGRESS_SELECT and BANK_FAIL (R123, R135, R134, R129): a stream unit held beyond msg_age is discarded and counted; a
request that waits for admission tries again; a port that is UP and free sends what it chooses, and a NULL flit on a Bamom link when it has nothing to send
(R357); a bank that fails leaves service and is reported, and the Vat fails, which is reported and calves every partition, when too little is left. -/
def Obligations.StagingEgressAndBanks : Prop :=
  ∀ (s : State) (p : Nat), live s = true →
    (∀ (uid : Nat) (u : StgUnit) (x : StreamOut) (y : Bool), ((port s p).stg.find? fun u => u.uid = uid) = some u → u.item = .stream x y false →
      u.since + (dev s).msgAgeMs * 1000000 ≤ s.now →
      MakesE (.msgAgeDiscard p uid) s (unspill p (bumpG .vatWheyAged 1 (bumpP p .dropAge 1
        (setPort p (fun q => { q with stg := q.stg.filter fun v => v.uid ≠ uid }) s))))) ∧
    (∀ (uid id : Nat) (u : StgUnit) (r : Req), ((port (unspill p s) p).stg.find? fun u => u.uid = uid) = some u → u.item = .req id →
      findReq (unspill p s) id = some r → r.phase = .admitting →
      MakesE (.stagingAdmit p uid) s (pump p (s.mem.reqs.length + 1) (goAdmit id (unspill p s)))) ∧
    (∀ c d, portUp s p = true → (port s p).busyUntil ≤ s.now → (port s p).idle = false → chooseQueue s p = some (c, d) →
      MakesE (.egressSelect p false) s (wakeAdmit (sendChosen p c d s))) ∧
    (∀ unc, portUp s p = true → (port s p).busyUntil ≤ s.now → (port s p).idle = false → chooseQueue s p = none → (portRec s p).protocol = 1 →
      MakesE (.egressSelect p unc) s (wakeAdmit (wireOut p (.flit nullFlit) s))) ∧
    (∀ b, b < 64 → b ∉ s.vat.bankFail →
      let a : State := { s with vat := { s.vat with bankFail := s.vat.bankFail ++ [b] } }
      let hit := bankStored (faultEvent 4 5 b 0 0 a)
      let t := bankStreams ((s.ports.map (·.1)).foldl (fun s p => bankUnits hit.1 p s) hit.2)
      (32 ≤ banksIn t → 65536 ≤ shrCells t → MakesE (.bankFail b) s t) ∧
      ((banksIn t < 32 ∨ shrCells t < 65536) → t.vat.failed = false →
        MakesE (.bankFail b) s (calve 8 allParts (faultEvent 6 5 b 8 0 (stopServing { t with vat := { t.vat with failed := true } })))))

/-- PORT_DOWN (R144, R372), for every port and cause. The port's link is down, and its cause and the fabric time are logged unless an earlier pair is; a time
source on it is disqualified (Table 6.2). A port that was UP first sends DOWN if it is a Bamom port whose DOWN can be sent; then its staging is flushed, every
access queued on it or sent over it is lost (on the twin link's port those rerouted over it), and its queues, what it has of the twin's link, the answers it
is still to get and its reduction groups end as R144 says. Its grants go back and it restarts. Staging and grants are empty afterwards, and a sent access of a
request ends its piece TARGET_LOST. How a port restarts (R355, R370, R374): failed while its module is out, down in Park, DISABLED while held, else a Bamom
port trains from step 1 and any other waits for its link; sequence numbers, credits and what was unacknowledged start anew. -/
def Obligations.PortGoesDownAsR144Says : Prop :=
  (∀ (s : State) (p cause : Nat), live s = true →
      let noted := fun s : State =>
        let s := setPort p (fun q => { q with link := .down, downLog := q.downLog.orElse fun _ => some (cause, ft s) }) s
        if s.ftm.source = 4 ∧ s.ftm.refPort = p ∧ s.ftm.qualified = true then disqualify s else s
      (portUp s p = false → MakesE (.portDown p cause) s (portRestart p (dropGrants p (noted s)))) ∧
      (portUp s p = true →
        let a := flushStaging p (noted (if (portRec s p).protocol = 1 ∧ cause ≠ 6 then wireOut p (.item (.down cause)) s else s))
        let b := (a.mem.accs.filter fun x => if x.viaTwin then decide (twinPort a = some p) else x.port == p).foldl (fun s x => match findAcc s x.aid with
          | some x => accLost p x s
          | none => s) a
        let c := flushQueues p b
        let d := if twinPort a = some p then twinLinkLost p c else c
        MakesE (.portDown p cause) s (portRestart p (dropGrants p (trayDownReport p (groupPortDown p (loseAnswers p d)))))) ∧
      (port (flushStaging p s) p).stg = [] ∧ (port (dropGrants p s) p).grantsOut = [] ∧ (port (dropGrants p s) p).grantsIn = [] ∧
      (∀ (x : Acc) (id i : Nat), x.owner = .req id i → x.state = .sent → accLost p x s = pieceLost id i false (flushLost p id (accGone x s)))) ∧
  (∀ (s : State) (p : Nat), let q := port (portRestart p s) p
      q.link = (if octetOut s p then .failed else if s.mgmt.state = .parked then .down else if (port s p).disable || heldPort s p then .disabled
        else if (portRec s p).protocol = 1 then .training else .down) ∧
      q.trainStep = (if q.link = .training then 1 else 0) ∧ q.txSeq = 0 ∧ q.rxExp = 0 ∧ q.unacked = [] ∧ q.ownReq = 0 ∧ q.ownMsg = 0 ∧ q.widthNow = 0 ∧
      (∀ r, r ≠ p → port (portRestart p s) r = port s r))

/-! ## Policing and indirect access (chapter 5) -/

/-- police (R158): tokens are milli-bytes that grow by a rate times the time on the free-running 1 ns counter, up to the bucket; a disabled policer passes a
unit green; else a unit beyond the peak tokens is red and takes none, one already yellow or beyond the committed tokens is yellow and takes peak tokens, and
any other is green and takes both; and what a unit is charged is timed by that counter, not by fabric time. -/
def Obligations.PolicerColours : Prop :=
  (∀ (r : PolicerRec) (p : Pol) (b now : Nat) (y : Bool), p.last ≤ now → let q := refill r p now
    (q.last = now ∧ q.tc = min (p.tc + r.cir * ((now : Int) - p.last)) (r.cbs * 256000) ∧ q.tp = min (p.tp + r.pir * ((now : Int) - p.last)) (r.pbs * 256000)) ∧
    (r.en = false → police r p b y now = (.green, q)) ∧
    (r.en = true → q.tp < (b : Int) * 1000 → police r p b y now = (.red, q)) ∧
    (r.en = true → (b : Int) * 1000 ≤ q.tp → (y = true ∨ q.tc < (b : Int) * 1000) → police r p b y now = (.yellow, { q with tp := q.tp - (b : Int) * 1000 })) ∧
    (r.en = true → (b : Int) * 1000 ≤ q.tp → y = false → (b : Int) * 1000 ≤ q.tc →
      police r p b y now = (.green, { q with tp := q.tp - (b : Int) * 1000, tc := q.tc - (b : Int) * 1000 }))) ∧
  (∀ (s : State) (f : Ftm) (i b : Nat) (y : Bool), (charge i b y { s with ftm := f }).1 = (charge i b y s).1 ∧
    (charge i b y { s with ftm := f }).2.tmc = (charge i b y s).2.tmc)

/-- TMC_IND_READ, TMC_IND_WRITE and POLICER_TOKENS_POSITIVE (R177, R155, R161, R162, R169 to R172, R224), while Paste runs, which alone uses the registers: a
read takes the words of the selected record, and zeros with the error bit beyond the table; a write beyond the table sets the error bit only; a policer's
record that keeps R161 and R162 is stored, its tokens brought up to date at the old rates and clipped to the new bursts, and one that breaks them sets the
error bit only; a shaper's record is stored with its credit clipped if the slopes of its port still fit, and else sets the error bit only; a requester's limit
and sub and a partition's limit are stored, zero as the default; and a write changes no record of the image. A policer whose tokens are above zero is brought
up to date, lets the red accesses of its flits go, and each port that withheld for it alone returns its credits or grants. -/
def Obligations.IndirectTrafficRegisters : Prop :=
  ∀ (s : State), live s = true →
    let i := s.tmc.selIndex
    let bad := { s with tmc := { s.tmc with selError := true } }
    (s.mgmt.pasteUp = false → MakesE .tmcIndRead s s ∧ MakesE .tmcIndWrite s s) ∧
    (s.mgmt.pasteUp = true →
      (i < tmcSize s.tmc.selTable → let w := tmcWords s s.tmc.selTable i
        MakesE .tmcIndRead s { s with tmc := { s.tmc with d0 := BitVec.ofNat 64 w.1, d1 := BitVec.ofNat 64 w.2.1, d2 := BitVec.ofNat 64 w.2.2 } }) ∧
      (tmcSize s.tmc.selTable ≤ i → MakesE .tmcIndRead s { s with tmc := { s.tmc with d0 := 0, d1 := 0, d2 := 0, selError := true } }) ∧
      (tmcSize s.tmc.selTable ≤ i → MakesE .tmcIndWrite s bad) ∧
      (s.tmc.selTable = 0 → i < 8192 → let r := polOf s.tmc.d0.toNat s.tmc.d1.toNat
        (polOk (polCxl s.img.windows s.img.reqs s.img.ports i) i r = true →
          let p := refill (agetD (policersNow s) i {}) (agetD s.tmc.pols i {}) s.now
          MakesE .tmcIndWrite s { s with tmc := { s.tmc with
            livePol := aset s.tmc.livePol i r
            pols := aset s.tmc.pols i { p with tc := min p.tc (r.cbs * 256000), tp := min p.tp (r.pbs * 256000) } } }) ∧
        (polOk (polCxl s.img.windows s.img.reqs s.img.ports i) i r = false → MakesE .tmcIndWrite s bad)) ∧
      (s.tmc.selTable = 1 → i < 2048 →
        let r : ShaperRec := { idleSlope := bits s.tmc.d0.toNat 0 24, shaped := bitAt s.tmc.d0.toNat 24, hiCredit := bits s.tmc.d0.toNat 32 16 }
        (slopesFit s (aset (shapersNow s) i r) (i / 8) = true → MakesE .tmcIndWrite s { s with tmc := { s.tmc with
          liveShp := aset s.tmc.liveShp i r
          shps := amod s.tmc.shps i {} fun c => { credit := min (max c.credit (-16384000)) (r.hiCredit * 64000) } } }) ∧
        (slopesFit s (aset (shapersNow s) i r) (i / 8) = false → MakesE .tmcIndWrite s bad)) ∧
      (s.tmc.selTable = 2 → i < 4096 → let n := bits s.tmc.d0.toNat 0 12
        MakesE .tmcIndWrite s { s with tmc := { s.tmc with
          liveReq := aset s.tmc.liveReq i (if n = 0 then 256 else n, bits s.tmc.d0.toNat 16 3) } }) ∧
      (s.tmc.selTable = 3 → i < 128 → let n := bits s.tmc.d0.toNat 0 16
        MakesE .tmcIndWrite s { s with tmc := { s.tmc with livePart := aset s.tmc.livePart i (if n = 0 then 4096 else n) } }) ∧
      ∃ t : Tmc, MakesE .tmcIndWrite s { s with tmc := t }) ∧
    (∀ k, let p := refill (agetD (policersNow s) k {}) (agetD s.tmc.pols k {}) s.now
      (p.tp ≤ 0 → MakesE (.policerTokensPositive k) s s) ∧
      (0 < p.tp →
        let t : State := { s with
          tmc := { s.tmc with pols := aset s.tmc.pols k p }
          eng := { s.eng with flits := s.eng.flits.map fun f =>
            if f.pol = 1 ∧ polIndex f.part (fClass f.word) (subOf s f.rid) = k then { f with pol := 2 } else f } }
        MakesE (.policerTokensPositive k) s (((s.ports.filter fun e => e.2.withheld).map (·.1)).foldl (fun u q =>
          if (portRec u q).protocol = 2 then cxlCredits q u
          else setPort q (fun x => { x with redPols := x.redPols.filter (· ≠ k), withheld := decide (x.redPols.filter (· ≠ k) ≠ []) }) u) t)))

/-! ## Fabric time and the scheduled plane (chapter 6) -/

/-- One servo update of a qualified unit that is not FREE (R185). PPS_EDGE, PTP_SYNC and TOS_SERVO_UPDATE, through a held warm reset too (R180): an edge or a
Sync is noted, of the qualified source it goes to the servo with the offset it measured, and one that comes too late disqualifies; the edge's window as the 1
ns counter sees it is the model's (assumption 18). SOURCE_QUALIFY, SOURCE_DISQUALIFY, HOLDOVER_EXPIRE and FTM_CTL_WRITE (R182, R184, R186, R209): a source
qualifies only while its condition of Table 6.2 holds, source 0 never and source 4 only with its port UP, and the lock states move as Table 6.3 says; a write
of FTM_CTL by Paste takes its fields, a threshold of 0 as 1,000, and a change of source or ref_port leads to ACQUIRING where the new source is qualified and
to FREE where it cannot be. Leaving LOCKED or HOLDOVER for ACQUIRING or FREE suspends the scheduled plane at once, and no entry into another state activates
it (R188). -/
def Obligations.TimeSourcesAndLockStates : Prop :=
  (∀ (o : Int) (s : State), s.ftm.qualified = true → s.ftm.state ≠ .free → let t : State := { s with ftm := { s.ftm with offset := o } }
      (o.natAbs ≤ s.ftm.stepThr → servo o s = ftSlew o t) ∧
      (s.ftm.stepThr < o.natAbs → o < 0 → activeParts s ≠ [] →
        let u : State := { t with ftm := { t.ftm with incr := nominalIncr - slewMax, good := 0 } }
        servo o s = (if s.ftm.state = .holdover then enterFt .acquiring u else u) ∧ (servo o s).ftm.ftFix = s.ftm.ftFix) ∧
      (s.ftm.stepThr < o.natAbs → (0 ≤ o ∨ activeParts s = []) → servo o s = ftStep o t)) ∧
  (∀ (s : State), timeUnitOn s = true →
      let edge : State := { s with ftm := { s.ftm with ppsAt := some s.now } }
      let inTime := ∀ t, s.ftm.ppsAt = some t → t + ppsMin ≤ s.now ∧ s.now ≤ t + ppsMax
      (∀ n, s.ftm.source = 1 → s.ftm.qualified = true → inTime → s.ftm.setSecs = some n →
        let o := (n : Int) * 1000000000 + s.ftm.ppsDelayNs - ft s
        MakesT .ppsEdge s (servo o { edge with ftm := { edge.ftm with setSecs := if stepBarred o s then some (n + 1) else none } })) ∧
      (s.ftm.source = 1 → s.ftm.qualified = true → inTime → s.ftm.setSecs = none →
        MakesT .ppsEdge s (servo ((Int.ofNat (ft s) - s.ftm.ppsDelayNs + 500000000) / 1000000000 * 1000000000 + s.ftm.ppsDelayNs - ft s) edge)) ∧
      (s.ftm.source = 1 → s.ftm.qualified = true → ¬inTime → MakesT .ppsEdge s (disqualify edge)) ∧
      (s.ftm.source ≠ 1 ∨ s.ftm.qualified = false → MakesT .ppsEdge s edge) ∧
      (∀ m d (y : PtpExchange),
        let way : Int := match y.delay with
          | some (t3, t4) => ((Int.ofNat y.t2 - y.t1) + (Int.ofNat t4 - t3)) / 2
          | none => agetD s.ftm.ptpDelay m 0
        let noted : State := { s with ftm := { s.ftm with syncAt := aset s.ftm.syncAt m s.now, ptpDelay := aset s.ftm.ptpDelay m way } }
        (d ≠ s.ftm.ptpDomain ∨ 2 ≤ m → MakesT (.ptpSync m d y) s s) ∧
        (d = s.ftm.ptpDomain → m < 2 →
          (s.ftm.source ≠ 2 + m ∨ s.ftm.qualified = false → MakesT (.ptpSync m d y) s noted) ∧
          (s.ftm.source = 2 + m → s.ftm.qualified = true → (∀ t, aget s.ftm.syncAt m = some t → s.now ≤ t + 2000000000) →
            MakesT (.ptpSync m d y) s (servo (Int.ofNat y.t1 + way - y.t2) noted)) ∧
          (∀ t, s.ftm.source = 2 + m → s.ftm.qualified = true → aget s.ftm.syncAt m = some t → t + 2000000000 < s.now →
            MakesT (.ptpSync m d y) s (disqualify noted)))) ∧
      (∀ t a, s.ftm.source = 4 → sourceReady s 4 = true → (port s s.ftm.refPort).lastTos = some (t, a) →
        MakesT .tosServoUpdate s (servo (Int.ofNat t + (port s s.ftm.refPort).delayPs / 1000 - Int.ofNat a) s)) ∧
      (s.ftm.source = 4 → sourceReady s 4 = false → s.ftm.qualified = true → MakesT .tosServoUpdate s (disqualify s)) ∧
      (s.ftm.source ≠ 4 → MakesT .tosServoUpdate s s)) ∧
  (∀ (s : State),
      sourceReady s 0 = false ∧ (sourceReady s 4 = true → portUp s s.ftm.refPort = true) ∧
      (timeUnitOn s = true →
        (sourceReady s s.ftm.source = false → MakesT .sourceQualify s s) ∧
        (sourceReady s s.ftm.source = true → s.ftm.state = .free →
          MakesT .sourceQualify s (enterFt .acquiring { s with ftm := { s.ftm with qualified := true } })) ∧
        (sourceReady s s.ftm.source = true → s.ftm.state ≠ .free → MakesT .sourceQualify s { s with ftm := { s.ftm with qualified := true } }) ∧
        (s.ftm.state = .locked → MakesT .sourceDisqualify s (enterFt .holdover { s with ftm := { s.ftm with qualified := false, lostAt := s.now } })) ∧
        (s.ftm.state = .acquiring → MakesT .sourceDisqualify s (enterFt .free { s with ftm := { s.ftm with qualified := false } })) ∧
        (s.ftm.state = .free ∨ s.ftm.state = .holdover → MakesT .sourceDisqualify s { s with ftm := { s.ftm with qualified := false } }) ∧
        (s.ftm.state = .holdover → (128 * 10 ^ 9 < holdErr s ∨ (dev s).holdoverMs * 1000000 < s.now - s.ftm.lostAt) →
          MakesT .holdoverExpire s (enterFt .free s)) ∧
        (s.ftm.state ≠ .holdover ∨ (holdErr s ≤ 128 * 10 ^ 9 ∧ s.now - s.ftm.lostAt ≤ (dev s).holdoverMs * 1000000) → MakesT .holdoverExpire s s)) ∧
      (live s = true → s.mgmt.pasteUp = true → ∀ v : Word64,
        let src := bits v.toNat 0 3
        let rp := bits v.toNat 8 8
        let t : State := { s with ftm := { s.ftm with
          source := src, refPort := rp, ptpDomain := bits v.toNat 16 8, stepThr := if bits v.toNat 32 16 = 0 then 1000 else bits v.toNat 32 16 } }
        let u : State := { t with freeIx := s.freeIx + 1 }
        (src = s.ftm.source → rp = s.ftm.refPort → MakesE (.ftmCtlWrite v) s t) ∧
        (src = s.ftm.source → rp ≠ s.ftm.refPort → src ≠ 4 → s.ftm.qualified = true →
          MakesE (.ftmCtlWrite v) s (enterFt .acquiring { u with ftm := { u.ftm with qualified := true } })) ∧
        (src = s.ftm.source → rp ≠ s.ftm.refPort → src ≠ 4 → s.ftm.qualified = false →
          MakesE (.ftmCtlWrite v) s (enterFt .free { u with ftm := { u.ftm with qualified := false } })) ∧
        (src = 4 → (s.ftm.source ≠ 4 ∨ rp ≠ s.ftm.refPort) → sourceReady t 4 = true →
          MakesE (.ftmCtlWrite v) s (enterFt .acquiring { u with ftm := { u.ftm with qualified := true } })) ∧
        (src ≠ s.ftm.source ∨ (rp ≠ s.ftm.refPort ∧ src = 4) → sourceReady t src = false →
          MakesE (.ftmCtlWrite v) s (enterFt .free { u with ftm := { u.ftm with qualified := false } })))) ∧
  (∀ (x : FtState) (s : State), (enterFt x s).ftm.state = x ∧ (x = .acquiring ∨ x = .free → (enterFt x s).ftm.schedActive = false) ∧
      ((enterFt x s).ftm.schedActive = true → s.ftm.schedActive = true) ∧ (enterFt x s).ftm.ftFix = s.ftm.ftFix)

/-- SCHED_ACTIVATE, PPS_OUT_RISE, PPS_OUT_FALL, TOS_SEND, SCHED_ARM and SCHED_WINDOW_OPEN (R188 to R190, R193, R196, R200): the plane becomes active 64 frames
after the unit became LOCKED; the pulse rises when FT is a whole second and falls when its width is over; a timing ordered set, on a link that can take it at
once, carries FT and echoes the last one received; arming for a frame two or more ahead arms, and nearer sets late and leaves the schedule unarmed; a window's
sent count restarts in the slot before it. SCHED_BANK_SWAP, STREAM_UNIT_READ, GRANT_ISSUE and GRANT_LAPSE (R197, R199, R205, R206): at the frame armed the
banks change places, streams whose flow is the same in both go on, and what is still queued or staged in class 7 is demoted; a stream's unit takes its SCH
cells and is read part by part, the last unit ends the stream, and one told to stop ends; a grant within the port's window is reserved in SHR, recorded and
sent; and at its expiry slot it lapses with its cells. -/
def Obligations.ScheduledPlane : Prop :=
  (∀ (s : State),
      (timeUnitOn s = true →
        (s.ftm.state = .locked → s.ftm.lockedFrom + 64 ≤ ftFrame s → MakesT .schedActivate s { s with ftm := { s.ftm with schedActive := true } }) ∧
        (s.ftm.ppsEn = true → s.ftm.ppsOut = false → ft s % 1000000000 = 0 →
          MakesT .ppsOutRise s { s with ftm := { s.ftm with ppsOut := true, ppsRise := ft s } }) ∧
        (s.ftm.ppsOut = true → s.ftm.ppsRise + (if s.ftm.ppsWidthUs = 0 then 10 else s.ftm.ppsWidthUs) * 1000 ≤ ft s →
          MakesT .ppsOutFall s { s with ftm := { s.ftm with ppsOut := false } })) ∧
      (live s = true →
        (∀ p, portUp s p = true → (portRec s p).protocol = 1 → (port s p).tosTx = true → (port s p).tosAt + 4096 ≤ s.now →
          (port s p).items = [] → flitsFit s p 1 = true →
          let q := port s p
          MakesE (.tosSend p) s (setPort p (fun q => { q with tosAt := s.now })
            (sendItem p (.tos q.lastTos.isSome (ftPs s) (ft s) q.lastTosPs.1 (q.lastTos.getD (0, 0)).1 q.lastTosPs.2 (q.lastTos.getD (0, 0)).2) s))) ∧
        (s.mgmt.pasteUp = true → ∀ n, let f := n % 2 ^ 40
          (f < ftFrame s + 2 → MakesE (.schedArm n) s { s with ftm := { s.ftm with actFrame := f, late := true, arm := false } }) ∧
          (ftFrame s + 2 ≤ f → MakesE (.schedArm n) s { s with ftm := { s.ftm with actFrame := f, arm := true } })) ∧
        (∀ i w, aget s.ftm.active.wins i = some w → winStarts w (ftSlot s % 65536) = true →
          MakesE (.schedWindowOpen i) s { s with ftm := { s.ftm with sent := aset s.ftm.sent i 0 } }))) ∧
  (∀ (s : State), live s = true →
      (s.ftm.arm = true → s.ftm.actFrame * frameNs ≤ ft s → let t : State := { s with ftm := { s.ftm with
          activeBank := !s.ftm.activeBank, active := s.ftm.staged, staged := s.ftm.active, stagedValid := decide (s.ftm.active ≠ {}), arm := false
          actBegan := s.ftm.actFrame, sent := []
          streams := s.ftm.streams.filter fun x => decide (aget s.ftm.staged.flows x.schedId = some x.flow) && x.flow.valid } }
        MakesE .schedBankSwap s (swapStaged ((queued7 t).foldl (fun s u => swapDemote u.1 u.2.1 u.2.2 s) (purgeAll (fun d => d.cls == 7) t)))) ∧
      (s.ftm.arm = false ∨ ft s < s.ftm.actFrame * frameNs → MakesE .schedBankSwap s s) ∧
      (∀ i x, (s.ftm.streams.find? fun x => x.schedId = i) = some x → x.stopping = true →
        MakesE (.streamUnitRead i) s { s with ftm := { s.ftm with streams := s.ftm.streams.filter fun y => y.schedId ≠ i } }) ∧
      (∀ i x e, (s.ftm.streams.find? fun x => x.schedId = i) = some x → x.stopping = false → aget s.img.ranges x.flow.range = some e →
        let slot := ftSlot s + x.flow.leadSlots
        let at_ := x.next * x.flow.unitCells * 256
        let n := min (x.flow.unitCells * 256) (x.flow.length * 4096 - at_)
        let parts := pagePieces (n / 4096 + 2) (x.flow.loc + at_) n
        sendSlot s i (slot % 65536) = true → x.startFrame ≤ slot / 65536 → x.lastSlot ≠ some slot → at_ < x.flow.length * 4096 →
        x.flow.unitCells ≠ 0 → s.vat.sch + ceilDiv n 256 ≤ poolCells s .sch →
        MakesE (.streamUnitRead i) s (parts.foldl (strmRead x slot (x.flow.loc + at_) (x.flow.range, e, ownOdd s)) { s with
          vat := { s.vat with sch := s.vat.sch + ceilDiv n 256 }
          ftm := { s.ftm with
            streams := if x.flow.length * 4096 ≤ at_ + n then s.ftm.streams.filter fun y => y.schedId ≠ i
              else modFirst (fun y => y.schedId = i) (fun y => { y with next := y.next + 1, lastSlot := some slot }) s.ftm.streams
            units := s.ftm.units ++ [{
              schedId := i, slot := slot, cells := ceilDiv n 256, dest := x.flow.dest, part := x.flow.part, left := parts.length }] } })) ∧
      (∀ p a l, portIs s p 1 0 = true → portUp s p = true → (port s p).withheld = false → streamRoom s p = true → s.pwr.pstate = 0 → 0 < a →
        sumOf ((port s p).grantsOut.map (·.left)) + a * 64 ≤ (portRec s p).windowKib * 1024 → ceilDiv (a * 64) 256 ≤ shrFree s →
        MakesE (.grantIssue p a l) s (sendItem p (.grant a l (ftSlot s + 64)) (poolTake .shr (ceilDiv (a * 64) 256) (setPort p (fun q => { q with
          grantsOut := q.grantsOut ++ [{ gid := s.nextId, left := a * 64, perSlot := l, expiry := ftSlot s + 64, cells := ceilDiv (a * 64) 256 }] })
          { s with nextId := s.nextId + 1 })))) ∧
      (∀ g, let f : Grant → Bool := fun x => decide (x.gid = g) && decide (x.expiry ≤ ftSlot s)
        MakesE (.grantLapse g) s (poolGive .shr (sumOf (s.ports.map fun e => sumOf ((e.2.grantsOut.filter f).map (·.cells)))) { s with
          ports := s.ports.map fun e => (e.1, { e.2 with grantsOut := e.2.grantsOut.filter fun x => !f x, grantsIn := e.2.grantsIn.filter fun x => !f x }) })))

/-! ## Engines (chapters 7 to 11) -/

/-- The 37 commands that run an op (R215, R219, Tables 7.5, 7.9, 8.8, 9.1, 10.2, 11.1): the op begins, or goes on from its last wait, until it waits for an
access, has ended, or a transition changes nothing. -/
def Obligations.OpsRunFromWaitToWait : Prop :=
  ∀ (s : State) (c : Instr) (e op part slot : Nat) (step : Flit → State → State) (f : Flit), live s = true → opOf c = some (e, op, step, part, slot) →
    Runs s e op part slot f →
    MakesE c s (opLoop step part slot opFuel (setFlit part slot (fun f => { f with begun := true }) s))

/-- SCR_ALLOC and SCR_FREE (R226, Table 7.5): an allocation of 1 to 2,560 granules that is within the partition's share and the plane's free granules takes
the lowest free handle, takes the granules and ends OK with the handle in result_lo; a release of a handle that is not bound and that no other running flit
names removes it, and its granules wait to be zeroed. The answer to either is due. -/
def Obligations.ScratchIsAllocatedAndFreed : Prop :=
  ∀ (s : State) (part slot : Nat) (f : Flit), live s = true → f.todo = [] → f.out = [] → f.failed = none →
    (∀ i, Runs s 6 1 part slot f → 1 ≤ fw f.word 0x18 0 32 → fw f.word 0x18 0 32 ≤ 2560 →
      ((List.range 65535).find? fun i => (handleAt s part (i + 1)).isNone) = some i → (s.eng.handles.filter fun h => h.1.1 = part).length < 256 →
      granOk s part (fw f.word 0x18 0 32) = true →
      ∃ t, MakesE (.scrAlloc part slot) s t ∧ handleAt t part (i + 1) = some { granules := fw f.word 0x18 0 32 } ∧
        t = { s with eng := { s.eng with
          handles := aset s.eng.handles (part, i + 1) { granules := fw f.word 0x18 0 32 }, scrFree := s.eng.scrFree - fw f.word 0x18 0 32
          flits := t.eng.flits } } ∧
        (flitAt t part slot).bind (·.fin) = some { status := .ok, lo := i + 1 }) ∧
    (∀ x, Runs s 6 2 part slot f → handleAt s part (fw f.word 0x18 0 32) = some x → handleBound x = false →
      (s.eng.flits.any fun g => g.part == part && g.slot != slot && decide (fw f.word 0x18 0 32 ∈ flitNames g)) = false →
      ∃ t, MakesE (.scrFree part slot) s t ∧ handleAt t part (fw f.word 0x18 0 32) = none ∧
        t = { s with eng := { s.eng with
          handles := adel s.eng.handles (part, fw f.word 0x18 0 32), zeroing := s.eng.zeroing + x.granules, flits := t.eng.flits } } ∧
        (flitAt t part slot).bind (·.fin) = some { status := .ok })

/-- Resident scratch (R226): a byte written is the byte read, and every other byte of the handle reads as before, stated or not. -/
def Obligations.ScratchReadsWhatWasWritten : Prop :=
  ∀ (h : Handle) (a : Nat) (d : Bytes), Memory.wf h.mem = true →
    Memory.wf (handleWrite h a d).mem = true ∧
    (∀ i (hi : i < d.length), handleByte (handleWrite h a d) (a + i) = d[i]) ∧
    (∀ b, b < a ∨ a + d.length ≤ b → handleByte (handleWrite h a d) b = handleByte h b)

/-- FLIT_START, FLIT_TIME_LIMIT, ENG_CELL_RESERVE, ENGINE_COMPLETION and SCRATCH_ZEROED (R215, R226 to R230, R137): a fence wait ends; a flit past its time
limit ends RETRY_LATER with detail 0x09; a context issues its next access; a flit whose writes are in leaves its record in its status line, which is DONE, and
is gone, or first writes the record to cmpl_addr; a zeroed granule is free. GROUP_RELEASE, CHUNK_TIMEOUT, COLL_DROP_DONE, COMPACT_FLIP, COMPACT_RECORD and
SEQ_CLOSE_COMPLETE (R264, R266, R302, R315 to R317, R335). -/
def Obligations.EventsOfTheEngines : Prop :=
  (∀ (s : State) (part slot : Nat) (f : Flit), live s = true → flitAt s part slot = some f →
      (f.waiting = true → f.fin = none → fenceMet s f = true →
        MakesE (.flitStart part slot) s (setFlit part slot (fun f => { f with waiting := false, startAt := s.now, startId := s.nextId }) s)) ∧
      (0 < fTimeMs f.word → f.accAt + fTimeMs f.word * 1000000 ≤ s.now → f.fin = none → f.prov = false →
        (f.waiting = true → MakesE (.flitTimeLimit part slot) s (releaseAnswer f (endOp part slot .retryLater 0x09 s))) ∧
        (f.waiting = false → (fEngine f.word = 3 ∨ fEngine f.word = 6) → MakesE (.flitTimeLimit part slot) s (endOp part slot .retryLater 0x09 s))) ∧
      (f.todo ≠ [] → MakesE (.engCellReserve part slot) s (engIssue part slot s)) ∧
      (∀ e, f.fin = some e → f.answer = none → f.out = [] → f.recordOut = false → f.record = none →
        (fCmplEn f.word = false → ∃ t, MakesE (.engineCompletion part slot) s t ∧
          (lineAt t part slot).state = 2 ∧ (lineAt t part slot).record = BitVec.ofNat 128 (recordOf s f e) ∧ (lineAt t part slot).cmplLost = false ∧
          t.eng.flits.length + 1 = s.eng.flits.length ∧ t.eng.zeroing = s.eng.zeroing + f.granules ∧
          t = { s with mem := { s.mem with locks := t.mem.locks }
                       eng := { s.eng with lines := t.eng.lines, flits := t.eng.flits, zeroing := t.eng.zeroing }
                       mgmt := { s.mgmt with partTot := t.mgmt.partTot } }) ∧
        (fCmplEn f.word = true → MakesE (.engineCompletion part slot) s (setFlit part slot (fun f => { f with
          recordOut := true, record := some (recordOf s f e), failed := none, pol := 0
          todo := [{ addr := fCmplAddr f.word, key := fCmplKey f.word, len := 16, write := true, data := natLe 16 (recordOf s f e), need := needEW }] }) s))) ∧
      (0 < s.eng.zeroing → s.eng.aclkGated = false →
        MakesE .scratchZeroed s { s with eng := { s.eng with zeroing := s.eng.zeroing - 1, scrFree := s.eng.scrFree + 1 } })) ∧
  (∀ (s : State), live s = true →
      (∀ g, (groupAt s g).state = .draining → (groupAt s g).endAs = none → groupOpen (groupAt s g) = 0 →
        MakesE (.groupRelease g) s (endFlit (groupAt s g).part (groupAt s g).armSlot
          { status := .ok, lo := (groupAt s g).okCnt, hi := (groupAt s g).poisonCnt } (setGroup g (fun x => { x with state := .idle, slots := [] }) s))) ∧
      (∀ g seq, (groupAt s g).state = .armed →
        let j := chunkIdx s (groupAt s g) seq
        let c := chunkSlot (groupAt s g) j
        let us := if fw (groupAt s g).word 0x24 16 16 = 0 then (groupAt s g).tmpl.timeoutUs else fw (groupAt s g).word 0x24 16 16
        c.open_ = true → c.done = false → c.seq = seq → c.openedAt + 1000 * us ≤ s.now →
        MakesE (.chunkTimeout g seq) s (endChunk g j (setChunk g j (fun c => { c with poison := true, detail := 0x81 }) (bumpG .rduTimeout 1 s)))) ∧
      (∀ i c k ord, collAt s i = some c → c.dropped = some (k, ord) → collBusy s i c ord = false → dropWaits s c.part k ord = false →
        ∃ t, MakesE (.collDropDone i) s t ∧ t.eng.colls = adel s.eng.colls i ∧
          t = { s with freeIx := s.freeIx + 1, eng := { s.eng with colls := t.eng.colls, handles := t.eng.handles, flits := t.eng.flits } }) ∧
      (∀ i c f, collAt s i = some c → collRunner s c = some f → rg f 2 = 3 → f.fin = none → f.failed = none → f.todo = [] → f.out = [] → c.state = 1 →
        ∃ t d, MakesE (.compactFlip i) s t ∧ collAt t i = some d ∧ d.main = cmpTgt f ∧ d.mainKey = cmpKey f ∧ d.nPages = cmpPages f ∧ d.gen = c.gen + 1 ∧
          d.cut = (if fOp f.word = 5 then rg f 3 else c.cut) ∧ d.side = c.side ∧
          t = { s with freeIx := s.freeIx + 1, gctr := t.gctr
                       eng := { s.eng with colls := aset s.eng.colls i d, handles := t.eng.handles, flits := t.eng.flits } }) ∧
      (∀ i c n scans, collAt s i = some c → c.flipped = some (n, scans) → (s.eng.flits.any fun f => f.part == c.part && decide (f.order ∈ scans)) = false →
        ∃ t d, MakesE (.compactRecord i) s t ∧ collAt t i = some d ∧ d.side = (c.side.filter fun e => decide (n < e.seq)) ∧ d.main = c.main ∧
          d.compacting = none ∧ t = { s with eng := { s.eng with colls := aset s.eng.colls i d, flits := t.eng.flits } }) ∧
      (∀ part slot f ix q, flitAt s part slot = some f → fEngine f.word = 5 → fOp f.word = 2 → f.begun = true → f.fin = none → f.regs.getD 2 0 = 0 →
        seqOf s part (fSid f) = some (ix, q) → q.closing = some slot → (seqFlits s part (fSid f)).any (fun g => decide (g.order < f.order)) = false →
        MakesE (.seqCloseComplete part slot) s (endFlit part q.openSlot
          { status := if q.faulted then .poison else .ok, detail := if q.faulted then 0x86 else 0, lo := q.attends % 2 ^ 32, hi := q.tokens % 2 ^ 32 }
          (setFlit part slot (fun f => { f with regs := [0, 0, 1, q.openSlot, (flitAt s part q.openSlot).elim 0 (·.order)] }) (freeSeq ix s)))))

/-- An OP_FLIT that is not accepted leaves the engines as they are (R217, R228): only refuse_status and refuse_cookie of its status line and the counters
change. One that is accepted joins the running flits; its slot is RUNNING and its seq moves on, with its answer, at once or, for GROUP_ARM, SEQ_OPEN and
SCATTER_ADD, which are answered once they may no longer be turned away, with that later answer (assumption 41). -/
def Obligations.AcceptanceOfAnOpFlit : Prop :=
  ∀ (s t : State) (id rid port part slot : Nat) (w : BitVec 512) (st : Status), acceptFlit id rid port part slot w s = (st, t) →
    (st ≠ .ok → t.eng.flits = s.eng.flits ∧ t.eng.scrFree = s.eng.scrFree ∧ t.eng.handles = s.eng.handles ∧ t.eng.colls = s.eng.colls ∧
      t.eng.seqs = s.eng.seqs ∧ t.eng.groups = s.eng.groups ∧ t.mem = s.mem ∧
      lineAt t part slot = { lineAt s part slot with refuseStatus := st, refuseCookie := fCookie w }) ∧
    (st = .ok → ∃ f, t.eng.flits = s.eng.flits ++ [f] ∧ f.part = part ∧ f.slot = slot ∧ f.rid = rid ∧ f.word = w ∧ f.order = s.eng.order ∧
      f.accAt = s.now ∧ f.prov = decide (fEngine w = 3 ∧ fOp w = 3) ∧ (lineAt s part slot).state ≠ 1 ∧ t.mem = s.mem ∧
      (answerLater w = false → f.answer = none) ∧
      (∀ a, f.answer = some a → a = id ∧ lineAt t part slot = lineAt s part slot) ∧
      (f.answer = none → (lineAt t part slot).state = 1 ∧ (lineAt t part slot).record = 0 ∧ (lineAt t part slot).cookie = fCookie w ∧
        (lineAt t part slot).seq = ((lineAt s part slot).seq + 1) % 65536))

/-- SUM, MAX and MIN of a lane do not depend on the order of its operands (R240, R242, R250): whatever order they come in, the exact result is the same value,
NaN or infinity, with the same sign. -/
def Obligations.LaneResultsIgnoreOrder : Prop :=
  ∀ (l m : List Val), l.Perm m →
    let same := fun a b : Val => a.isNan = b.isNan ∧ (a.isNan = false → a.eqv b = true ∧ a.neg? = b.neg?)
    same (sumVals l) (sumVals m) ∧ same (pickVals true l) (pickVals true m) ∧ same (pickVals false l) (pickVals false m)

/-- A TOPK result (R255, R256): k entries in ascending order; each one that is not the empty entry is in some list, and no entry left out goes before one that
is in. -/
def Obligations.TopkKeepsTheFirstK : Prop :=
  ∀ (float : Bool) (k : Nat) (ls : List (List TopEnt)),
    (topMerge float k ls).length = k ∧ topSorted float (topMerge float k ls) = true ∧
    (∀ x ∈ topMerge float k ls, x ≠ .empty → x ∈ ls.flatten) ∧
    (∀ y ∈ ls.flatten, y ∉ topMerge float k ls → ∀ x ∈ topMerge float k ls, topLt float y x = false)

/-! ## Links (chapter 12) -/

/-- FLIT_RECEIVE (R357, R358, R366): on a Bamom port that is UP, a flit that fails FEC or CRC is counted and a NAK names the expected flit; a NULL flit is
discarded; one that does not carry the expected number is discarded with a NAK; the expected one moves the number on modulo 1,024 and its 250 bytes join the
channel its bit 10 names. ACK, NAK, ACK_TIMER and RESEND_TIMEOUT (R366, R367): an ACK frees the flits up to the one it names, is progress, and lets what
waited for room in the retry buffer go; a NAK has the flits from the one it names sent again; 32 flits in order, or 256 ns, draw an ACK of the last; 4 us
without progress resend from the first; after eight resends without progress the port goes down with cause 0. -/
def Obligations.LinkFlitsAndRetry : Prop :=
  (∀ (s : State) (p : Nat) (f : Bytes), live s = true → bamomUp s p = true →
      let a := setPort p (fun q => { q with lastFlit := s.now }) s
      MakesR (.flitReceive p false f) s (flitFails p (bumpP p .fecUnc 1 a)) ∧
      (fieldAt f 0xFC 4 ≠ crc32c (f.take 252) → MakesR (.flitReceive p true f) s (flitFails p (bumpP p .crcErr 1 a))) ∧
      (f.length ≠ 256 → MakesR (.flitReceive p true f) s (flitFails p (bumpP p .crcErr 1 a))) ∧
      (f.length = 256 → fieldAt f 0xFC 4 = crc32c (f.take 252) → bitAt (fieldAt f 0 2) 11 = true →
        MakesR (.flitReceive p true f) s (let c := freeBit a; bumpP p .fecCorr (b2n c.1) c.2)) ∧
      (f.length = 256 → fieldAt f 0xFC 4 = crc32c (f.take 252) → bitAt (fieldAt f 0 2) 11 = false →
        let c := freeBit a
        let a := bumpP p .fecCorr (b2n c.1) c.2
        (bits (fieldAt f 0 2) 0 10 ≠ (port s p).rxExp → MakesR (.flitReceive p true f) s (flitFails p a)) ∧
        (bits (fieldAt f 0 2) 0 10 = (port s p).rxExp → MakesR (.flitReceive p true f) s (flitBody p (bitAt (fieldAt f 0 2) 10) ((f.drop 2).take 250)
          (setPort p (fun q => { q with rxExp := (q.rxExp + 1) % 1024, rxUnacked := q.rxUnacked + 1, rxAt := s.now, rxUnits := [] }) a))))) ∧
  (∀ (s : State) (p : Nat), live s = true → bamomUp s p = true →
      (∀ n i, ((port s p).unacked.findIdx? fun f => f.1 == n) = some i →
        (let a := ctlFree p (setPort p (fun q => { q with unacked := q.unacked.drop (i + 1), resends := 0, ackAt := s.now }) s)
         MakesR (.ack p n) s (sendItems p (port a p).items a)) ∧
        MakesR (.nak p n) s (resendFrom p i s)) ∧
      (∀ n, ((port s p).unacked.findIdx? fun f => f.1 == n) = none → MakesR (.ack p n) s s ∧ MakesR (.nak p n) s s) ∧
      (1 ≤ (port s p).rxUnacked → (32 ≤ (port s p).rxUnacked ∨ (port s p).rxAt + 256 ≤ s.now) →
        MakesR (.ackTimer p) s (sendItem p (.ack (((port s p).rxExp + 1023) % 1024)) (setPort p (fun q => { q with rxUnacked := 0 }) s))) ∧
      ((port s p).unacked ≠ [] → (port s p).ackAt + 4000 ≤ s.now → MakesR (.resendTimeout p) s (resendFrom p 0 s)) ∧
      (8 ≤ (port s p).resends → ∀ i, resendFrom p i s = portGoesDown p 0 s) ∧
      ((port s p).resends < 8 → ∀ i, resendFrom p i s = ((port s p).unacked.drop i).foldl (fun s f => wireOut p (.flit f.2) s)
        (setPort p (fun q => { q with resends := q.resends + 1, ackAt := s.now }) (bumpP p .replay 1 s))))

/-- CREDIT, TOS, GRANT, DOWN and NARROW on a Bamom port that is UP, and CAP on one in step T6 (R364, R190, R368, R205, R372, R373, R371): credits add up to
4,095; a timing ordered set is kept with its arrival, and once in 1 ms its echo gives the one-way delay, half the sum of the two differences plus the
asymmetry; a grant joins the incoming ones; the far end's DOWN takes the port down with cause 3; NARROW changes the lanes both ends use; a CAP whose role,
generation and width agree brings the port UP, and one where they do not leaves it FAILED and reported. -/
def Obligations.LinkItems : Prop :=
  ∀ (s : State) (p : Nat), live s = true →
    (bamomUp s p = true →
      (∀ a b, MakesR (.credit p a b) s (setPort p (fun q => { q with ownReq := min 4095 (q.ownReq + a), ownMsg := min 4095 (q.ownMsg + b) }) s)) ∧
      (∀ echo txPs tTx e1Ps e1 e2Ps e2 arrPs arr,
        let due := echo = true ∧ ∀ t, (port s p).delayAt = some t → t + 1000000 ≤ s.now
        let d : Int := ((((arr * 1000 + arrPs : Nat) : Int) - ((tTx * 1000 + txPs : Nat) : Int)) +
          (((e2 * 1000 + e2Ps : Nat) : Int) - ((e1 * 1000 + e1Ps : Nat) : Int))) / 2 + (port s p).asymPs
        (due → MakesR (.tos p echo txPs tTx e1Ps e1 e2Ps e2 arrPs arr) s (setPort p (fun q => { q with
          lastTos := some (tTx, arr), lastTosPs := (txPs, arrPs), tosRxAt := some s.now, delayPs := d, delayAt := some s.now }) s)) ∧
        (¬due → MakesR (.tos p echo txPs tTx e1Ps e1 e2Ps e2 arrPs arr) s (setPort p (fun q => { q with
          lastTos := some (tTx, arr), lastTosPs := (txPs, arrPs), tosRxAt := some s.now }) s))) ∧
      (∀ a n x, MakesR (.grant p a n x) s (setPort p (fun q => { q with grantsIn := q.grantsIn ++ [
        { gid := s.nextId, left := 64 * a, perSlot := n, expiry := slotAbs (ftSlot s) x }] }) { s with nextId := s.nextId + 1 })) ∧
      (∀ c, MakesR (.down p c) s (portGoesDown p 3 s)) ∧
      (∀ m n, MakesR (.narrow p m n) s (narrowTo p (m % 65536) n (setPort p (fun q => { q with laneMask := m % 65536 }) s)))) ∧
    ((port s p).link = .training → (port s p).trainStep = 6 → ∀ role gen width a b c d l,
      let s0 := s
      let s := setPort p (fun q => { q with farDev := d % 2 ^ 32 }) s
      (role = (portRec s p).role ∧ gen = (port s p).gen ∧ width = (port s p).widthNow → MakesR (.cap p role gen width a b c d l) s0 (portComesUp p a b c l s)) ∧
      (¬(role = (portRec s p).role ∧ gen = (port s p).gen ∧ width = (port s p).widthNow) → MakesR (.cap p role gen width a b c d l) s0
        (emit (.trainFail p 6) (setPort p (fun q => { q with link := .failed, trainStep := 0, capFailed := true }) (dropGrants p s)))))

/-- Training (R370, Table 12.8) and Paste's hold on a port (R372): a step of the first three leads to the next; T4 keeps the largest aligned power of two of
the lanes that passed and goes on to send CAP, or fails for too few; a step past its time limit fails the attempt; on the twin link T3 ends with this plane's
identity shown, and T4 does not end while the twin's identity fails the check (R454). Retrain and disable take an UP port down with cause 5. What takes a link
down or up, or narrows it (R372 to R374, R355): silence of 1 us, a lost lane, a CXL or Ethernet link that is lost, a failed UCIe module; a CXL or Ethernet
port that awaits its link comes UP at the width its link has, a CXL port with 128 request and 128 data credits (Table 12.10), and may narrow down to its least
width. -/
def Obligations.PortsTrainFailAndComeBack : Prop :=
  (∀ (s : State) (p : Nat), live s = true →
      ((port s p).link = .training →
        (∀ l g x, (port s p).trainStep = 1 → MakesR (.trainingStepComplete p l { gen := g, twin := x }) s (trainTo p 2 s)) ∧
        (∀ l g x, (port s p).trainStep = 3 → MakesR (.trainingStepComplete p l { gen := g, twin := x }) s
          (trainTo p 4 (if (portRec s p).role = 2 then wireOut p (.ident (twinSelf s)) s else s))) ∧
        (∀ l x, (port s p).trainStep = 2 → MakesR (.trainingStepComplete p l { gen := 1, twin := x }) s (trainTo p 3 (setPort p (fun q => { q with gen := 1 }) s))) ∧
        (∀ l g x, (port s p).trainStep = 4 → (portRec s p).role = 2 → twinIdOk s x = false → MakesR (.trainingStepComplete p l { gen := g, twin := x }) s s) ∧
        (∀ l g x, (port s p).trainStep = 4 → ((portRec s p).role = 2 → twinIdOk s x = true) →
          let s' := if (portRec s p).role = 2 then { s with freeIx := s.freeIx + 1, twn := { s.twn with
            pairKey := some (Config.pairKey (cdiOf s) x.chain (Config.freeNat s.freeIx)), msgCtr := 0, rxCtr := 0 } } else s
          let m := l % 2 ^ (portRec s p).width
          let w := lanesIn (alignedSet (portRec s p).width m)
          let a := setPort p (fun q => { q with laneMask := m, widthNow := w, rateNow := if q.gen = 2 then 7 else 6 }) s'
          MakesR (.trainingStepComplete p l { gen := g, twin := x }) s (if w = 0 ∨ w < (portRec s p).minWidth then trainFail p 5 a else sendCap p a)) ∧
        (1 ≤ (port s p).trainStep → (port s p).stepAt + stepLimit (port s p).trainStep ≤ s.now →
          MakesR (.trainingStepTimeout p) s (trainFail p (port s p).trainStep s))) ∧
      ((aget s.img.ports p).isSome = true → s.mgmt.pasteUp = true →
        (portUp s p = true → MakesR (.portRetrain p) s (portGoesDown p 5 s)) ∧
        (portUp s p = false → MakesR (.portRetrain p) s (portRestart p s)) ∧
        (∀ on, (port s p).disable ≠ on → portUp s p = false ∨ on = false →
          MakesR (.portDisable p on) s (portRestart p (setPort p (fun q => { q with disable := on }) s))) ∧
        (portUp s p = true → (port s p).disable = false →
          MakesR (.portDisable p true) s (portGoesDown p 5 (setPort p (fun q => { q with disable := true }) s))))) ∧
  (∀ (s : State) (p : Nat), live s = true →
      (bamomUp s p = true → (port s p).lastFlit + 1000 ≤ s.now → MakesR (.linkSilence p) s (portGoesDown p 1 s)) ∧
      (∀ lane, bamomUp s p = true → (portRec s p).firstLane ≤ lane → lane - (portRec s p).firstLane < (portRec s p).width →
        bitAt (port s p).laneMask (lane - (portRec s p).firstLane) = true →
        let left := (port s p).laneMask - 2 ^ (lane - (portRec s p).firstLane)
        let m := alignedSet (portRec s p).width left
        let a := setPort p (fun q => { q with laneMask := left }) s
        let was := alignedSet (portRec s p).width (port s p).laneMask
        (m = was → MakesR (.laneDegrade p lane) s a) ∧
        (m ≠ was → lanesIn m = 0 ∨ lanesIn m < (portRec s p).minWidth → MakesR (.laneDegrade p lane) s (portGoesDown p 2 a)) ∧
        (m ≠ was → lanesIn m ≠ 0 → (portRec s p).minWidth ≤ lanesIn m →
          let n := ((port s p).unacked.head?.map (·.1)).getD (port s p).txSeq
          MakesR (.laneDegrade p lane) s (narrowTo p m n (sendItem p (.narrow m n) a)))) ∧
      (portUp s p = true → (portRec s p).protocol = 2 → MakesR (.cxlLinkDown p) s (portGoesDown p 7 s)) ∧
      (portUp s p = true → (portRec s p).protocol = 3 → MakesR (.ethLinkLoss p) s (portGoesDown p 8 s)) ∧
      (∀ m, MakesR (.ucieModuleFail m) s ((octetPorts s m).foldl (fun s p => portGoesDown p 6 s)
        { s with flt := { s.flt with modulesOut := addOnce s.flt.modulesOut m } })) ∧
      (∀ w, 1 ≤ w → w ≤ (portRec s p).width → awaitsLink s p 2 = true → MakesR (.cxlLinkUp p w) s (cameUp p [] (setPort p (fun q => { q with
        link := .up, widthNow := w, rateNow := (portRec s p).maxRate, laneMask := 2 ^ w - 1, lastFlit := s.now, cxlReq := 128, cxlDat := 128 }) s))) ∧
      (awaitsLink s p 3 = true → MakesR (.ethLinkUp p) s (cameUp p [] (setPort p (fun q => { q with
        link := .up, widthNow := (portRec s p).width, rateNow := (portRec s p).maxRate, laneMask := 2 ^ (portRec s p).width - 1, lastFlit := s.now, cxlReq := 0, cxlDat := 0 }) s))) ∧
      (∀ w, portUp s p = true → (portRec s p).protocol = 2 → 1 ≤ w → w < (port s p).widthNow → (portRec s p).minWidth ≤ w →
        MakesR (.cxlLinkNarrow p w) s (bumpP p .narrow 1 (setPort p (fun q => { q with widthNow := w, laneMask := 2 ^ w - 1 }) s))))

/-- FLASH_RESPONSE, FLASH_CMD_TIMEOUT, L2_AGE, GATEWAY_FRAME and GW_PIECE_RESEND (R375, R98, R380, R385, R386): a flash tray's good read is delivered, and the
answer of a program or erase moves its owner on; a program or erase unanswered at its limit makes the tray's port suspect; a learned address older than age_s
is forgotten; a frame from a peer that is not the window's is dropped and counted, and one from an exporting peer is served; a piece unanswered for 200 us is
sent again, until the block fails after eight. -/
def Obligations.FlashAnswersAndEthernetTables : Prop :=
  ∀ (s : State), live s = true →
    (∀ aid a d ok, findAcc s aid = some a → a.state = .sent → (∀ n c, a.owner ≠ .rebuild n c) → (∀ p, a.owner ≠ .geom p) →
      (a.kind = .flRead → MakesR (.flashResponse aid true d) s (deliverAcc a .ok (sectorPart a (slice d 0 4096)) (accGone a s))) ∧
      (a.kind = .flProg ∨ a.kind = .flErase →
        MakesR (.flashResponse aid ok d) s (deliverAcc a (if ok then .ok else .poison) [] (accGone a s)) ∧
        (a.execEnd ≤ s.now → MakesR (.flashCmdTimeout aid) s (suspectPort a.port s)))) ∧
    (∀ vid mac x t, aget s.eth.macs (vid, mac) = some (x, t) → t + (dev s).ageS * 10 ^ 9 ≤ s.now →
      Makes (.l2Age vid mac) s { s with eth := { s.eth with macs := adel s.eth.macs (vid, mac) } }) ∧
    (∀ p g, portIs s p 3 3 = true → portUp s p = true → let v := fecSeen p s
      (∀ w, g.op = 2 ∨ g.op = 3 → aget s.img.gwWins g.window = some w → (w.peerMac ≠ g.peerMac ∨ w.peerDomain ≠ g.peerDomain) →
        MakesR (.gatewayFrame p g) s (bumpP p .l2Drop 1 v)) ∧
      (∀ e, g.op ≤ 1 → (s.img.gwExps.find? fun e => e.2.peerMac = g.peerMac ∧ e.2.peerDomain = g.peerDomain) = some e →
        MakesR (.gatewayFrame p g) s (gwServe e.2.rid g v))) ∧
    (∀ w b k g, aget s.img.gwWins w = some g → (gwBlockAt s w b).state = .fetching → k ∉ (gwBlockAt s w b).pieces → gwBusy s w b k = false →
      1 ≤ agetD (gwBlockAt s w b).sends k 0 → agetD (gwBlockAt s w b).sentAt k 0 + 200000 ≤ s.now →
      MakesR (.gwPieceResend w b k) s (if 8 ≤ agetD (gwBlockAt s w b).sends k 0 then gwBlockFail w b s else gwSend w b k 0 [] s))

/-! ## Faults and calving (chapter 14) -/

/-- The fault queue (R417, Table 14.3): up to 256 events are queued, each with its context, and a full queue counts further events and keeps the ones it
holds; a read of GLB_FAULT_EVENT0 removes the oldest event and latches it into GLB_FAULT_EVENT0 to 3, in the layout of the record. -/
def Obligations.FaultQueueHoldsTheOldest256 : Prop :=
  (∀ (s : State) (kind uk unit op part : Nat), let t := faultEvent kind uk unit op part s
    (s.flt.events.length < 256 → ∃ n, t.flt.events = s.flt.events ++ [{
      kind := kind, unitKind := uk, unit := unit, op := op, part := part, tempQ := tempOf s (nearestSensor uk unit), tempMaxQ := hottest s
      vddMv := s.pwr.mvs.getD 0 0, throttled := s.pwr.supplyThr || s.pwr.thermalThr, ctxBusy := ctxOnUnit s uk unit, issuePct := n, ft := ft s }]) ∧
    (256 ≤ s.flt.events.length → t.flt.events = s.flt.events ∧ t.flt.unqueued = s.flt.unqueued + 1)) ∧
  (∀ (s : State) (e : FaultEv) (l : List FaultEv), live s = true → s.mgmt.pasteUp = true → s.flt.events = e :: l →
    ∃ t, Makes .faultEventRead s t ∧ t.flt.events = l ∧ (∀ i, i < 4 → csr t (0x648 + 8 * i) = (packFault e).getD i 0)) ∧
  (∀ e : FaultEv, let w := fun i => (packFault e).getD i 0
    (packFault e).length = 4 ∧ bits (w 0) 0 4 = e.kind % 16 ∧ bits (w 0) 4 4 = e.unitKind % 16 ∧ bits (w 0) 8 12 = e.unit % 4096 ∧
    bits (w 0) 20 8 = e.op % 256 ∧ bits (w 0) 32 16 = e.tempQ % 65536 ∧ bits (w 0) 48 16 = e.tempMaxQ % 65536 ∧ bits (w 1) 0 16 = e.vddMv % 65536 ∧
    bitAt (w 1) 16 = e.throttled ∧ bits (w 1) 32 8 = e.ctxBusy % 256 ∧ bits (w 1) 40 8 = e.issuePct % 256 ∧ bits (w 1) 48 7 = e.part % 128 ∧
    w 2 = e.ft % 2 ^ 64 ∧ w 3 = 0)

/-- Faults of the engines (R411 to R416): an uncorrectable error is counted and its structure handled (here a scratch handle and the table entry of a
partition); a canary that passes is counted, one that fails maps its unit out; a residue mismatch is noted and ends the flit that ran on the unit, or answers
the tagged request of an atomic unit's lane POISON; the canary sets run on every unit when they are due, or when the issue rate falls. FAULT_EVENT_READ,
CALVE_REQUEST, MARKER_TIMEOUT, BADKEY_ALERT and TAP_CONTROL_PAGE (R417, R418, R424, R455, R438): the oldest event leaves the queue and is latched; a calving
asked for by Paste has cause 1; a reactivation marker unreturned for 1 ms takes its port down with cause 9; 256 BAD_KEY answers in a window set the
partition's alert; a tap writes its page after 64 records or 10 us. -/
def Obligations.FaultsAndAlerts : Prop :=
  (∀ (s : State) (u : UnitId), live s = true →
      (∀ p h, (handleAt s p h).isSome = true → MakesR (.sramUncorrectable (.residentScratch p h)) s (handleUnc p h (faultEvent 0 0 0 0 p (bumpG .sramUnc 1 s)))) ∧
      (∀ p, MakesR (.sramUncorrectable (.tablePart p)) s (calve 4 [p] (faultEvent 0 7 0 0 p (bumpG .sramUnc 1 s)))) ∧
      (unitLive s u = true →
        MakesR (.canary u true) s (bumpG .canaryRun 1 s) ∧
        (let a := bumpG .canaryRun 1 s
         MakesR (.canary u false) s (mapOut u (faultEvent 3 u.kind u.num 0 0 (bumpG .canaryFail 1
           { a with flt := { a.flt with unitTot := amod a.flt.unitTot u (0, 0) fun t => (t.1, t.2 + 1) } })))) ∧
        (s.mgmt.pasteUp = true → ∀ b, MakesR (.issueRateCanary u b) s (allUnits.foldl (fun s v => canarySet s v (decide (v = u) && !b)) s)) ∧
        (∀ p k f, u.kind ≠ 4 → ((onUnit s u).find? fun f => f.part = p ∧ f.slot = k) = some f →
          MakesR (.residueMismatch u p k) s (residueCheck u (faultSeqs u (faultFlit (residueNote u (fOp f.word) p s) f)))) ∧
        (∀ p k r, u.kind = 4 → findReq s k = some r → r.phase = .auRead → kindTagged r.kind = true → MakesR (.residueMismatch u p k) s
          (residueCheck u (setReq k (fun r => { r with finalSt := .poison }) (residueNote u (kindCode r.kind) r.hdr.part s))))) ∧
      (∀ l, s.flt.canaryDue = true → s.mgmt.pasteUp = true → MakesR (.canarySetRun l) s
        (allUnits.foldl (fun s u => canarySet s u (decide (u ∈ l))) { s with flt := { s.flt with canaryDue := false } }))) ∧
  (∀ (s : State), live s = true →
      (s.mgmt.pasteUp = true →
        (∀ e l, s.flt.events = e :: l → ∃ t, Makes .faultEventRead s t ∧ t.flt.events = l ∧ t.flt.latched = some e) ∧
        (∀ l, MakesR (.calveRequest l) s (calveSome 1 l s))) ∧
      (∀ m mid, (s.mem.markers.find? fun m => m.mid = mid) = some m → m.why = 1 → m.sentAt + 1000000 ≤ s.now →
        MakesR (.markerTimeout mid) s (portGoesDown m.port 9 s)) ∧
      (∀ p, 256 ≤ agetD s.mem.badKeyWin p 0 → p ∉ s.sec.badkey → partState s p ≠ 0 →
        Makes (.badkeyAlert p) s (emit (.badkey p) (setSec (fun c => { c with badkey := addOnce c.badkey p }) s))) ∧
      (∀ p, (agetD s.taps p {}).en = true → (64 ≤ (agetD s.taps p {}).since ∨ (agetD s.taps p {}).pageAt + 10000 ≤ s.now) →
        MakesR (.tapControlPage p) s (tapPage p s)))

/-! ## The twin (chapter 14) and the image (chapter 13) -/

/-- The twin's events with the twin link up (R423, R427 to R433, Table 14.7): a heartbeat's claims are checked against this plane's; one is sent after 1 us of
silence; TWIN_CALVE calves with cause 3, and when it takes the last partition out of service while this plane resynchronises, the pair is lost (R434); FAILING
of a pair begins adoption, which ends once every PENDING entry is replayed with both stripes served; resynchronisation sends state, holds it against this
plane's own and starts again where they differ, takes the transfer, and ends PAIRED with each plane on its own stripe. -/
def Obligations.TwinEvents : Prop :=
  ∀ (s : State), live s = true →
    (twinUp s = true →
      (∀ cl, s.twn.twinInService.isSome = true → s.twn.adoptPending = false → s.twn.state ≠ .resyncSrc → s.twn.state ≠ .resyncDst →
        MakesR (.twinHeartbeat cl) s (checkUnclaimed cl (cl.foldl checkClaim (setTwn (fun t => { t with peer := cl, twinInService := some !cl.isEmpty }) s)))) ∧
      (s.twn.sentAt + 1000 ≤ s.now → MakesR .twinHeartbeatSend s (sendTwin (.heartbeat (ownClaims s)) s)) ∧
      (∀ p, MakesR (.twinCalve p) s
        (if s.twn.state = .resyncDst ∧ activeParts s ≠ [] ∧ activeParts (calve 3 [p] s) = [] then pairLost (calve 3 [p] s) else calve 3 [p] s)) ∧
      (s.twn.state = .paired → s.twn.returning = false → s.mgmt.state = .run → s.twn.servesOwn = true →
        MakesR .failing s (beginAdopt (mirroringSound s) s)) ∧
      (∀ x, s.twn.state = .resyncSrc → MakesR (.resyncState x) s
        (sendTwin (.resyncPack (resyncPackOf s)) (setTwn (fun t => { t with state := .resyncSrc, resyncPct := 0 }) s))) ∧
      (∀ x, s.twn.state = .resyncDst → x.baseSerial = s.sec.imgBase ∧ x.segSerials = s.sec.segSerials ∧ x.rangeDigest = rangeDigest s →
        MakesR (.resyncState x) s (setTwn (fun t => { t with state := .resyncDst, s2ok := true }) (takePack x s))) ∧
      (∀ x, s.twn.state = .resyncDst → ¬(x.baseSerial = s.sec.imgBase ∧ x.segSerials = s.sec.segSerials ∧ x.rangeDigest = rangeDigest s) →
        MakesR (.resyncState x) s (twinEvent 9 (setTwn (fun t => { t with state := .alone, s2ok := false, returning := true }) s))) ∧
      (∀ x, s.twn.state = .resyncDst → s.twn.s2ok = true → MakesR (.resyncTransferDone x) s
        (startCatchup (setTwn (fun t => { t with resyncPct := 100, maxEpoch := max t.maxEpoch x.highestEpoch }) (takeXfer x s)))) ∧
      (s.twn.resyncPct = 100 → s.twn.state = .resyncSrc → s.twn.yielding = true → yieldBusy s = false →
        MakesR .resyncHandover s (pairUp (setTwn (fun t => { t with servesTwin := false }) s)))) ∧
    (s.twn.adoptPending = true → s.mem.shadow.any pendingEnt = false → s.mem.accs.any replaying = false →
      let a := adoptCalve (markLostSide (adoptFlash (setTwn (fun t => { t with servesTwin := true }) (adoptMap s))))
      MakesR .adoptionComplete s (twinEvent 4 (sendTwin .adopted (setTwn (fun t => { t with
        state := .adopted, adoptPending := false, adoptFirst := ft a, yielding := false }) a))))

/-- Images and segments (R388, R390, R405, R406, R471, R481): a piece of an image in order is kept; the last piece of an image for a slot whose header passes
is stored there; the twin's result on a segment is kept until it decides; phase 2 writes the granting changes once the drain has ended; the digest is that of
the live tables. -/
def Obligations.ImagesArriveInOrder : Prop :=
  ∀ (s : State), live s = true →
    (∀ sess off tot d, Controls s sess → uploadOk s sess 0 0 off tot (32 * 2 ^ 20) d = true → off + d.length < tot →
      (s.mgmt.uploads.any fun u => u.what == 0 && u.target == 0 && u.sess != sess) = false →
      ∃ t, upload sess 0 0 off tot d s = (none, t) ∧ MakesR (.imagePut sess 0 off tot d) s (reply sess 0x10 .ok [] t) ∧
        uploaded t sess 0 0 = off + d.length) ∧
    (∀ sess d, Controls s sess → 1 ≤ d.length → d.length ≤ 2 ^ 20 → (s.mgmt.uploads.any fun u => u.what == 0 && u.target == 1 && u.sess != sess) = false →
      ∃ t, upload sess 0 1 0 d.length d s = (some d, t) ∧ (chkHeader t d = none → (imageOf d).partialSeg = false →
        MakesR (.imagePut sess 1 0 d.length d) s (reply sess 0x10 .ok [] (setNv (fun v => { v with imgA := d }) t)))) ∧
    (∀ n ok d, s.sec.segs = [] → MakesR (.segmentTwinResult n ok d) s
      (setSec (fun c => { c with twinResults := c.twinResults.filter (fun x => x.1 ≠ n) ++ [(n, ok, d)] }) s)) ∧
    (∀ g l, s.sec.segs = g :: l → g.phase = 2 → g.calved = false → segDrained s g = true → MakesR .segmentPhase2 s
      (if withTwin (segPhase2 g s) then tellResult g true (segPhase2 g s) else segPhase2 g s)) ∧
    MakesR .tableDigestRecompute s (setSec (fun c => { c with tblDigest := Config.sha384 (tableBytes s), tblEpoch := c.epoch, tblPending := false }) s)

/-! ## Rind (chapter 15) -/

/-- Rind's commands on an established session (Table 15.5, R25, R33, R418, R446, R449 to R451, R459, R465), each where the spec lets it execute. KEY_ROTATE
from the twin (R35, assumption 60) acknowledges a rotation of this plane, or writes the key that the twin has drawn; ACCESS_DRAIN_DONE reports the rotations
whose requests are all answered on both planes. -/
def Obligations.RindCommands : Prop :=
  ∀ (s : State) (n : Nat) (x : RindSess), live s = true → rindAt s n = some x → x.ready = true →
    (x.claim = false →
      (∀ i, (rangeOf s i).valid = true → ((dev s).twinPresent = false ∨ twinUp s = true ∨ s.twn.servesTwin = true) →
        ∃ k t, k ≠ 0 ∧ MakesR (.keyRotate (.session n) i) s t ∧ (rangeOf t i).key = k ∧
          t.sec.rots = s.sec.rots ++ [{ range := i, sess := n, key := k, drain := checkedIds s }]) ∧
      (∀ p, Makes (.keyReport n p) s (rindOk n 0x02 (natLe 4 (agetD s.eng.apKeys p 0).toNat ++
        (s.img.ranges.filter fun e => e.2.valid && e.2.owner == p).flatMap fun e => natLe 2 e.1 ++ natLe 4 e.2.key.toNat) s)) ∧
      (∀ l, MakesR (.calve n l) s (rindOk n 0x03 [] (calveSome 0 l s))) ∧
      (∀ k, s.nv.sealSecret = some k →
        Makes (.sealExport n) s (rindOk n 0x06 (Config.wrap k.toNat (dev s).domainId (pairNo s) (packNonces s.nv.nonces)) s)) ∧
      (∀ v g, signedOk s x (natLe 1 0x05 ++ natLe 32 v.toNat) g = true → s.nv.ownGen < 4094 → (s.img.ranges.any fun e => e.2.valid && e.2.sealed) = false →
        Makes (.sealSecretSet n v g) s (rindOk n 0x05 [] (setNv (fun w => { w with sealSecret := some v, ownGen := w.ownGen + 1, storeGen := w.ownGen + 1 }) s))) ∧
      (∀ b g k d, signedOk s x (natLe 1 0x07 ++ b) g = true → s.nv.sealSecret = some k → Config.unwrap k.toNat (dev s).domainId (pairNo s) b = some d →
        s.nv.nonces = [] → Makes (.sealImport n b g) s (rindOk n 0x07 [] (setNv (fun v => { v with nonces := nonceList d.length d }) s))) ∧
      (∀ i k g, signedOk s x (natLe 1 0x10 ++ (natLe 4 i ++ k)) g = true → s.nv.ownerKeys.length < 4 → aget s.nv.ownerKeys i = none →
        Makes (.ownerKeyAdd n i k g) s (rindOk n 0x10 [] (setNv (fun v => { v with ownerKeys := v.ownerKeys ++ [(i, k)] }) s))) ∧
      (∀ i g, signedOk s x (natLe 1 0x11 ++ natLe 4 i) g = true → s.nv.ownGen < 4094 → g.keyId ≠ i → (aget s.nv.ownerKeys i).isSome = true →
        1 < s.nv.ownerKeys.length →
        Makes (.ownerKeyRevoke n i g) s (rindOk n 0x11 [] (setNv (fun v => { v with ownerKeys := adel v.ownerKeys i, ownGen := v.ownGen + 1, storeGen := v.ownGen + 1 }) s))) ∧
      (∀ ca g, signedOk s x (natLe 1 0x12 ++ ca) g = true →
        Makes (.mgmtCaSet n ca g) s (closeAll (s.mgmt.sessions.map (·.sess)) (rindOk n 0x12 [] (setNv (fun v => { v with mgmtCa := ca }) s)))) ∧
      (∀ l g, signedOk s x (natLe 1 0x13 ++ l.flatMap (natLe 20)) g = true → l.length ≤ 256 → ∃ t, Makes (.crlSet n l g) s t ∧ t.nv.crl = l ∧
        (∀ y ∈ t.mgmt.sessions, y.claim = false → ∀ c ∈ y.cert :: y.issuers, c ∉ l) ∧
        (∀ y ∈ t.sec.sessions, y.claim = false → ∀ c ∈ y.cert :: y.issuers, c ∉ l) ∧
        t = { s with nv := { s.nv with crl := l }, sec := { s.sec with sessions := t.sec.sessions }, out := t.out
                     mgmt := { s.mgmt with sessions := t.mgmt.sessions, controller := t.mgmt.controller, uploads := t.mgmt.uploads, subs := t.mgmt.subs } })) ∧
    (∃ t v, Makes (.nonce n) s t ∧ (∀ y ∈ t.sec.sessions, y.sess = n → y.nonce = some v) ∧
      t = { s with freeIx := s.freeIx + 1, sec := { s.sec with sessions := t.sec.sessions }, out := t.out }) ∧
    (x.claim = true → claimOpen s = true → ∀ i k ca, ∃ t, Makes (.claim n i k ca) s t ∧ t.nv.owned = true ∧ t.nv.ownerKeys = [(i, k)] ∧ t.nv.mgmtCa = ca ∧
      (∀ y ∈ t.sec.sessions, y.claim = false) ∧ (∀ y ∈ t.mgmt.sessions, y.claim = false) ∧
      t = { s with nv := { s.nv with owned := true, ownerKeys := [(i, k)], mgmtCa := ca }, sec := { s.sec with sessions := t.sec.sessions }, out := t.out
                   mgmt := { s.mgmt with sessions := t.mgmt.sessions, controller := t.mgmt.controller, uploads := t.mgmt.uploads, subs := t.mgmt.subs } }) ∧
    (∀ i k, twinUp s = true →
      ((s.sec.rots.any fun r => r.range == i && r.key == k) = true → MakesR (.keyRotate (.twin k) i) s
        (setSec (fun c => { c with rots := c.rots.map fun r => if r.range = i ∧ r.key = k then { r with twinOk := true } else r }) s)) ∧
      ((s.sec.rots.any fun r => r.range == i && r.key == k) = false → (rangeOf s i).valid = true → k ≠ 0 → (rangeOf s i).key ≠ k →
        ∃ t, MakesR (.keyRotate (.twin k) i) s t ∧ (rangeOf t i).key = k ∧
          t.sec.rots = s.sec.rots ++ [{ range := i, sess := 0, key := k, drain := checkedIds s, peer := true }])) ∧
    ∃ t, MakesR .accessDrainDone s t ∧ t.sec.rots = s.sec.rots.filter fun r => !rotDone s r

/-- RELEASE (R450), signed by an owner key, with a step of the OTP generation left: every partition is calved first; then the part is UNOWNED, the owner keys,
the management CA and its revocation list, the seal secret and every seal nonce are erased, the ownership generation advances, and the serial floor is kept.
-/
def Obligations.ReleaseReturnsToUnowned : Prop :=
  ∀ (s : State) (n : Nat) (x : RindSess) (g : OwnerSig), live s = true → rindAt s n = some x → x.ready = true → x.claim = false →
    signedOk s x (natLe 1 0x14 ++ []) g = true → s.nv.ownGen < 4095 →
    ∃ a t, a = calve 10 allParts s ∧ MakesR (.release n g) s (rindOk n 0x14 [] t) ∧ t = { a with nv := t.nv } ∧
      t.nv.owned = false ∧ t.nv.ownerKeys = [] ∧ t.nv.mgmtCa = [] ∧ t.nv.crl = [] ∧ t.nv.sealSecret = none ∧ t.nv.nonces = [] ∧
      t.nv.ownGen = a.nv.ownGen + 1 ∧ t.nv.serialFloor = a.nv.serialFloor

/-- A command that an owner must sign and whose signature does not verify changes nothing but the answer (R449). -/
def Obligations.UnsignedOwnerCommandsChangeNothing : Prop :=
  ∀ (s : State) (n : Nat) (x : RindSess), live s = true → rindAt s n = some x → x.ready = true → x.claim = false →
    (∀ v g, signedOk s x (natLe 1 0x05 ++ natLe 32 v.toNat) g = false → Makes (.sealSecretSet n v g) s (rindErr n 0x05 0 s)) ∧
    (∀ b g, signedOk s x (natLe 1 0x07 ++ b) g = false → Makes (.sealImport n b g) s (rindErr n 0x07 0 s)) ∧
    (∀ i k g, signedOk s x (natLe 1 0x10 ++ (natLe 4 i ++ k)) g = false → Makes (.ownerKeyAdd n i k g) s (rindErr n 0x10 0 s)) ∧
    (∀ i g, signedOk s x (natLe 1 0x11 ++ natLe 4 i) g = false → Makes (.ownerKeyRevoke n i g) s (rindErr n 0x11 0 s)) ∧
    (∀ c g, signedOk s x (natLe 1 0x12 ++ c) g = false → Makes (.mgmtCaSet n c g) s (rindErr n 0x12 0 s)) ∧
    (∀ l g, signedOk s x (natLe 1 0x13 ++ l.flatMap (natLe 20)) g = false → Makes (.crlSet n l g) s (rindErr n 0x13 0 s)) ∧
    (∀ g, signedOk s x (natLe 1 0x14 ++ []) g = false → MakesR (.release n g) s (rindErr n 0x14 0 s)) ∧
    (∀ m rndv, rindErr n m rndv s = { s with out := (rindErr n m rndv s).out })

/-- Rind as an SPDM responder (R467 to R472): version 1.3; the digest and the chain of slot 0; a challenge signed over the requester's nonce; a measurement of
Table 15.6 signed with the nonce; at most four sessions; a session is established when its chain leads to the management CA and is not revoked; heartbeats and
the end are for an established session. -/
def Obligations.SpdmAnswers : Prop :=
  ∀ (s : State) (n : Nat), live s = true →
    Makes (.getVersion n) s (spdm n 0x04 [0x00, 0x13] s) ∧ Makes (.getCapabilities n) s (spdm n 0x61 [] s) ∧
    Makes (.negotiateAlgorithms n) s (spdm n 0x63 [] s) ∧
    Makes (.getDigests n) s (spdm n 0x01 (Config.sha384 (chainOf s)) s) ∧ Makes (.getCertificate n) s (spdm n 0x02 (chainOf s) s) ∧
    (∀ v, Makes (.challenge n v) s
      (spdm n 0x03 (Config.sha384 (chainOf s) ++ Config.attest (cdiOf s) (natLe 32 v.toNat ++ Config.sha384 (chainOf s))) s)) ∧
    (∀ i v b, 1 ≤ i → i ≤ 7 → measurement s i = some b →
      Makes (.getMeasurements n i v) s (spdm n 0x60 (natLe 1 i ++ b ++ Config.attest (cdiOf s) (natLe 32 v.toNat ++ (natLe 1 i ++ b))) s)) ∧
    (s.sec.sessions.length < 4 → rindAt s n = none → (sessAt s n = none ∨ ∃ y, sessAt s n = some y ∧ y.claim = false) →
      Makes (.keyExchange n false) s (spdm n 0x64 [] (setSec (fun c => { c with sessions := c.sessions ++ [{ sess := n, claim := false }] }) s))) ∧
    (∀ x ch ct, rindAt s n = some x → x.ready = false → x.claim = false →
      (s.nv.owned = true → Config.chainOk s.nv.mgmtCa ch = true → revoked s ch ct = false → Makes (.finish n ch ct) s (spdm n 0x65 [] (setSec (fun c => { c with
        sessions := c.sessions.map fun y => if y.sess = n then { y with ready := true, cert := ct, issuers := Config.chainSerials ch } else y }) s))) ∧
      (revoked s ch ct = true → Makes (.finish n ch ct) s (spdmErr n (closeRind n s)))) ∧
    (∀ x, rindAt s n = some x → x.ready = true →
      Makes (.heartbeat n) s (spdm n 0x68 [] s) ∧ Makes (.endSession n) s (closeRind n (spdm n 0x6C [] s)))

/-! ## Prosis (chapter 16) -/

/-- What a session may send (R480, R503): in RUN a session whose accepted HELLO does not control the plane draws NOT_CONTROLLER for every command but HELLO,
BYE, FW_STATUS, REG_READ, TELEM_SUBSCRIBE and TELEM_CANCEL, and nothing changes but the answer. -/
def Obligations.ObserversDrawNotController : Prop :=
  ∀ (s : State) (n code : Nat) (x : Sess) (f : State → State), sessAt s n = some x → s.mgmt.pasteUp = true → x.claim = false → x.helloOk = true →
    s.mgmt.controller ≠ some x.sess → code ∉ [0x01, 0x02, 0x23, 0x70, 0x80, 0x81] → prosis n code f s = reply n code .notController [] s

/-- Sessions (R447, R466, R479, R480): on an owned part a client whose chain leads to the management CA and is not revoked opens one of at most eight; a
closed one takes its control with it; a HELLO of the device's major and at least its least minor is accepted, and HELLO of another level draws LEVEL. Cores
and Paste (R475, R476, R497): a core in service without a heartbeat restarts Paste with cause 0; one with an uncorrectable error leaves service and restarts
it with cause 1; Paste may ask for a restart, cause 4, and so may a RESET of kind 3, cause 3. Subscriptions, uploads and totals are lost. -/
def Obligations.SessionsAndPasteRestarts : Prop :=
  (∀ (s : State) (n : Nat), live s = true →
      (∀ ch ct, s.mgmt.pasteUp = true → s.mgmt.sessions.length < 8 → sessAt s n = none → s.nv.owned = true → Config.chainOk s.nv.mgmtCa ch = true → revoked s ch ct = false →
        Makes (.prosisSessionOpen n ch ct false) s (setMgmt (fun m => { m with sessions := m.sessions ++ [{ sess := n, cert := ct, issuers := Config.chainSerials ch }] }) s)) ∧
      (∀ x, sessAt s n = some x → ∃ t, MakesR (.prosisSessionClose n) s t ∧ sessAt t n = none ∧ (s.mgmt.controller = some n → t.mgmt.controller = none) ∧
        (∀ u ∈ t.mgmt.subs, u.sess ≠ n) ∧ t = { s with sec := { s.sec with sessions := t.sec.sessions }, out := t.out
                                                       mgmt := { s.mgmt with sessions := t.mgmt.sessions, controller := t.mgmt.controller, uploads := t.mgmt.uploads, subs := t.mgmt.subs } }) ∧
      (∀ x lvl tk, sessAt s n = some x → s.mgmt.pasteUp = true → x.claim = false →
        (levelRefuses s lvl = false → MakesR (.hello n lvl tk) s
          (deliverHeld n (reply n 0x01 .ok (helloBody (helloAccepted n lvl tk false s)) (helloAccepted n lvl tk false s)))) ∧
        (levelRefuses s lvl = true → MakesR (.hello n lvl tk) s
          (reply n 0x01 .level [] (setMgmt (fun m => { m with controller := if m.controller = some n then none else m.controller })
            (setSess n (fun x => { x with helloOk := false, levelRefused := true }) s)))) ∧
        MakesR (.bye n) s (closeSess n (reply n 0x02 .ok [] s)))) ∧
  (∀ (s : State), live s = true →
      (∀ c, c < 6 → c ∉ s.mgmt.coresOut →
        (s.mgmt.pasteUp = true → (s.mgmt.coreRestarts.any fun e => decide (s.now < e.2 + anHour) && e.1 == c) = false →
          MakesR (.pasteHeartbeatTimeout c) s (restartPaste 0 (setMgmt (fun m => { m with
            coreRestarts := (s.mgmt.coreRestarts.filter fun e => decide (s.now < e.2 + anHour)) ++ [(c, s.now)] }) s))) ∧
        MakesR (.coreUncorrectable c) s (restartPaste 1 (coreLeaves c s))) ∧
      (s.mgmt.pasteUp = true → MakesR .pasteRestartRequest s (restartPaste 4 s)) ∧
      (∀ n, Controls s n → MakesR (.resetPaste n) s (restartPaste 3 (reply n 0x90 .ok [] s))) ∧
      (wipePaste s).mgmt.subs = [] ∧ (wipePaste s).mgmt.uploads = [] ∧ (wipePaste s).mgmt.totG = [])

/-- FW_STAGE, FW_ACTIVATE, FW_COMMIT and FW_STATUS from the session that controls the plane, for Rind and for Paste (R489 to R491, R445, Table 15.7): the
first piece of an image erases the inactive slot, a piece in order is kept, and the last one fills the slot and sets its staged bit when its signature and
version pass, and is answered DENIED with the slot left erased when not; activation draws STATE, BUSY, EMERGENCY or BAD_BODY in that order where it is
refused, else the slot is active and TRIAL, and Rind's takes a warm reset, Paste's raises the floor of its signer and restarts Paste before a fabric reset;
FW_COMMIT ends TRIAL, and Rind's raises its floor; FW_STATUS gives the status word, the four versions and the four digests. PLANE_DRAIN, PLANE_RESUME, ADOPT
and DRAIN_COMPLETE (R428, R477, R492): a plane in RUN whose twin state is PAIRED sends FAILING and drains in the background, and any other draws STATE; a
DRAINED plane whose twin serves a stripe resynchronises, and one with no twin in service serves its own stripe in RUN again; ADOPT on a plane that is PAIRED
or ALONE begins adoption; and when the twin reports ADOPTED a plane that drains takes its REQUESTER and UPLINK ports down with cause 5, takes its ACTIVE
partitions DOWN without calving and is DRAINED. -/
def Obligations.FirmwareAndPlaneCommands : Prop :=
  (∀ (s : State) (n : Nat) (paste : Bool), live s = true → Controls s n →
      (∀ o tot d,
        let ok := uploadOk s n 1 (b2n paste) o tot (if paste then 24 * 2 ^ 20 else 4 * 2 ^ 20) d
        let other := s.mgmt.uploads.any fun u => u.what == 1 && u.target == b2n paste && u.sess != n
        let a := if o = 0 then setStaged paste false (setSlot paste (otherSlot s paste) {} s) else s
        let x := upload n 1 (b2n paste) o tot d a
        (2 ^ 20 + 64 < 9 + d.length → MakesR (.fwStage n paste o tot d) s (closeSess n s)) ∧
        (9 + d.length ≤ 2 ^ 20 + 64 → ok = false → MakesR (.fwStage n paste o tot d) s (reply n 0x20 .badBody [] s)) ∧
        (ok = true → other = true → MakesR (.fwStage n paste o tot d) s (reply n 0x20 .busy [] s)) ∧
        (ok = true → other = false →
          (x.1 = none → MakesR (.fwStage n paste o tot d) s (reply n 0x20 .ok [] x.2)) ∧
          (∀ raw, x.1 = some raw →
            (∀ f, stagedSlot x.2 paste raw = some f →
              MakesR (.fwStage n paste o tot d) s (reply n 0x20 .ok [] (setStaged paste true (setSlot paste (otherSlot s paste) f x.2)))) ∧
            (stagedSlot x.2 paste raw = none → MakesR (.fwStage n paste o tot d) s (reply n 0x20 .denied [0x03] x.2))))) ∧
      (∀ b,
        let f := if paste then pasteSlot s b else rindSlot s b
        let busy := s.sec.segs ≠ [] ∨ (s.mgmt.uploads.any fun u => u.what == 1 && u.target == b2n paste && b == otherSlot s paste) = true
        let go := setStaged paste (if b = otherSlot s paste then false else if paste then s.nv.pasteStaged else s.nv.rindStaged) (reply n 0x21 .ok [] s)
        (idlePlane s = false → MakesR (.fwActivate n paste b) s (reply n 0x21 .state [] s)) ∧
        (idlePlane s = true → busy → MakesR (.fwActivate n paste b) s (reply n 0x21 .busy [] s)) ∧
        (idlePlane s = true → ¬busy → emergency s = true → MakesR (.fwActivate n paste b) s (reply n 0x21 .emergency [] s)) ∧
        (idlePlane s = true → ¬busy → emergency s = false → f.valid = false → MakesR (.fwActivate n paste b) s (reply n 0x21 .badBody [] s)) ∧
        (idlePlane s = true → ¬busy → emergency s = false → f.valid = true →
          (paste = false → MakesR (.fwActivate n paste b) s
            (warmReset 3 (setNv (fun v => { v with rindSlotB := b, rindTrial := true, rindBoots := 0, rindBooted := false }) go))) ∧
          (paste = true → MakesR (.fwActivate n paste b) s (fabricReset 5 (restartPaste 2 (setNv (fun v => { v with
            pasteSlotB := b, pasteTrial := true
            pasteFloor := if f.owner then v.pasteFloor else max v.pasteFloor f.svn
            pasteFloorOwner := if f.owner then max v.pasteFloorOwner f.svn else v.pasteFloorOwner }) go)))))) ∧
      MakesR (.fwCommit n true) s (reply n 0x22 .ok [] (setNv (fun v => { v with pasteTrial := false }) s)) ∧
      MakesR (.fwCommit n false) s (reply n 0x22 .ok []
        (setNv (fun v => { v with rindTrial := false, rindFloor := max v.rindFloor (rindSlot s v.rindSlotB).svn }) s)) ∧
      (let slots := [s.nv.rindA, s.nv.rindB, s.nv.pasteA, s.nv.pasteB]
       MakesR (.fwStatus n) s (reply n 0x23 .ok (fwWord s :: slots.map (·.svn) ++ slots.map fun f => leNat (Config.sha384 f.bytes)) s))) ∧
  (∀ (s : State), live s = true →
      (∀ n, Controls s n →
        (bgHolds s 2 0 = true → MakesR (.planeDrain n) s (reply n 0x30 .busy [] s)) ∧
        (bgHolds s 2 0 = false → (s.mgmt.state ≠ .run ∨ s.twn.state ≠ .paired) → MakesR (.planeDrain n) s (reply n 0x30 .state [] s)) ∧
        (bgHolds s 2 0 = false → s.mgmt.state = .run → s.twn.state = .paired → MakesR (.planeDrain n) s
          (setTwn (fun t => { t with servesOwn := false }) (setMgmt (fun m => { m with state := .draining })
            (abandonRelocs (fun _ => true) (bgStart 0x30 n 2 0 (sendTwin .failing s)))))) ∧
        (s.mgmt.state ≠ .drained ∨ coresUp s < 3 → MakesR (.planeResume n) s (reply n 0x31 .state [] s)) ∧
        (s.mgmt.state = .drained → 3 ≤ coresUp s →
          let served := (dev s).twinPresent = true ∧ s.twn.twinInService = some true ∧ s.twn.state ≠ .lost
          (served → MakesR (.planeResume n) s
            (reply n 0x31 .ok [] (twinEvent 6 (setTwn (fun t => { t with state := .resyncDst, resyncPct := 0, s2ok := false }) s)))) ∧
          (¬served → MakesR (.planeResume n) s (reply n 0x31 .ok [] (startRequesters (setMgmt (fun m => { m with state := .run })
            (setTwn (fun t => { t with state := if (dev s).twinPresent then .alone else .none }) (serveOwn s))))))) ∧
        (let may := (s.twn.state = .paired ∨ s.twn.state = .alone) ∧ (dev s).twinPresent = true ∧ s.mgmt.state ≠ .drained
         (may → MakesR (.adopt n) s (reply n 0x32 .ok [] (beginAdopt (mirroringSound s) s))) ∧
         (¬may → MakesR (.adopt n) s (reply n 0x32 .state [] s)))) ∧
      (s.mgmt.state ≠ .draining ∨ twinUp s = false → MakesR .drainComplete s s) ∧
      (s.mgmt.state = .draining → twinUp s = true →
        let ps := (s.img.ports.filter fun e => decide (e.2.role = 0 ∨ e.2.role = 3)).map (·.1)
        let a := ps.foldl (fun s p => portGoesDown p 5 s) (setMgmt (fun m => { m with state := .drained }) s)
        MakesR .drainComplete s (bgDone 0x30 2 0 .ok 0 (setTwn (fun t => { t with state := .alone, twinInService := some true })
          (tableChanged (allParts.foldl drainPart a))))))

/-- Time, streams, pins, loads, telemetry and resets, from the session that controls the plane (R90, R91, R109, R182, R199, R435, R485, R487, R497 to R501):
each where the spec lets it execute. -/
def Obligations.ProsisCommands : Prop :=
  ∀ (s : State) (n : Nat), live s = true → Controls s n →
    (∀ v, s.ftm.source = 1 → MakesR (.timeSetSeconds n v) s (reply n 0x40 .ok [] (setFtm (fun m => { m with setSecs := some (v % 2 ^ 64) }) s))) ∧
    (∀ i k f, aget s.ftm.active.flows i = some f → f.valid = true → f.kind = 3 → ftFrame s + 2 ≤ k → (s.ftm.streams.any fun x => x.schedId == i) = false →
      MakesR (.streamStart n i k) s
        (reply n 0x41 .ok [] (setFtm (fun m => { m with streams := m.streams ++ [{ schedId := i, startFrame := k, flow := f }] }) s))) ∧
    (∀ i, (s.ftm.streams.any fun x => x.schedId == i) = true → MakesR (.streamStop n i) s (reply n 0x42 .ok [] (setFtm (fun m => { m with
      streams := modFirst (fun x => x.schedId = i) (fun x => { x with stopping := true }) m.streams }) s))) ∧
    (∀ r, ownRange s r = true → bgHolds s 0 r = false →
      ((rangeOf s r).firn = true → pinBlocks s r - pinHeld s r ≤ firnAllot s (rangeOf s r).owner * 16384 - firnUse s (rangeOf s r).owner →
        ∃ t, MakesR (.firnPin n r) s t ∧ (∃ p ∈ t.hbm.pins, p.range = r ∧ p.stop = stripePages (rangeOf s r) (planes s) * 4096) ∧
          t = { s with hbm := { s.hbm with pins := t.hbm.pins }, mgmt := { s.mgmt with bgs := t.mgmt.bgs } }) ∧
      (∃ t, MakesR (.firnUnpin n r) s t ∧ (∀ p ∈ t.hbm.pins, p.range ≠ r) ∧ (∀ b ∈ t.hbm.blocks, b.range = r → b.pinned = false) ∧
        t = { s with hbm := { s.hbm with pins := t.hbm.pins, fills := s.hbm.fills.map (unpinFill r), blocks := t.hbm.blocks }, out := t.out })) ∧
    (∀ a b m t, dsPair s a b = true → bgHolds s 0 a = false → bgHolds s 0 b = false → (s.ftl.loads.any fun l => l.target == a) = false →
      dsTake (dsBlocks s a) s [] = some (m, t) → ∃ u, MakesR (.datasetLoad n a b) s u ∧ (∃ l ∈ u.ftl.loads, l.target = a ∧ l.source = b ∧ l.newMap = m) ∧
        u = { t with ftl := { t.ftl with loads := u.ftl.loads }, mgmt := { t.mgmt with bgs := u.mgmt.bgs } }) ∧
    (∀ o k, 1 ≤ k → k ≤ 64 → MakesR (.regRead n o k) s (reply n 0x70 .ok ((List.range k).map fun i => readTotal s (o + 8 * i)) s)) ∧
    (∀ ms gr, 1 ≤ ms → ms ≤ 60000 → 1 ≤ gr → gr < 32 → s.mgmt.subs.length < 16 →
      let u : Sub := { subId := s.mgmt.nextSub, sess := n, periodMs := ms, scope := 0, part := 0, groups := gr }
      telemFits s (s.mgmt.subs ++ [u]) = true → MakesR (.telemSubscribe n ms 0 0 gr) s
        (reply n 0x80 .ok [u.subId] (setMgmt (fun m => { m with subs := m.subs ++ [u], nextSub := (m.nextSub + 1) % 65536 }) s))) ∧
    (∀ i, (s.mgmt.subs.any fun u => u.subId == i && u.sess == n) = true → MakesR (.telemCancel n i) s
      (reply n 0x81 .ok [] (setMgmt (fun m => { m with subs := m.subs.filter fun u => !(u.subId == i && u.sess == n) }) s))) ∧
    (∀ p c, p ≤ 127 → bgHolds s 3 p = false → MakesR (.tapSet n p c) s (reply n 0x60 .ok [] (tapWriteCfg p c.toNat s))) ∧
    (∀ p, p ≤ 127 → bgHolds s 3 p = false → partState s p = 2 → MakesR (.resetPartition n p) s (reply n 0x90 .ok [] (partReset p s))) ∧
    (∀ p, (aget s.img.ports p).isSome = true → MakesR (.resetPort n p) s (reply n 0x90 .ok [] (retrain p s))) ∧
    (idlePlane s = true → MakesR (.resetFabric n) s (fabricReset 4 (reply n 0x90 .ok [] s)))

/-- Power states (R506 to R508, Table 17.4), by the controlling session or the BMC: Run leaves Hold, Idle-low and Park; with no partition ACTIVE, Hold and
Idle-low gate the engines' clock; a plane in HELD or DRAINED, or without a twin, parks; a wrong code and a state that does not allow it change nothing. -/
def Obligations.PowerStates : Prop :=
  ∀ (s : State) (n : Nat), live s = true → emergency s = false →
    (Controls s n →
      MakesR (.powerRun n) s (reply n 0x91 .ok [] (if s.pwr.pstate = 3 then leavePark s else leaveHold s)) ∧
      (noneActive s = true → s.pwr.pstate ≠ 3 →
        MakesR (.powerHold n) s (reply n 0x91 .ok [] (enterHold false s)) ∧ MakesR (.powerIdleLow n) s (reply n 0x91 .ok [] (enterHold true s)) ∧
        ((s.mgmt.state = .drained ∨ s.mgmt.state = .held ∨ (dev s).twinPresent = false) → MakesR (.powerPark n) s (reply n 0x91 .ok [] (enterPark s)))) ∧
      (noneActive s = false → MakesR (.powerHold n) s (reply n 0x91 .state [] s))) ∧
    MakesR (.pldmSetStateEffecter 0) s (tell (.pldmSet .ok) (if s.pwr.pstate = 3 then leavePark s else leaveHold s)) ∧
    (∀ c, 3 < c → MakesR (.pldmSetStateEffecter c) s (tell (.pldmSet .badBody) s))

/-- Registers, counters, telemetry and the other management protocols (R7, R376, R414, R483 to R488, R495, R534), the registers with the Paste up. A read of a
counter that clears answers its value and clears it, of the plane's counters and of a port's; SRAM_CORR first takes the corrections seen meanwhile, a free
value. A write changes no counter; a one written to a write-one-to-clear bit of the calve log, the image result, the pair's log, the power event or the
discard log empties it; and any other offset is written as its register's access code says. GLB_TEMP_MAX is cleared for the sensor written when bit 8 is set.
The counters are added to the Paste's totals and cleared; the event log takes an entry; a sample due is skipped and counted, or sent, as a free bit has it; a
CXL.io request, an MCTP control message and a sensor read are answered, the first two with a free value (assumption 39). -/
def Obligations.RegistersAndManagement : Prop :=
  ∀ (s : State), live s = true →
    (s.mgmt.pasteUp = true →
      (∀ o c, gctrAt o = some c → c ≠ .sramCorr → Makes (.rcRegisterRead o) s { tell (.reg o (agetD s.gctr c 0)) s with gctr := adel s.gctr c }) ∧
      (let u := bumpG .sramCorr (Config.freeNat s.freeIx) { s with freeIx := s.freeIx + 1 }
       Makes (.rcRegisterRead 0x638) s { tell (.reg 0x638 (agetD u.gctr .sramCorr 0)) u with gctr := adel u.gctr .sramCorr }) ∧
      (∀ o p r k, portOff s o = some (p, r) → pctrAt r = some k →
        Makes (.rcRegisterRead o) s { tell (.reg o (agetD s.pctr (p, k) 0)) s with pctr := adel s.pctr (p, k) }) ∧
      (∀ o c v, gctrAt o = some c → MakesR (.registerWrite o v) s s) ∧
      (∀ v : Word64, bitAt v.toNat 0 = true →
        MakesR (.registerWrite 0x608 v) s { s with flt := { s.flt with calveLog := none } } ∧
        MakesR (.registerWrite 0x10048 v) s (setSec (fun c => { c with result := {} }) s) ∧
        MakesR (.registerWrite 0x20018 v) s (setTwn (fun t => { t with invLog := none }) s) ∧
        MakesR (.registerWrite 0x820 v) s (setPwr (fun w => { w with event := none }) s) ∧
        MakesR (.registerWrite 0x80050 v) s { s with eng := { s.eng with disc := {} } }) ∧
      (∀ o v, MakesR (.registerWrite o v) s (regWrite o v.toNat s)) ∧
      (∀ v : Word64, let i := bits v.toNat 0 4
        (bitAt v.toNat 8 = false → Makes (.tempMaxClear v) s (setPwr (fun w => { w with tempSel := i }) s)) ∧
        (bitAt v.toNat 8 = true →
          Makes (.tempMaxClear v) s (setPwr (fun w => { w with tempSel := i, tempMax := w.tempMax.set i (w.temps.getD i 0) }) s))) ∧
      (∃ t, Makes .counterAccumulate s t ∧ t.gctr = [] ∧ t.pctr = [] ∧
        (∀ c, c ≠ .sramCorr → agetD t.mgmt.totG c 0 = agetD s.mgmt.totG c 0 + sumOf ((s.gctr.filter fun e => e.1 = c).map fun e => e.2.toNat)) ∧
        (∀ k, agetD t.mgmt.totP k 0 = agetD s.mgmt.totP k 0 + sumOf ((s.pctr.filter fun e => e.1 = k).map fun e => e.2.toNat)) ∧
        t = { s with gctr := [], pctr := [], freeIx := s.freeIx + 1, mgmt := { s.mgmt with totG := t.mgmt.totG, totP := t.mgmt.totP } }) ∧
      Makes .eventLogWrite s (setNv (fun v => { v with log := ((ft s, s.mgmt.evSeq) :: v.log).take 327680 }) s) ∧
      (∀ u i, (s.mgmt.subs.find? fun u => u.subId = i) = some u → ft s % (u.periodMs * 1000000) < 2 →
        let a := accumulate s
        let x := { a with freeIx := a.freeIx + 1 }
        (Config.freeNat a.freeIx % 2 = 1 → Makes (.telemSample i) s (bumpG .telemSkip 1 (setMgmt (fun m => { m with
          subs := modFirst (fun x => x.subId = i) (fun x => { x with skipped := x.skipped + 1 }) m.subs }) x))) ∧
        (Config.freeNat a.freeIx % 2 = 0 → Makes (.telemSample i) s
          (tell (.sample u.sess i s.mgmt.ctrEpoch (ft s) u.skipped (sampleBody x u)) (setMgmt (fun m => { m with
            subs := modFirst (fun x => x.subId = i) (fun x => { x with skipped := 0 }) m.subs }) { x with freeIx := x.freeIx + 256 })))) ∧
      (∀ p c, portIs s p 2 0 = true → portUp s p = true →
        Makes (.cxlIoRequest p c) s (tell (.cxlIo p c (Config.freeNat s.freeIx)) { s with freeIx := s.freeIx + 1 }))) ∧
    (s.mgmt.pasteUp = false → ∀ o v, Makes (.rcRegisterRead o) s s ∧ MakesR (.registerWrite o v) s s) ∧
    (∀ c, Makes (.mctpControl c) s (tell (.mctp c (Config.freeNat s.freeIx)) { s with freeIx := s.freeIx + 1 })) ∧
    (∀ k v, pldmValue s k = some v → Makes (.pldmGetSensor k) s (tell (.pldm k v) s)) ∧
    (∀ k, k < 16 → pldmValue s k = some (tempOf s k)) ∧ (∀ k, k < 10 → pldmValue s (17 + k) = some (s.pwr.mvs.getD k 0)) ∧
    (∀ k, k < 10 → pldmValue s (27 + k) = some (s.pwr.currents.getD k 0)) ∧ pldmValue s 16 = some (hottest s) ∧ pldmValue s 37 = some s.pwr.power

/-! ## Power, reset and heat (chapters 17 and 18) -/

/-- A package that is off, held in reset, or without a Rind image carries out none of the commands but those of the power and reset pins and, through a held
warm reset, those of the time unit (R180, R497, R523, Table 17.2): a command of the fabric, the twin, a session, an engine or a link leaves the state as it
was. -/
def Obligations.DeadPackageIgnoresCommands : Prop :=
  ∀ (c : Instr) (s : State), live s = false →
    (match c with
     | .coldReset _ | .warmReset | .pwrgdFall | .supplyResetRelease | .hardwareTrip _ | .powerLoss _ | .tapInstructionLoad _ _ => False
     | .ppsEdge | .ptpSync _ _ _ | .tosServoUpdate | .sourceQualify | .sourceDisqualify | .holdoverExpire | .schedActivate | .ppsOutRise
     | .ppsOutFall => timeUnitOn s = false
     | _ => True) → exec c s = .next (afterCmd s s)

/-- The reset and power pins (R443, R497, R509, R513, R523, R529, Table 17.3): PWRGD low holds the package in cold reset; its rise resets cold and boots; a
warm reset keeps the non-volatile store, FT and the TAP; a hardware trip holds it until power is removed; losing power turns it off, and FT is lost unless
VDD_AON stays. -/
def Obligations.ResetPins : Prop :=
  ∀ s : State,
    Makes .pwrgdFall s (setPwr (fun w => { w with heldCold := true, heldWarm := false }) s) ∧
    (∀ b, s.pwr.thermtrip = false → Makes (.coldReset b) s (boot (clearCold 0 b s))) ∧
    (∀ b, s.pwr.thermtrip = true → Makes (.coldReset b) s s) ∧
    (s.pwr.on = true → s.pwr.heldCold = false → s.pwr.heldWarm = false → Makes .warmReset s (boot (clearWarm 1 s))) ∧
    (clearWarm 1 s).nv = s.nv ∧ ft (clearWarm 1 s) = ft s ∧ (clearWarm 1 s).pwr.tapIr = s.pwr.tapIr ∧
    (clearCold 0 true s).nv = s.nv ∧ ft (clearCold 0 true s) = 0 ∧
    (s.pwr.heldWarm = true → Makes .supplyResetRelease s (boot (setPwr (fun w => { w with heldWarm := false, heldCold := false }) s))) ∧
    (∀ k, s.pwr.on = true → k < 16 → Makes (.hardwareTrip k) s (setPwr (fun w => { w with thermtrip := true, heldCold := true, heldWarm := false }) s)) ∧
    (∀ b, ∃ t, Makes (.powerLoss b) s t ∧ live t = false ∧ t.nv = s.nv ∧ t.pwr.thermtrip = false ∧ ft t = (if b then ft s else 0) ∧
      t = { s with pwr := t.pwr, ftm := t.ftm }) ∧
    (∀ i low, s.pwr.on = true → ∃ t, Makes (.tapInstructionLoad i low) s t ∧
      t.pwr.tapIr = (if i < 3 ∨ (i ≤ 7 ∧ low = true) then i else 0) ∧ (i = 1 → t.out = .tap 1 (some 0x107200A9) :: s.out) ∧ t = { s with pwr := { s.pwr with tapIr := t.pwr.tapIr }, out := t.out })

/-- Supply and heat (R509 to R512, R520, R534, Table 17.5): a rail below 95 % of its set point throttles and captures the first event, one below 90 % holds
the package in a warm reset, or in a cold one for VDD_AON; a sensor at 100 C throttles, at 110 C it tells the twin, calves every partition with cause 8 and
parks; the ends of the conditions clear them; readings are kept with their maxima. -/
def Obligations.SupplyAndHeat : Prop :=
  ∀ s : State, live s = true →
    (∀ r mv, r < 10 → 20 * mv < 19 * levelPoint s r → s.pwr.supplyThr = false →
      Makes (.supplyWarning r mv) s (bumpG .throttleCnt 1 (capture 0 r mv (setPwr (fun w => { w with supplyThr := true }) s)))) ∧
    Makes .supplyWarningEnd s (setPwr (fun w => { w with supplyThr := false }) s) ∧
    (∀ r mv, r < 10 → 10 * mv < 9 * levelPoint s r → ∃ t, Makes (.supplyReset r mv) s t ∧ t.pwr.heldWarm = true ∧ t.pwr.heldCold = decide (r = 9) ∧ live t = false ∧ t.nv = s.nv ∧
      (s.pwr.event = none → t.pwr.event = some (1, r, mv, ft s))) ∧
    (∀ k q, k < 16 → 400 ≤ signed 16 q → s.pwr.thermalThr = false →
      let a := (portsOfSensor s k).foldl (fun s p => setPort p (fun q => { q with paced := true }) s) s
      Makes (.thermalThrottle k q) s (bumpG .throttleCnt 1 (capture 2 k q (setPwr (fun w => { w with thermalThr := true }) a)))) ∧
    (∃ t, Makes .thermalThrottleEnd s t ∧ t.pwr.thermalThr = false ∧ (∀ e ∈ t.ports, e.2.paced = false) ∧
      t = { s with pwr := { s.pwr with thermalThr := false }, ports := t.ports }) ∧
    (∀ k q, k < 16 → 440 ≤ signed 16 q →
      let u := takeFree (capture 3 k q (setPwr (fun w => { w with thermEmerg := true }) s))
      let a := faultEvent 6 (u.1 % 16) k 8 0 u.2
      MakesR (.thermalEmergency k q) s (if a.pwr.pstate = 3 then a else enterPark (settleAll (calve 8 allParts (failNotice a))))) ∧
    Makes .emergencyEnd s (setPwr (fun w => { w with thermEmerg := false }) s) ∧
    (∀ r, r < 10 → ∃ t, Makes (.avsTimeout r) s t ∧ t.pwr.avsStopped = true) ∧
    (∀ ts mvs cs w, ∃ t, Makes (.sensorRegisterUpdate ts mvs cs w) s t ∧ t.pwr.temps = regs16 16 ts ∧ t.pwr.mvs = regs16 10 mvs ∧
      t.pwr.currents = regs16 10 cs ∧ t.pwr.power = w % 65536 ∧ t.pwr.powerPeak = max s.pwr.powerPeak (w % 65536) ∧
      (∀ i, i < 16 → signed 16 (t.pwr.temps.getD i 0) ≤ signed 16 (t.pwr.tempMax.getD i 0)) ∧
      t = { s with pwr := t.pwr, flt := { s.flt with canaryDue := t.flt.canaryDue } })
end

