-- ==== Sys2Proof/Laws/Assoc.lean ====
section
/-! SUPPORT. Association lists: what is read after a set. -/

namespace Sys2Proof.Machine

variable {κ α : Type} [DecidableEq κ]

@[simp] theorem aget_aset_self (m : List (κ × α)) (k : κ) (v : α) : aget (aset m k v) k = some v := by
  induction m with
  | nil => simp [aset, aget]
  | cons e t ih => obtain ⟨x, y⟩ := e; unfold aset; split <;> simp_all [aget]

theorem aget_aset_other (m : List (κ × α)) (k j : κ) (v : α) (h : j ≠ k) : aget (aset m k v) j = aget m j := by
  induction m with
  | nil => simp [aset, aget, Ne.symm h]
  | cons e t ih =>
    obtain ⟨x, y⟩ := e
    unfold aset
    split
    · rename_i hx; subst hx; simp [aget, Ne.symm h]
    · simp only [aget]; split <;> simp_all

@[simp] theorem agetD_aset_self (m : List (κ × α)) (k : κ) (v d : α) : agetD (aset m k v) k d = v := by simp [agetD]

theorem agetD_aset_other (m : List (κ × α)) (k j : κ) (v d : α) (h : j ≠ k) : agetD (aset m k v) j d = agetD m j d := by
  simp [agetD, aget_aset_other m k j v h]

@[simp] theorem agetD_amod_self (m : List (κ × α)) (k : κ) (d : α) (f : α → α) : agetD (amod m k d f) k d = f (agetD m k d) := by simp [amod]

theorem agetD_amod_other (m : List (κ × α)) (k j : κ) (d : α) (f : α → α) (h : j ≠ k) : agetD (amod m k d f) j d = agetD m j d :=
  agetD_aset_other m k j _ d h

end Sys2Proof.Machine
end

