-- ==== Sys2Proof/Laws/Cells.lean ====
section
/-! SUPPORT. The sparse byte memories of resident scratch: every operation keeps the canonical form, and a byte reads as it was last put. -/

namespace Sys2Proof.Machine

/-- A lower bound on the addresses may be lowered. -/
theorem cellsAbove_mono {lo hi : Nat} (m : List Host.Cell) (h : lo ≤ hi) (c : cellsAbove hi m = true) : cellsAbove lo m = true := by
  cases m with
  | nil => rfl
  | cons x t =>
    obtain ⟨b, w⟩ := x
    simp only [cellsAbove, Bool.and_eq_true, decide_eq_true_eq] at c ⊢
    exact ⟨⟨by omega, c.1.2⟩, c.2⟩

/-- Putting a byte above a bound keeps the rest above it. -/
theorem cellsAbove_cellPut (m : List Host.Cell) (lo a : Nat) (v : Byte) (h : lo < a) (c : cellsAbove lo m = true) :
    cellsAbove lo (cellPut m a v) = true := by
  induction m generalizing lo with
  | nil => unfold cellPut; split <;> simp_all [cellsAbove]
  | cons x t ih =>
    obtain ⟨b, w⟩ := x
    simp only [cellsAbove, Bool.and_eq_true, decide_eq_true_eq] at c
    obtain ⟨⟨h1, h2⟩, h3⟩ := c
    unfold cellPut
    split
    · split <;> simp_all [cellsAbove]
    · split
      · split
        · exact cellsAbove_mono t (by omega) h3
        · simp_all [cellsAbove]
      · simp only [cellsAbove, Bool.and_eq_true, decide_eq_true_eq]
        exact ⟨⟨h1, h2⟩, ih b (by omega) h3⟩

/-- A list above a bound is in canonical form. -/
theorem wf_of_cellsAbove {lo : Nat} (m : List Host.Cell) (c : cellsAbove lo m = true) : Memory.wf m = true := by
  cases m with
  | nil => rfl
  | cons x t =>
    obtain ⟨b, w⟩ := x
    simp only [cellsAbove, Bool.and_eq_true, decide_eq_true_eq] at c
    simp only [Memory.wf, Bool.and_eq_true, decide_eq_true_eq]
    exact ⟨c.1.2, c.2⟩

/-- Putting a byte keeps the canonical form. -/
theorem wf_cellPut (m : List Host.Cell) (a : Nat) (v : Byte) (c : Memory.wf m = true) : Memory.wf (cellPut m a v) = true := by
  cases m with
  | nil => unfold cellPut; split <;> simp_all [Memory.wf, cellsAbove]
  | cons x t =>
    obtain ⟨b, w⟩ := x
    simp only [Memory.wf, Bool.and_eq_true, decide_eq_true_eq] at c
    obtain ⟨h2, h3⟩ := c
    unfold cellPut
    split
    · split <;> simp_all [Memory.wf, cellsAbove]
    · split
      · split
        · exact wf_of_cellsAbove t h3
        · simp_all [Memory.wf]
      · simp only [Memory.wf, Bool.and_eq_true, decide_eq_true_eq]
        exact ⟨h2, cellsAbove_cellPut t b a v (by omega) h3⟩

/-- Writing bytes keeps the canonical form. -/
theorem wf_cellWrite (d : Bytes) (m : List Host.Cell) (a : Nat) (c : Memory.wf m = true) : Memory.wf (cellWrite m a d) = true := by
  induction d generalizing m a with
  | nil => exact c
  | cons b t ih => exact ih _ _ (wf_cellPut m a b c)

/-- The byte put is the byte read there. -/
theorem cellGet_cellPut_self (m : List Host.Cell) (lo a : Nat) (v : Byte) (c : cellsAbove lo m = true) : cellGet (cellPut m a v) a = v := by
  induction m generalizing lo with
  | nil => unfold cellPut; split <;> simp_all [cellGet]
  | cons x t ih =>
    obtain ⟨b, w⟩ := x
    simp only [cellsAbove, Bool.and_eq_true, decide_eq_true_eq] at c
    obtain ⟨⟨h1, h2⟩, h3⟩ := c
    have low : ∀ (l : List Host.Cell) (k : Nat), a ≤ k → cellsAbove k l = true → cellGet l a = 0 := by
      intro l
      induction l with
      | nil => intros; rfl
      | cons y u ihu =>
        obtain ⟨e, f⟩ := y
        intro k hk hc
        simp only [cellsAbove, Bool.and_eq_true, decide_eq_true_eq] at hc
        have : ¬ e = a := by omega
        simp only [cellGet, if_neg this]
        exact ihu e (by omega) hc.2
    unfold cellPut
    split
    · split
      · have : ¬ b = a := by omega
        simp only [cellGet, if_neg this]
        rw [low t b (by omega) h3]; simp_all
      · simp [cellGet]
    · split
      · split
        · rw [low t b (by omega) h3]; simp_all
        · simp_all [cellGet]
      · have : ¬ b = a := by omega
        simp only [cellGet, if_neg this]
        exact ih b h3

/-- Other bytes read as before. -/
theorem cellGet_cellPut_other (m : List Host.Cell) (a x : Nat) (v : Byte) (h : x ≠ a) (lo : Nat) (c : cellsAbove lo m = true) :
    cellGet (cellPut m a v) x = cellGet m x := by
  induction m generalizing lo with
  | nil => unfold cellPut; split <;> simp [cellGet, Ne.symm h]
  | cons y t ih =>
    obtain ⟨b, w⟩ := y
    simp only [cellsAbove, Bool.and_eq_true, decide_eq_true_eq] at c
    unfold cellPut
    split
    · split
      · rfl
      · simp [cellGet, Ne.symm h]
    · split
      · rename_i _ hb
        subst hb
        split <;> simp [cellGet, Ne.symm h]
      · simp only [cellGet]
        rw [ih b c.2]

end Sys2Proof.Machine
end

