-- ==== Sys2Proof/Laws/State.lean ====
section
/-! SUPPORT. What each named update of the state writes and what it leaves: one lemma per update and field, so that no proof unfolds a record update. -/

namespace Sys2Proof.Machine

variable (s t : State)

@[simp] theorem setMgmt_pending (f : Mgmt → Mgmt) : (setMgmt f s).pending = s.pending := rfl
@[simp] theorem setMgmt_now (f : Mgmt → Mgmt) : (setMgmt f s).now = s.now := rfl
@[simp] theorem setMgmt_nextId (f : Mgmt → Mgmt) : (setMgmt f s).nextId = s.nextId := rfl
@[simp] theorem setMgmt_freeIx (f : Mgmt → Mgmt) : (setMgmt f s).freeIx = s.freeIx := rfl
@[simp] theorem setMgmt_img (f : Mgmt → Mgmt) : (setMgmt f s).img = s.img := rfl
@[simp] theorem setMgmt_pstate (f : Mgmt → Mgmt) : (setMgmt f s).pstate = s.pstate := rfl
@[simp] theorem setMgmt_ports (f : Mgmt → Mgmt) : (setMgmt f s).ports = s.ports := rfl
@[simp] theorem setMgmt_mem (f : Mgmt → Mgmt) : (setMgmt f s).mem = s.mem := rfl
@[simp] theorem setMgmt_hbm (f : Mgmt → Mgmt) : (setMgmt f s).hbm = s.hbm := rfl
@[simp] theorem setMgmt_ftl (f : Mgmt → Mgmt) : (setMgmt f s).ftl = s.ftl := rfl
@[simp] theorem setMgmt_vat (f : Mgmt → Mgmt) : (setMgmt f s).vat = s.vat := rfl
@[simp] theorem setMgmt_tmc (f : Mgmt → Mgmt) : (setMgmt f s).tmc = s.tmc := rfl
@[simp] theorem setMgmt_ftm (f : Mgmt → Mgmt) : (setMgmt f s).ftm = s.ftm := rfl
@[simp] theorem setMgmt_eng (f : Mgmt → Mgmt) : (setMgmt f s).eng = s.eng := rfl
@[simp] theorem setMgmt_eth (f : Mgmt → Mgmt) : (setMgmt f s).eth = s.eth := rfl
@[simp] theorem setMgmt_flt (f : Mgmt → Mgmt) : (setMgmt f s).flt = s.flt := rfl
@[simp] theorem setMgmt_twn (f : Mgmt → Mgmt) : (setMgmt f s).twn = s.twn := rfl
@[simp] theorem setMgmt_taps (f : Mgmt → Mgmt) : (setMgmt f s).taps = s.taps := rfl
@[simp] theorem setMgmt_tapSel (f : Mgmt → Mgmt) : (setMgmt f s).tapSel = s.tapSel := rfl
@[simp] theorem setMgmt_nv (f : Mgmt → Mgmt) : (setMgmt f s).nv = s.nv := rfl
@[simp] theorem setMgmt_sec (f : Mgmt → Mgmt) : (setMgmt f s).sec = s.sec := rfl
@[simp] theorem setMgmt_pwr (f : Mgmt → Mgmt) : (setMgmt f s).pwr = s.pwr := rfl
@[simp] theorem setMgmt_gctr (f : Mgmt → Mgmt) : (setMgmt f s).gctr = s.gctr := rfl
@[simp] theorem setMgmt_pctr (f : Mgmt → Mgmt) : (setMgmt f s).pctr = s.pctr := rfl
@[simp] theorem setMgmt_wire (f : Mgmt → Mgmt) : (setMgmt f s).wire = s.wire := rfl
@[simp] theorem setMgmt_out (f : Mgmt → Mgmt) : (setMgmt f s).out = s.out := rfl
@[simp] theorem setMgmt_mgmt (f : Mgmt → Mgmt) : (setMgmt f s).mgmt = f s.mgmt := rfl

@[simp] theorem setSec_pending (f : Sec → Sec) : (setSec f s).pending = s.pending := rfl
@[simp] theorem setSec_now (f : Sec → Sec) : (setSec f s).now = s.now := rfl
@[simp] theorem setSec_nextId (f : Sec → Sec) : (setSec f s).nextId = s.nextId := rfl
@[simp] theorem setSec_freeIx (f : Sec → Sec) : (setSec f s).freeIx = s.freeIx := rfl
@[simp] theorem setSec_img (f : Sec → Sec) : (setSec f s).img = s.img := rfl
@[simp] theorem setSec_pstate (f : Sec → Sec) : (setSec f s).pstate = s.pstate := rfl
@[simp] theorem setSec_ports (f : Sec → Sec) : (setSec f s).ports = s.ports := rfl
@[simp] theorem setSec_mem (f : Sec → Sec) : (setSec f s).mem = s.mem := rfl
@[simp] theorem setSec_hbm (f : Sec → Sec) : (setSec f s).hbm = s.hbm := rfl
@[simp] theorem setSec_ftl (f : Sec → Sec) : (setSec f s).ftl = s.ftl := rfl
@[simp] theorem setSec_vat (f : Sec → Sec) : (setSec f s).vat = s.vat := rfl
@[simp] theorem setSec_tmc (f : Sec → Sec) : (setSec f s).tmc = s.tmc := rfl
@[simp] theorem setSec_ftm (f : Sec → Sec) : (setSec f s).ftm = s.ftm := rfl
@[simp] theorem setSec_eng (f : Sec → Sec) : (setSec f s).eng = s.eng := rfl
@[simp] theorem setSec_eth (f : Sec → Sec) : (setSec f s).eth = s.eth := rfl
@[simp] theorem setSec_flt (f : Sec → Sec) : (setSec f s).flt = s.flt := rfl
@[simp] theorem setSec_twn (f : Sec → Sec) : (setSec f s).twn = s.twn := rfl
@[simp] theorem setSec_taps (f : Sec → Sec) : (setSec f s).taps = s.taps := rfl
@[simp] theorem setSec_tapSel (f : Sec → Sec) : (setSec f s).tapSel = s.tapSel := rfl
@[simp] theorem setSec_nv (f : Sec → Sec) : (setSec f s).nv = s.nv := rfl
@[simp] theorem setSec_mgmt (f : Sec → Sec) : (setSec f s).mgmt = s.mgmt := rfl
@[simp] theorem setSec_pwr (f : Sec → Sec) : (setSec f s).pwr = s.pwr := rfl
@[simp] theorem setSec_gctr (f : Sec → Sec) : (setSec f s).gctr = s.gctr := rfl
@[simp] theorem setSec_pctr (f : Sec → Sec) : (setSec f s).pctr = s.pctr := rfl
@[simp] theorem setSec_wire (f : Sec → Sec) : (setSec f s).wire = s.wire := rfl
@[simp] theorem setSec_out (f : Sec → Sec) : (setSec f s).out = s.out := rfl
@[simp] theorem setSec_sec (f : Sec → Sec) : (setSec f s).sec = f s.sec := rfl

@[simp] theorem setNv_pending (f : Nv → Nv) : (setNv f s).pending = s.pending := rfl
@[simp] theorem setNv_now (f : Nv → Nv) : (setNv f s).now = s.now := rfl
@[simp] theorem setNv_nextId (f : Nv → Nv) : (setNv f s).nextId = s.nextId := rfl
@[simp] theorem setNv_freeIx (f : Nv → Nv) : (setNv f s).freeIx = s.freeIx := rfl
@[simp] theorem setNv_img (f : Nv → Nv) : (setNv f s).img = s.img := rfl
@[simp] theorem setNv_pstate (f : Nv → Nv) : (setNv f s).pstate = s.pstate := rfl
@[simp] theorem setNv_ports (f : Nv → Nv) : (setNv f s).ports = s.ports := rfl
@[simp] theorem setNv_mem (f : Nv → Nv) : (setNv f s).mem = s.mem := rfl
@[simp] theorem setNv_hbm (f : Nv → Nv) : (setNv f s).hbm = s.hbm := rfl
@[simp] theorem setNv_ftl (f : Nv → Nv) : (setNv f s).ftl = s.ftl := rfl
@[simp] theorem setNv_vat (f : Nv → Nv) : (setNv f s).vat = s.vat := rfl
@[simp] theorem setNv_tmc (f : Nv → Nv) : (setNv f s).tmc = s.tmc := rfl
@[simp] theorem setNv_ftm (f : Nv → Nv) : (setNv f s).ftm = s.ftm := rfl
@[simp] theorem setNv_eng (f : Nv → Nv) : (setNv f s).eng = s.eng := rfl
@[simp] theorem setNv_eth (f : Nv → Nv) : (setNv f s).eth = s.eth := rfl
@[simp] theorem setNv_flt (f : Nv → Nv) : (setNv f s).flt = s.flt := rfl
@[simp] theorem setNv_twn (f : Nv → Nv) : (setNv f s).twn = s.twn := rfl
@[simp] theorem setNv_taps (f : Nv → Nv) : (setNv f s).taps = s.taps := rfl
@[simp] theorem setNv_tapSel (f : Nv → Nv) : (setNv f s).tapSel = s.tapSel := rfl
@[simp] theorem setNv_sec (f : Nv → Nv) : (setNv f s).sec = s.sec := rfl
@[simp] theorem setNv_mgmt (f : Nv → Nv) : (setNv f s).mgmt = s.mgmt := rfl
@[simp] theorem setNv_pwr (f : Nv → Nv) : (setNv f s).pwr = s.pwr := rfl
@[simp] theorem setNv_gctr (f : Nv → Nv) : (setNv f s).gctr = s.gctr := rfl
@[simp] theorem setNv_pctr (f : Nv → Nv) : (setNv f s).pctr = s.pctr := rfl
@[simp] theorem setNv_wire (f : Nv → Nv) : (setNv f s).wire = s.wire := rfl
@[simp] theorem setNv_out (f : Nv → Nv) : (setNv f s).out = s.out := rfl
@[simp] theorem setNv_nv (f : Nv → Nv) : (setNv f s).nv = f s.nv := rfl

@[simp] theorem setPwr_pending (f : Pwr → Pwr) : (setPwr f s).pending = s.pending := rfl
@[simp] theorem setPwr_now (f : Pwr → Pwr) : (setPwr f s).now = s.now := rfl
@[simp] theorem setPwr_nextId (f : Pwr → Pwr) : (setPwr f s).nextId = s.nextId := rfl
@[simp] theorem setPwr_freeIx (f : Pwr → Pwr) : (setPwr f s).freeIx = s.freeIx := rfl
@[simp] theorem setPwr_img (f : Pwr → Pwr) : (setPwr f s).img = s.img := rfl
@[simp] theorem setPwr_pstate (f : Pwr → Pwr) : (setPwr f s).pstate = s.pstate := rfl
@[simp] theorem setPwr_ports (f : Pwr → Pwr) : (setPwr f s).ports = s.ports := rfl
@[simp] theorem setPwr_mem (f : Pwr → Pwr) : (setPwr f s).mem = s.mem := rfl
@[simp] theorem setPwr_hbm (f : Pwr → Pwr) : (setPwr f s).hbm = s.hbm := rfl
@[simp] theorem setPwr_ftl (f : Pwr → Pwr) : (setPwr f s).ftl = s.ftl := rfl
@[simp] theorem setPwr_vat (f : Pwr → Pwr) : (setPwr f s).vat = s.vat := rfl
@[simp] theorem setPwr_tmc (f : Pwr → Pwr) : (setPwr f s).tmc = s.tmc := rfl
@[simp] theorem setPwr_ftm (f : Pwr → Pwr) : (setPwr f s).ftm = s.ftm := rfl
@[simp] theorem setPwr_eng (f : Pwr → Pwr) : (setPwr f s).eng = s.eng := rfl
@[simp] theorem setPwr_eth (f : Pwr → Pwr) : (setPwr f s).eth = s.eth := rfl
@[simp] theorem setPwr_flt (f : Pwr → Pwr) : (setPwr f s).flt = s.flt := rfl
@[simp] theorem setPwr_twn (f : Pwr → Pwr) : (setPwr f s).twn = s.twn := rfl
@[simp] theorem setPwr_taps (f : Pwr → Pwr) : (setPwr f s).taps = s.taps := rfl
@[simp] theorem setPwr_tapSel (f : Pwr → Pwr) : (setPwr f s).tapSel = s.tapSel := rfl
@[simp] theorem setPwr_nv (f : Pwr → Pwr) : (setPwr f s).nv = s.nv := rfl
@[simp] theorem setPwr_sec (f : Pwr → Pwr) : (setPwr f s).sec = s.sec := rfl
@[simp] theorem setPwr_mgmt (f : Pwr → Pwr) : (setPwr f s).mgmt = s.mgmt := rfl
@[simp] theorem setPwr_gctr (f : Pwr → Pwr) : (setPwr f s).gctr = s.gctr := rfl
@[simp] theorem setPwr_pctr (f : Pwr → Pwr) : (setPwr f s).pctr = s.pctr := rfl
@[simp] theorem setPwr_wire (f : Pwr → Pwr) : (setPwr f s).wire = s.wire := rfl
@[simp] theorem setPwr_out (f : Pwr → Pwr) : (setPwr f s).out = s.out := rfl
@[simp] theorem setPwr_pwr (f : Pwr → Pwr) : (setPwr f s).pwr = f s.pwr := rfl

@[simp] theorem setTwn_pending (f : Twn → Twn) : (setTwn f s).pending = s.pending := rfl
@[simp] theorem setTwn_now (f : Twn → Twn) : (setTwn f s).now = s.now := rfl
@[simp] theorem setTwn_nextId (f : Twn → Twn) : (setTwn f s).nextId = s.nextId := rfl
@[simp] theorem setTwn_freeIx (f : Twn → Twn) : (setTwn f s).freeIx = s.freeIx := rfl
@[simp] theorem setTwn_img (f : Twn → Twn) : (setTwn f s).img = s.img := rfl
@[simp] theorem setTwn_pstate (f : Twn → Twn) : (setTwn f s).pstate = s.pstate := rfl
@[simp] theorem setTwn_ports (f : Twn → Twn) : (setTwn f s).ports = s.ports := rfl
@[simp] theorem setTwn_mem (f : Twn → Twn) : (setTwn f s).mem = s.mem := rfl
@[simp] theorem setTwn_hbm (f : Twn → Twn) : (setTwn f s).hbm = s.hbm := rfl
@[simp] theorem setTwn_ftl (f : Twn → Twn) : (setTwn f s).ftl = s.ftl := rfl
@[simp] theorem setTwn_vat (f : Twn → Twn) : (setTwn f s).vat = s.vat := rfl
@[simp] theorem setTwn_tmc (f : Twn → Twn) : (setTwn f s).tmc = s.tmc := rfl
@[simp] theorem setTwn_ftm (f : Twn → Twn) : (setTwn f s).ftm = s.ftm := rfl
@[simp] theorem setTwn_eng (f : Twn → Twn) : (setTwn f s).eng = s.eng := rfl
@[simp] theorem setTwn_eth (f : Twn → Twn) : (setTwn f s).eth = s.eth := rfl
@[simp] theorem setTwn_flt (f : Twn → Twn) : (setTwn f s).flt = s.flt := rfl
@[simp] theorem setTwn_taps (f : Twn → Twn) : (setTwn f s).taps = s.taps := rfl
@[simp] theorem setTwn_tapSel (f : Twn → Twn) : (setTwn f s).tapSel = s.tapSel := rfl
@[simp] theorem setTwn_nv (f : Twn → Twn) : (setTwn f s).nv = s.nv := rfl
@[simp] theorem setTwn_sec (f : Twn → Twn) : (setTwn f s).sec = s.sec := rfl
@[simp] theorem setTwn_mgmt (f : Twn → Twn) : (setTwn f s).mgmt = s.mgmt := rfl
@[simp] theorem setTwn_pwr (f : Twn → Twn) : (setTwn f s).pwr = s.pwr := rfl
@[simp] theorem setTwn_gctr (f : Twn → Twn) : (setTwn f s).gctr = s.gctr := rfl
@[simp] theorem setTwn_pctr (f : Twn → Twn) : (setTwn f s).pctr = s.pctr := rfl
@[simp] theorem setTwn_wire (f : Twn → Twn) : (setTwn f s).wire = s.wire := rfl
@[simp] theorem setTwn_out (f : Twn → Twn) : (setTwn f s).out = s.out := rfl
@[simp] theorem setTwn_twn (f : Twn → Twn) : (setTwn f s).twn = f s.twn := rfl

@[simp] theorem setFtm_pending (f : Ftm → Ftm) : (setFtm f s).pending = s.pending := rfl
@[simp] theorem setFtm_now (f : Ftm → Ftm) : (setFtm f s).now = s.now := rfl
@[simp] theorem setFtm_nextId (f : Ftm → Ftm) : (setFtm f s).nextId = s.nextId := rfl
@[simp] theorem setFtm_freeIx (f : Ftm → Ftm) : (setFtm f s).freeIx = s.freeIx := rfl
@[simp] theorem setFtm_img (f : Ftm → Ftm) : (setFtm f s).img = s.img := rfl
@[simp] theorem setFtm_pstate (f : Ftm → Ftm) : (setFtm f s).pstate = s.pstate := rfl
@[simp] theorem setFtm_ports (f : Ftm → Ftm) : (setFtm f s).ports = s.ports := rfl
@[simp] theorem setFtm_mem (f : Ftm → Ftm) : (setFtm f s).mem = s.mem := rfl
@[simp] theorem setFtm_hbm (f : Ftm → Ftm) : (setFtm f s).hbm = s.hbm := rfl
@[simp] theorem setFtm_ftl (f : Ftm → Ftm) : (setFtm f s).ftl = s.ftl := rfl
@[simp] theorem setFtm_vat (f : Ftm → Ftm) : (setFtm f s).vat = s.vat := rfl
@[simp] theorem setFtm_tmc (f : Ftm → Ftm) : (setFtm f s).tmc = s.tmc := rfl
@[simp] theorem setFtm_eng (f : Ftm → Ftm) : (setFtm f s).eng = s.eng := rfl
@[simp] theorem setFtm_eth (f : Ftm → Ftm) : (setFtm f s).eth = s.eth := rfl
@[simp] theorem setFtm_flt (f : Ftm → Ftm) : (setFtm f s).flt = s.flt := rfl
@[simp] theorem setFtm_twn (f : Ftm → Ftm) : (setFtm f s).twn = s.twn := rfl
@[simp] theorem setFtm_taps (f : Ftm → Ftm) : (setFtm f s).taps = s.taps := rfl
@[simp] theorem setFtm_tapSel (f : Ftm → Ftm) : (setFtm f s).tapSel = s.tapSel := rfl
@[simp] theorem setFtm_nv (f : Ftm → Ftm) : (setFtm f s).nv = s.nv := rfl
@[simp] theorem setFtm_sec (f : Ftm → Ftm) : (setFtm f s).sec = s.sec := rfl
@[simp] theorem setFtm_mgmt (f : Ftm → Ftm) : (setFtm f s).mgmt = s.mgmt := rfl
@[simp] theorem setFtm_pwr (f : Ftm → Ftm) : (setFtm f s).pwr = s.pwr := rfl
@[simp] theorem setFtm_gctr (f : Ftm → Ftm) : (setFtm f s).gctr = s.gctr := rfl
@[simp] theorem setFtm_pctr (f : Ftm → Ftm) : (setFtm f s).pctr = s.pctr := rfl
@[simp] theorem setFtm_wire (f : Ftm → Ftm) : (setFtm f s).wire = s.wire := rfl
@[simp] theorem setFtm_out (f : Ftm → Ftm) : (setFtm f s).out = s.out := rfl
@[simp] theorem setFtm_ftm (f : Ftm → Ftm) : (setFtm f s).ftm = f s.ftm := rfl

@[simp] theorem setTmc_pending (f : Tmc → Tmc) : (setTmc f s).pending = s.pending := rfl
@[simp] theorem setTmc_now (f : Tmc → Tmc) : (setTmc f s).now = s.now := rfl
@[simp] theorem setTmc_nextId (f : Tmc → Tmc) : (setTmc f s).nextId = s.nextId := rfl
@[simp] theorem setTmc_freeIx (f : Tmc → Tmc) : (setTmc f s).freeIx = s.freeIx := rfl
@[simp] theorem setTmc_img (f : Tmc → Tmc) : (setTmc f s).img = s.img := rfl
@[simp] theorem setTmc_pstate (f : Tmc → Tmc) : (setTmc f s).pstate = s.pstate := rfl
@[simp] theorem setTmc_ports (f : Tmc → Tmc) : (setTmc f s).ports = s.ports := rfl
@[simp] theorem setTmc_mem (f : Tmc → Tmc) : (setTmc f s).mem = s.mem := rfl
@[simp] theorem setTmc_hbm (f : Tmc → Tmc) : (setTmc f s).hbm = s.hbm := rfl
@[simp] theorem setTmc_ftl (f : Tmc → Tmc) : (setTmc f s).ftl = s.ftl := rfl
@[simp] theorem setTmc_vat (f : Tmc → Tmc) : (setTmc f s).vat = s.vat := rfl
@[simp] theorem setTmc_ftm (f : Tmc → Tmc) : (setTmc f s).ftm = s.ftm := rfl
@[simp] theorem setTmc_eng (f : Tmc → Tmc) : (setTmc f s).eng = s.eng := rfl
@[simp] theorem setTmc_eth (f : Tmc → Tmc) : (setTmc f s).eth = s.eth := rfl
@[simp] theorem setTmc_flt (f : Tmc → Tmc) : (setTmc f s).flt = s.flt := rfl
@[simp] theorem setTmc_twn (f : Tmc → Tmc) : (setTmc f s).twn = s.twn := rfl
@[simp] theorem setTmc_taps (f : Tmc → Tmc) : (setTmc f s).taps = s.taps := rfl
@[simp] theorem setTmc_tapSel (f : Tmc → Tmc) : (setTmc f s).tapSel = s.tapSel := rfl
@[simp] theorem setTmc_nv (f : Tmc → Tmc) : (setTmc f s).nv = s.nv := rfl
@[simp] theorem setTmc_sec (f : Tmc → Tmc) : (setTmc f s).sec = s.sec := rfl
@[simp] theorem setTmc_mgmt (f : Tmc → Tmc) : (setTmc f s).mgmt = s.mgmt := rfl
@[simp] theorem setTmc_pwr (f : Tmc → Tmc) : (setTmc f s).pwr = s.pwr := rfl
@[simp] theorem setTmc_gctr (f : Tmc → Tmc) : (setTmc f s).gctr = s.gctr := rfl
@[simp] theorem setTmc_pctr (f : Tmc → Tmc) : (setTmc f s).pctr = s.pctr := rfl
@[simp] theorem setTmc_wire (f : Tmc → Tmc) : (setTmc f s).wire = s.wire := rfl
@[simp] theorem setTmc_out (f : Tmc → Tmc) : (setTmc f s).out = s.out := rfl
@[simp] theorem setTmc_tmc (f : Tmc → Tmc) : (setTmc f s).tmc = f s.tmc := rfl

@[simp] theorem tell_pending (m : MgmtOut) : (tell m s).pending = s.pending := rfl
@[simp] theorem tell_now (m : MgmtOut) : (tell m s).now = s.now := rfl
@[simp] theorem tell_nextId (m : MgmtOut) : (tell m s).nextId = s.nextId := rfl
@[simp] theorem tell_freeIx (m : MgmtOut) : (tell m s).freeIx = s.freeIx := rfl
@[simp] theorem tell_img (m : MgmtOut) : (tell m s).img = s.img := rfl
@[simp] theorem tell_pstate (m : MgmtOut) : (tell m s).pstate = s.pstate := rfl
@[simp] theorem tell_ports (m : MgmtOut) : (tell m s).ports = s.ports := rfl
@[simp] theorem tell_mem (m : MgmtOut) : (tell m s).mem = s.mem := rfl
@[simp] theorem tell_hbm (m : MgmtOut) : (tell m s).hbm = s.hbm := rfl
@[simp] theorem tell_ftl (m : MgmtOut) : (tell m s).ftl = s.ftl := rfl
@[simp] theorem tell_vat (m : MgmtOut) : (tell m s).vat = s.vat := rfl
@[simp] theorem tell_tmc (m : MgmtOut) : (tell m s).tmc = s.tmc := rfl
@[simp] theorem tell_ftm (m : MgmtOut) : (tell m s).ftm = s.ftm := rfl
@[simp] theorem tell_eng (m : MgmtOut) : (tell m s).eng = s.eng := rfl
@[simp] theorem tell_eth (m : MgmtOut) : (tell m s).eth = s.eth := rfl
@[simp] theorem tell_flt (m : MgmtOut) : (tell m s).flt = s.flt := rfl
@[simp] theorem tell_twn (m : MgmtOut) : (tell m s).twn = s.twn := rfl
@[simp] theorem tell_taps (m : MgmtOut) : (tell m s).taps = s.taps := rfl
@[simp] theorem tell_tapSel (m : MgmtOut) : (tell m s).tapSel = s.tapSel := rfl
@[simp] theorem tell_nv (m : MgmtOut) : (tell m s).nv = s.nv := rfl
@[simp] theorem tell_sec (m : MgmtOut) : (tell m s).sec = s.sec := rfl
@[simp] theorem tell_mgmt (m : MgmtOut) : (tell m s).mgmt = s.mgmt := rfl
@[simp] theorem tell_pwr (m : MgmtOut) : (tell m s).pwr = s.pwr := rfl
@[simp] theorem tell_gctr (m : MgmtOut) : (tell m s).gctr = s.gctr := rfl
@[simp] theorem tell_pctr (m : MgmtOut) : (tell m s).pctr = s.pctr := rfl
@[simp] theorem tell_wire (m : MgmtOut) : (tell m s).wire = s.wire := rfl
@[simp] theorem tell_out (m : MgmtOut) : (tell m s).out = m :: s.out := rfl

@[simp] theorem wireOut_pending (p : Nat) (w : Wire) : (wireOut p w s).pending = s.pending := rfl
@[simp] theorem wireOut_now (p : Nat) (w : Wire) : (wireOut p w s).now = s.now := rfl
@[simp] theorem wireOut_nextId (p : Nat) (w : Wire) : (wireOut p w s).nextId = s.nextId := rfl
@[simp] theorem wireOut_freeIx (p : Nat) (w : Wire) : (wireOut p w s).freeIx = s.freeIx := rfl
@[simp] theorem wireOut_img (p : Nat) (w : Wire) : (wireOut p w s).img = s.img := rfl
@[simp] theorem wireOut_pstate (p : Nat) (w : Wire) : (wireOut p w s).pstate = s.pstate := rfl
@[simp] theorem wireOut_ports (p : Nat) (w : Wire) : (wireOut p w s).ports = s.ports := rfl
@[simp] theorem wireOut_mem (p : Nat) (w : Wire) : (wireOut p w s).mem = s.mem := rfl
@[simp] theorem wireOut_hbm (p : Nat) (w : Wire) : (wireOut p w s).hbm = s.hbm := rfl
@[simp] theorem wireOut_ftl (p : Nat) (w : Wire) : (wireOut p w s).ftl = s.ftl := rfl
@[simp] theorem wireOut_vat (p : Nat) (w : Wire) : (wireOut p w s).vat = s.vat := rfl
@[simp] theorem wireOut_tmc (p : Nat) (w : Wire) : (wireOut p w s).tmc = s.tmc := rfl
@[simp] theorem wireOut_ftm (p : Nat) (w : Wire) : (wireOut p w s).ftm = s.ftm := rfl
@[simp] theorem wireOut_eng (p : Nat) (w : Wire) : (wireOut p w s).eng = s.eng := rfl
@[simp] theorem wireOut_eth (p : Nat) (w : Wire) : (wireOut p w s).eth = s.eth := rfl
@[simp] theorem wireOut_flt (p : Nat) (w : Wire) : (wireOut p w s).flt = s.flt := rfl
@[simp] theorem wireOut_twn (p : Nat) (w : Wire) : (wireOut p w s).twn = s.twn := rfl
@[simp] theorem wireOut_taps (p : Nat) (w : Wire) : (wireOut p w s).taps = s.taps := rfl
@[simp] theorem wireOut_tapSel (p : Nat) (w : Wire) : (wireOut p w s).tapSel = s.tapSel := rfl
@[simp] theorem wireOut_nv (p : Nat) (w : Wire) : (wireOut p w s).nv = s.nv := rfl
@[simp] theorem wireOut_sec (p : Nat) (w : Wire) : (wireOut p w s).sec = s.sec := rfl
@[simp] theorem wireOut_mgmt (p : Nat) (w : Wire) : (wireOut p w s).mgmt = s.mgmt := rfl
@[simp] theorem wireOut_pwr (p : Nat) (w : Wire) : (wireOut p w s).pwr = s.pwr := rfl
@[simp] theorem wireOut_gctr (p : Nat) (w : Wire) : (wireOut p w s).gctr = s.gctr := rfl
@[simp] theorem wireOut_pctr (p : Nat) (w : Wire) : (wireOut p w s).pctr = s.pctr := rfl
@[simp] theorem wireOut_out (p : Nat) (w : Wire) : (wireOut p w s).out = s.out := rfl
@[simp] theorem wireOut_wire (p : Nat) (w : Wire) : (wireOut p w s).wire = (p, w) :: s.wire := rfl

@[simp] theorem reply_pending (a c : Nat) (st : PStatus) (b : List Nat) : (reply a c st b s).pending = s.pending := rfl
@[simp] theorem reply_now (a c : Nat) (st : PStatus) (b : List Nat) : (reply a c st b s).now = s.now := rfl
@[simp] theorem reply_nextId (a c : Nat) (st : PStatus) (b : List Nat) : (reply a c st b s).nextId = s.nextId := rfl
@[simp] theorem reply_freeIx (a c : Nat) (st : PStatus) (b : List Nat) : (reply a c st b s).freeIx = s.freeIx := rfl
@[simp] theorem reply_img (a c : Nat) (st : PStatus) (b : List Nat) : (reply a c st b s).img = s.img := rfl
@[simp] theorem reply_pstate (a c : Nat) (st : PStatus) (b : List Nat) : (reply a c st b s).pstate = s.pstate := rfl
@[simp] theorem reply_ports (a c : Nat) (st : PStatus) (b : List Nat) : (reply a c st b s).ports = s.ports := rfl
@[simp] theorem reply_mem (a c : Nat) (st : PStatus) (b : List Nat) : (reply a c st b s).mem = s.mem := rfl
@[simp] theorem reply_hbm (a c : Nat) (st : PStatus) (b : List Nat) : (reply a c st b s).hbm = s.hbm := rfl
@[simp] theorem reply_ftl (a c : Nat) (st : PStatus) (b : List Nat) : (reply a c st b s).ftl = s.ftl := rfl
@[simp] theorem reply_vat (a c : Nat) (st : PStatus) (b : List Nat) : (reply a c st b s).vat = s.vat := rfl
@[simp] theorem reply_tmc (a c : Nat) (st : PStatus) (b : List Nat) : (reply a c st b s).tmc = s.tmc := rfl
@[simp] theorem reply_ftm (a c : Nat) (st : PStatus) (b : List Nat) : (reply a c st b s).ftm = s.ftm := rfl
@[simp] theorem reply_eng (a c : Nat) (st : PStatus) (b : List Nat) : (reply a c st b s).eng = s.eng := rfl
@[simp] theorem reply_eth (a c : Nat) (st : PStatus) (b : List Nat) : (reply a c st b s).eth = s.eth := rfl
@[simp] theorem reply_flt (a c : Nat) (st : PStatus) (b : List Nat) : (reply a c st b s).flt = s.flt := rfl
@[simp] theorem reply_twn (a c : Nat) (st : PStatus) (b : List Nat) : (reply a c st b s).twn = s.twn := rfl
@[simp] theorem reply_taps (a c : Nat) (st : PStatus) (b : List Nat) : (reply a c st b s).taps = s.taps := rfl
@[simp] theorem reply_tapSel (a c : Nat) (st : PStatus) (b : List Nat) : (reply a c st b s).tapSel = s.tapSel := rfl
@[simp] theorem reply_nv (a c : Nat) (st : PStatus) (b : List Nat) : (reply a c st b s).nv = s.nv := rfl
@[simp] theorem reply_sec (a c : Nat) (st : PStatus) (b : List Nat) : (reply a c st b s).sec = s.sec := rfl
@[simp] theorem reply_mgmt (a c : Nat) (st : PStatus) (b : List Nat) : (reply a c st b s).mgmt = s.mgmt := rfl
@[simp] theorem reply_pwr (a c : Nat) (st : PStatus) (b : List Nat) : (reply a c st b s).pwr = s.pwr := rfl
@[simp] theorem reply_gctr (a c : Nat) (st : PStatus) (b : List Nat) : (reply a c st b s).gctr = s.gctr := rfl
@[simp] theorem reply_pctr (a c : Nat) (st : PStatus) (b : List Nat) : (reply a c st b s).pctr = s.pctr := rfl
@[simp] theorem reply_wire (a c : Nat) (st : PStatus) (b : List Nat) : (reply a c st b s).wire = s.wire := rfl
@[simp] theorem reply_out (a c : Nat) (st : PStatus) (b : List Nat) : (reply a c st b s).out = .prosis a c st b :: s.out := rfl

@[simp] theorem bumpG_pending (c : GCtr) (n : Nat) : (bumpG c n s).pending = s.pending := by unfold bumpG; split <;> rfl
@[simp] theorem bumpG_now (c : GCtr) (n : Nat) : (bumpG c n s).now = s.now := by unfold bumpG; split <;> rfl
@[simp] theorem bumpG_nextId (c : GCtr) (n : Nat) : (bumpG c n s).nextId = s.nextId := by unfold bumpG; split <;> rfl
@[simp] theorem bumpG_freeIx (c : GCtr) (n : Nat) : (bumpG c n s).freeIx = s.freeIx := by unfold bumpG; split <;> rfl
@[simp] theorem bumpG_img (c : GCtr) (n : Nat) : (bumpG c n s).img = s.img := by unfold bumpG; split <;> rfl
@[simp] theorem bumpG_pstate (c : GCtr) (n : Nat) : (bumpG c n s).pstate = s.pstate := by unfold bumpG; split <;> rfl
@[simp] theorem bumpG_ports (c : GCtr) (n : Nat) : (bumpG c n s).ports = s.ports := by unfold bumpG; split <;> rfl
@[simp] theorem bumpG_mem (c : GCtr) (n : Nat) : (bumpG c n s).mem = s.mem := by unfold bumpG; split <;> rfl
@[simp] theorem bumpG_hbm (c : GCtr) (n : Nat) : (bumpG c n s).hbm = s.hbm := by unfold bumpG; split <;> rfl
@[simp] theorem bumpG_ftl (c : GCtr) (n : Nat) : (bumpG c n s).ftl = s.ftl := by unfold bumpG; split <;> rfl
@[simp] theorem bumpG_vat (c : GCtr) (n : Nat) : (bumpG c n s).vat = s.vat := by unfold bumpG; split <;> rfl
@[simp] theorem bumpG_tmc (c : GCtr) (n : Nat) : (bumpG c n s).tmc = s.tmc := by unfold bumpG; split <;> rfl
@[simp] theorem bumpG_ftm (c : GCtr) (n : Nat) : (bumpG c n s).ftm = s.ftm := by unfold bumpG; split <;> rfl
@[simp] theorem bumpG_eng (c : GCtr) (n : Nat) : (bumpG c n s).eng = s.eng := by unfold bumpG; split <;> rfl
@[simp] theorem bumpG_eth (c : GCtr) (n : Nat) : (bumpG c n s).eth = s.eth := by unfold bumpG; split <;> rfl
@[simp] theorem bumpG_flt (c : GCtr) (n : Nat) : (bumpG c n s).flt = s.flt := by unfold bumpG; split <;> rfl
@[simp] theorem bumpG_twn (c : GCtr) (n : Nat) : (bumpG c n s).twn = s.twn := by unfold bumpG; split <;> rfl
@[simp] theorem bumpG_taps (c : GCtr) (n : Nat) : (bumpG c n s).taps = s.taps := by unfold bumpG; split <;> rfl
@[simp] theorem bumpG_tapSel (c : GCtr) (n : Nat) : (bumpG c n s).tapSel = s.tapSel := by unfold bumpG; split <;> rfl
@[simp] theorem bumpG_nv (c : GCtr) (n : Nat) : (bumpG c n s).nv = s.nv := by unfold bumpG; split <;> rfl
@[simp] theorem bumpG_sec (c : GCtr) (n : Nat) : (bumpG c n s).sec = s.sec := by unfold bumpG; split <;> rfl
@[simp] theorem bumpG_mgmt (c : GCtr) (n : Nat) : (bumpG c n s).mgmt = s.mgmt := by unfold bumpG; split <;> rfl
@[simp] theorem bumpG_pwr (c : GCtr) (n : Nat) : (bumpG c n s).pwr = s.pwr := by unfold bumpG; split <;> rfl
@[simp] theorem bumpG_pctr (c : GCtr) (n : Nat) : (bumpG c n s).pctr = s.pctr := by unfold bumpG; split <;> rfl
@[simp] theorem bumpG_wire (c : GCtr) (n : Nat) : (bumpG c n s).wire = s.wire := by unfold bumpG; split <;> rfl
@[simp] theorem bumpG_out (c : GCtr) (n : Nat) : (bumpG c n s).out = s.out := by unfold bumpG; split <;> rfl

@[simp] theorem bumpP_pending (p : Nat) (c : PCtr) (n : Nat) : (bumpP p c n s).pending = s.pending := by unfold bumpP; split <;> rfl
@[simp] theorem bumpP_now (p : Nat) (c : PCtr) (n : Nat) : (bumpP p c n s).now = s.now := by unfold bumpP; split <;> rfl
@[simp] theorem bumpP_nextId (p : Nat) (c : PCtr) (n : Nat) : (bumpP p c n s).nextId = s.nextId := by unfold bumpP; split <;> rfl
@[simp] theorem bumpP_freeIx (p : Nat) (c : PCtr) (n : Nat) : (bumpP p c n s).freeIx = s.freeIx := by unfold bumpP; split <;> rfl
@[simp] theorem bumpP_img (p : Nat) (c : PCtr) (n : Nat) : (bumpP p c n s).img = s.img := by unfold bumpP; split <;> rfl
@[simp] theorem bumpP_pstate (p : Nat) (c : PCtr) (n : Nat) : (bumpP p c n s).pstate = s.pstate := by unfold bumpP; split <;> rfl
@[simp] theorem bumpP_ports (p : Nat) (c : PCtr) (n : Nat) : (bumpP p c n s).ports = s.ports := by unfold bumpP; split <;> rfl
@[simp] theorem bumpP_mem (p : Nat) (c : PCtr) (n : Nat) : (bumpP p c n s).mem = s.mem := by unfold bumpP; split <;> rfl
@[simp] theorem bumpP_hbm (p : Nat) (c : PCtr) (n : Nat) : (bumpP p c n s).hbm = s.hbm := by unfold bumpP; split <;> rfl
@[simp] theorem bumpP_ftl (p : Nat) (c : PCtr) (n : Nat) : (bumpP p c n s).ftl = s.ftl := by unfold bumpP; split <;> rfl
@[simp] theorem bumpP_vat (p : Nat) (c : PCtr) (n : Nat) : (bumpP p c n s).vat = s.vat := by unfold bumpP; split <;> rfl
@[simp] theorem bumpP_tmc (p : Nat) (c : PCtr) (n : Nat) : (bumpP p c n s).tmc = s.tmc := by unfold bumpP; split <;> rfl
@[simp] theorem bumpP_ftm (p : Nat) (c : PCtr) (n : Nat) : (bumpP p c n s).ftm = s.ftm := by unfold bumpP; split <;> rfl
@[simp] theorem bumpP_eng (p : Nat) (c : PCtr) (n : Nat) : (bumpP p c n s).eng = s.eng := by unfold bumpP; split <;> rfl
@[simp] theorem bumpP_eth (p : Nat) (c : PCtr) (n : Nat) : (bumpP p c n s).eth = s.eth := by unfold bumpP; split <;> rfl
@[simp] theorem bumpP_flt (p : Nat) (c : PCtr) (n : Nat) : (bumpP p c n s).flt = s.flt := by unfold bumpP; split <;> rfl
@[simp] theorem bumpP_twn (p : Nat) (c : PCtr) (n : Nat) : (bumpP p c n s).twn = s.twn := by unfold bumpP; split <;> rfl
@[simp] theorem bumpP_taps (p : Nat) (c : PCtr) (n : Nat) : (bumpP p c n s).taps = s.taps := by unfold bumpP; split <;> rfl
@[simp] theorem bumpP_tapSel (p : Nat) (c : PCtr) (n : Nat) : (bumpP p c n s).tapSel = s.tapSel := by unfold bumpP; split <;> rfl
@[simp] theorem bumpP_nv (p : Nat) (c : PCtr) (n : Nat) : (bumpP p c n s).nv = s.nv := by unfold bumpP; split <;> rfl
@[simp] theorem bumpP_sec (p : Nat) (c : PCtr) (n : Nat) : (bumpP p c n s).sec = s.sec := by unfold bumpP; split <;> rfl
@[simp] theorem bumpP_mgmt (p : Nat) (c : PCtr) (n : Nat) : (bumpP p c n s).mgmt = s.mgmt := by unfold bumpP; split <;> rfl
@[simp] theorem bumpP_pwr (p : Nat) (c : PCtr) (n : Nat) : (bumpP p c n s).pwr = s.pwr := by unfold bumpP; split <;> rfl
@[simp] theorem bumpP_gctr (p : Nat) (c : PCtr) (n : Nat) : (bumpP p c n s).gctr = s.gctr := by unfold bumpP; split <;> rfl
@[simp] theorem bumpP_wire (p : Nat) (c : PCtr) (n : Nat) : (bumpP p c n s).wire = s.wire := by unfold bumpP; split <;> rfl
@[simp] theorem bumpP_out (p : Nat) (c : PCtr) (n : Nat) : (bumpP p c n s).out = s.out := by unfold bumpP; split <;> rfl

@[simp] theorem bumpPart_pending (p w n : Nat) : (bumpPart p w n s).pending = s.pending := rfl
@[simp] theorem bumpPart_now (p w n : Nat) : (bumpPart p w n s).now = s.now := rfl
@[simp] theorem bumpPart_nextId (p w n : Nat) : (bumpPart p w n s).nextId = s.nextId := rfl
@[simp] theorem bumpPart_freeIx (p w n : Nat) : (bumpPart p w n s).freeIx = s.freeIx := rfl
@[simp] theorem bumpPart_img (p w n : Nat) : (bumpPart p w n s).img = s.img := rfl
@[simp] theorem bumpPart_pstate (p w n : Nat) : (bumpPart p w n s).pstate = s.pstate := rfl
@[simp] theorem bumpPart_ports (p w n : Nat) : (bumpPart p w n s).ports = s.ports := rfl
@[simp] theorem bumpPart_mem (p w n : Nat) : (bumpPart p w n s).mem = s.mem := rfl
@[simp] theorem bumpPart_hbm (p w n : Nat) : (bumpPart p w n s).hbm = s.hbm := rfl
@[simp] theorem bumpPart_ftl (p w n : Nat) : (bumpPart p w n s).ftl = s.ftl := rfl
@[simp] theorem bumpPart_vat (p w n : Nat) : (bumpPart p w n s).vat = s.vat := rfl
@[simp] theorem bumpPart_tmc (p w n : Nat) : (bumpPart p w n s).tmc = s.tmc := rfl
@[simp] theorem bumpPart_ftm (p w n : Nat) : (bumpPart p w n s).ftm = s.ftm := rfl
@[simp] theorem bumpPart_eng (p w n : Nat) : (bumpPart p w n s).eng = s.eng := rfl
@[simp] theorem bumpPart_eth (p w n : Nat) : (bumpPart p w n s).eth = s.eth := rfl
@[simp] theorem bumpPart_flt (p w n : Nat) : (bumpPart p w n s).flt = s.flt := rfl
@[simp] theorem bumpPart_twn (p w n : Nat) : (bumpPart p w n s).twn = s.twn := rfl
@[simp] theorem bumpPart_taps (p w n : Nat) : (bumpPart p w n s).taps = s.taps := rfl
@[simp] theorem bumpPart_tapSel (p w n : Nat) : (bumpPart p w n s).tapSel = s.tapSel := rfl
@[simp] theorem bumpPart_nv (p w n : Nat) : (bumpPart p w n s).nv = s.nv := rfl
@[simp] theorem bumpPart_sec (p w n : Nat) : (bumpPart p w n s).sec = s.sec := rfl
@[simp] theorem bumpPart_pwr (p w n : Nat) : (bumpPart p w n s).pwr = s.pwr := rfl
@[simp] theorem bumpPart_gctr (p w n : Nat) : (bumpPart p w n s).gctr = s.gctr := rfl
@[simp] theorem bumpPart_pctr (p w n : Nat) : (bumpPart p w n s).pctr = s.pctr := rfl
@[simp] theorem bumpPart_wire (p w n : Nat) : (bumpPart p w n s).wire = s.wire := rfl
@[simp] theorem bumpPart_out (p w n : Nat) : (bumpPart p w n s).out = s.out := rfl

@[simp] theorem takeFree_pending  : ((takeFree s).2).pending = s.pending := rfl
@[simp] theorem takeFree_now  : ((takeFree s).2).now = s.now := rfl
@[simp] theorem takeFree_nextId  : ((takeFree s).2).nextId = s.nextId := rfl
@[simp] theorem takeFree_img  : ((takeFree s).2).img = s.img := rfl
@[simp] theorem takeFree_pstate  : ((takeFree s).2).pstate = s.pstate := rfl
@[simp] theorem takeFree_ports  : ((takeFree s).2).ports = s.ports := rfl
@[simp] theorem takeFree_mem  : ((takeFree s).2).mem = s.mem := rfl
@[simp] theorem takeFree_hbm  : ((takeFree s).2).hbm = s.hbm := rfl
@[simp] theorem takeFree_ftl  : ((takeFree s).2).ftl = s.ftl := rfl
@[simp] theorem takeFree_vat  : ((takeFree s).2).vat = s.vat := rfl
@[simp] theorem takeFree_tmc  : ((takeFree s).2).tmc = s.tmc := rfl
@[simp] theorem takeFree_ftm  : ((takeFree s).2).ftm = s.ftm := rfl
@[simp] theorem takeFree_eng  : ((takeFree s).2).eng = s.eng := rfl
@[simp] theorem takeFree_eth  : ((takeFree s).2).eth = s.eth := rfl
@[simp] theorem takeFree_flt  : ((takeFree s).2).flt = s.flt := rfl
@[simp] theorem takeFree_twn  : ((takeFree s).2).twn = s.twn := rfl
@[simp] theorem takeFree_taps  : ((takeFree s).2).taps = s.taps := rfl
@[simp] theorem takeFree_tapSel  : ((takeFree s).2).tapSel = s.tapSel := rfl
@[simp] theorem takeFree_nv  : ((takeFree s).2).nv = s.nv := rfl
@[simp] theorem takeFree_sec  : ((takeFree s).2).sec = s.sec := rfl
@[simp] theorem takeFree_mgmt  : ((takeFree s).2).mgmt = s.mgmt := rfl
@[simp] theorem takeFree_pwr  : ((takeFree s).2).pwr = s.pwr := rfl
@[simp] theorem takeFree_gctr  : ((takeFree s).2).gctr = s.gctr := rfl
@[simp] theorem takeFree_pctr  : ((takeFree s).2).pctr = s.pctr := rfl
@[simp] theorem takeFree_wire  : ((takeFree s).2).wire = s.wire := rfl
@[simp] theorem takeFree_out  : ((takeFree s).2).out = s.out := rfl
@[simp] theorem takeFree_freeIx  : ((takeFree s).2).freeIx = s.freeIx + 1 := rfl

@[simp] theorem takeDraw_pending  : ((takeDraw s).2).pending = s.pending := rfl
@[simp] theorem takeDraw_now  : ((takeDraw s).2).now = s.now := rfl
@[simp] theorem takeDraw_nextId  : ((takeDraw s).2).nextId = s.nextId := rfl
@[simp] theorem takeDraw_img  : ((takeDraw s).2).img = s.img := rfl
@[simp] theorem takeDraw_pstate  : ((takeDraw s).2).pstate = s.pstate := rfl
@[simp] theorem takeDraw_ports  : ((takeDraw s).2).ports = s.ports := rfl
@[simp] theorem takeDraw_mem  : ((takeDraw s).2).mem = s.mem := rfl
@[simp] theorem takeDraw_hbm  : ((takeDraw s).2).hbm = s.hbm := rfl
@[simp] theorem takeDraw_ftl  : ((takeDraw s).2).ftl = s.ftl := rfl
@[simp] theorem takeDraw_vat  : ((takeDraw s).2).vat = s.vat := rfl
@[simp] theorem takeDraw_tmc  : ((takeDraw s).2).tmc = s.tmc := rfl
@[simp] theorem takeDraw_ftm  : ((takeDraw s).2).ftm = s.ftm := rfl
@[simp] theorem takeDraw_eng  : ((takeDraw s).2).eng = s.eng := rfl
@[simp] theorem takeDraw_eth  : ((takeDraw s).2).eth = s.eth := rfl
@[simp] theorem takeDraw_flt  : ((takeDraw s).2).flt = s.flt := rfl
@[simp] theorem takeDraw_twn  : ((takeDraw s).2).twn = s.twn := rfl
@[simp] theorem takeDraw_taps  : ((takeDraw s).2).taps = s.taps := rfl
@[simp] theorem takeDraw_tapSel  : ((takeDraw s).2).tapSel = s.tapSel := rfl
@[simp] theorem takeDraw_nv  : ((takeDraw s).2).nv = s.nv := rfl
@[simp] theorem takeDraw_sec  : ((takeDraw s).2).sec = s.sec := rfl
@[simp] theorem takeDraw_mgmt  : ((takeDraw s).2).mgmt = s.mgmt := rfl
@[simp] theorem takeDraw_pwr  : ((takeDraw s).2).pwr = s.pwr := rfl
@[simp] theorem takeDraw_gctr  : ((takeDraw s).2).gctr = s.gctr := rfl
@[simp] theorem takeDraw_pctr  : ((takeDraw s).2).pctr = s.pctr := rfl
@[simp] theorem takeDraw_wire  : ((takeDraw s).2).wire = s.wire := rfl
@[simp] theorem takeDraw_out  : ((takeDraw s).2).out = s.out := rfl
@[simp] theorem takeDraw_freeIx  : ((takeDraw s).2).freeIx = s.freeIx + 1 := rfl

@[simp] theorem takeId_pending  : ((takeId s).2).pending = s.pending := rfl
@[simp] theorem takeId_now  : ((takeId s).2).now = s.now := rfl
@[simp] theorem takeId_freeIx  : ((takeId s).2).freeIx = s.freeIx := rfl
@[simp] theorem takeId_img  : ((takeId s).2).img = s.img := rfl
@[simp] theorem takeId_pstate  : ((takeId s).2).pstate = s.pstate := rfl
@[simp] theorem takeId_ports  : ((takeId s).2).ports = s.ports := rfl
@[simp] theorem takeId_mem  : ((takeId s).2).mem = s.mem := rfl
@[simp] theorem takeId_hbm  : ((takeId s).2).hbm = s.hbm := rfl
@[simp] theorem takeId_ftl  : ((takeId s).2).ftl = s.ftl := rfl
@[simp] theorem takeId_vat  : ((takeId s).2).vat = s.vat := rfl
@[simp] theorem takeId_tmc  : ((takeId s).2).tmc = s.tmc := rfl
@[simp] theorem takeId_ftm  : ((takeId s).2).ftm = s.ftm := rfl
@[simp] theorem takeId_eng  : ((takeId s).2).eng = s.eng := rfl
@[simp] theorem takeId_eth  : ((takeId s).2).eth = s.eth := rfl
@[simp] theorem takeId_flt  : ((takeId s).2).flt = s.flt := rfl
@[simp] theorem takeId_twn  : ((takeId s).2).twn = s.twn := rfl
@[simp] theorem takeId_taps  : ((takeId s).2).taps = s.taps := rfl
@[simp] theorem takeId_tapSel  : ((takeId s).2).tapSel = s.tapSel := rfl
@[simp] theorem takeId_nv  : ((takeId s).2).nv = s.nv := rfl
@[simp] theorem takeId_sec  : ((takeId s).2).sec = s.sec := rfl
@[simp] theorem takeId_mgmt  : ((takeId s).2).mgmt = s.mgmt := rfl
@[simp] theorem takeId_pwr  : ((takeId s).2).pwr = s.pwr := rfl
@[simp] theorem takeId_gctr  : ((takeId s).2).gctr = s.gctr := rfl
@[simp] theorem takeId_pctr  : ((takeId s).2).pctr = s.pctr := rfl
@[simp] theorem takeId_wire  : ((takeId s).2).wire = s.wire := rfl
@[simp] theorem takeId_out  : ((takeId s).2).out = s.out := rfl
@[simp] theorem takeId_nextId  : ((takeId s).2).nextId = s.nextId + 1 := rfl

@[simp] theorem setPort_pending (p : Nat) (f : Port → Port) : (setPort p f s).pending = s.pending := rfl
@[simp] theorem setPort_now (p : Nat) (f : Port → Port) : (setPort p f s).now = s.now := rfl
@[simp] theorem setPort_nextId (p : Nat) (f : Port → Port) : (setPort p f s).nextId = s.nextId := rfl
@[simp] theorem setPort_freeIx (p : Nat) (f : Port → Port) : (setPort p f s).freeIx = s.freeIx := rfl
@[simp] theorem setPort_img (p : Nat) (f : Port → Port) : (setPort p f s).img = s.img := rfl
@[simp] theorem setPort_pstate (p : Nat) (f : Port → Port) : (setPort p f s).pstate = s.pstate := rfl
@[simp] theorem setPort_mem (p : Nat) (f : Port → Port) : (setPort p f s).mem = s.mem := rfl
@[simp] theorem setPort_hbm (p : Nat) (f : Port → Port) : (setPort p f s).hbm = s.hbm := rfl
@[simp] theorem setPort_ftl (p : Nat) (f : Port → Port) : (setPort p f s).ftl = s.ftl := rfl
@[simp] theorem setPort_vat (p : Nat) (f : Port → Port) : (setPort p f s).vat = s.vat := rfl
@[simp] theorem setPort_tmc (p : Nat) (f : Port → Port) : (setPort p f s).tmc = s.tmc := rfl
@[simp] theorem setPort_ftm (p : Nat) (f : Port → Port) : (setPort p f s).ftm = s.ftm := rfl
@[simp] theorem setPort_eng (p : Nat) (f : Port → Port) : (setPort p f s).eng = s.eng := rfl
@[simp] theorem setPort_eth (p : Nat) (f : Port → Port) : (setPort p f s).eth = s.eth := rfl
@[simp] theorem setPort_flt (p : Nat) (f : Port → Port) : (setPort p f s).flt = s.flt := rfl
@[simp] theorem setPort_twn (p : Nat) (f : Port → Port) : (setPort p f s).twn = s.twn := rfl
@[simp] theorem setPort_taps (p : Nat) (f : Port → Port) : (setPort p f s).taps = s.taps := rfl
@[simp] theorem setPort_tapSel (p : Nat) (f : Port → Port) : (setPort p f s).tapSel = s.tapSel := rfl
@[simp] theorem setPort_nv (p : Nat) (f : Port → Port) : (setPort p f s).nv = s.nv := rfl
@[simp] theorem setPort_sec (p : Nat) (f : Port → Port) : (setPort p f s).sec = s.sec := rfl
@[simp] theorem setPort_mgmt (p : Nat) (f : Port → Port) : (setPort p f s).mgmt = s.mgmt := rfl
@[simp] theorem setPort_pwr (p : Nat) (f : Port → Port) : (setPort p f s).pwr = s.pwr := rfl
@[simp] theorem setPort_gctr (p : Nat) (f : Port → Port) : (setPort p f s).gctr = s.gctr := rfl
@[simp] theorem setPort_pctr (p : Nat) (f : Port → Port) : (setPort p f s).pctr = s.pctr := rfl
@[simp] theorem setPort_wire (p : Nat) (f : Port → Port) : (setPort p f s).wire = s.wire := rfl
@[simp] theorem setPort_out (p : Nat) (f : Port → Port) : (setPort p f s).out = s.out := rfl

@[simp] theorem setTap_pending (p : Nat) (f : Tap → Tap) : (setTap p f s).pending = s.pending := rfl
@[simp] theorem setTap_now (p : Nat) (f : Tap → Tap) : (setTap p f s).now = s.now := rfl
@[simp] theorem setTap_nextId (p : Nat) (f : Tap → Tap) : (setTap p f s).nextId = s.nextId := rfl
@[simp] theorem setTap_freeIx (p : Nat) (f : Tap → Tap) : (setTap p f s).freeIx = s.freeIx := rfl
@[simp] theorem setTap_img (p : Nat) (f : Tap → Tap) : (setTap p f s).img = s.img := rfl
@[simp] theorem setTap_pstate (p : Nat) (f : Tap → Tap) : (setTap p f s).pstate = s.pstate := rfl
@[simp] theorem setTap_ports (p : Nat) (f : Tap → Tap) : (setTap p f s).ports = s.ports := rfl
@[simp] theorem setTap_mem (p : Nat) (f : Tap → Tap) : (setTap p f s).mem = s.mem := rfl
@[simp] theorem setTap_hbm (p : Nat) (f : Tap → Tap) : (setTap p f s).hbm = s.hbm := rfl
@[simp] theorem setTap_ftl (p : Nat) (f : Tap → Tap) : (setTap p f s).ftl = s.ftl := rfl
@[simp] theorem setTap_vat (p : Nat) (f : Tap → Tap) : (setTap p f s).vat = s.vat := rfl
@[simp] theorem setTap_tmc (p : Nat) (f : Tap → Tap) : (setTap p f s).tmc = s.tmc := rfl
@[simp] theorem setTap_ftm (p : Nat) (f : Tap → Tap) : (setTap p f s).ftm = s.ftm := rfl
@[simp] theorem setTap_eng (p : Nat) (f : Tap → Tap) : (setTap p f s).eng = s.eng := rfl
@[simp] theorem setTap_eth (p : Nat) (f : Tap → Tap) : (setTap p f s).eth = s.eth := rfl
@[simp] theorem setTap_flt (p : Nat) (f : Tap → Tap) : (setTap p f s).flt = s.flt := rfl
@[simp] theorem setTap_twn (p : Nat) (f : Tap → Tap) : (setTap p f s).twn = s.twn := rfl
@[simp] theorem setTap_tapSel (p : Nat) (f : Tap → Tap) : (setTap p f s).tapSel = s.tapSel := rfl
@[simp] theorem setTap_nv (p : Nat) (f : Tap → Tap) : (setTap p f s).nv = s.nv := rfl
@[simp] theorem setTap_sec (p : Nat) (f : Tap → Tap) : (setTap p f s).sec = s.sec := rfl
@[simp] theorem setTap_mgmt (p : Nat) (f : Tap → Tap) : (setTap p f s).mgmt = s.mgmt := rfl
@[simp] theorem setTap_pwr (p : Nat) (f : Tap → Tap) : (setTap p f s).pwr = s.pwr := rfl
@[simp] theorem setTap_gctr (p : Nat) (f : Tap → Tap) : (setTap p f s).gctr = s.gctr := rfl
@[simp] theorem setTap_pctr (p : Nat) (f : Tap → Tap) : (setTap p f s).pctr = s.pctr := rfl
@[simp] theorem setTap_wire (p : Nat) (f : Tap → Tap) : (setTap p f s).wire = s.wire := rfl
@[simp] theorem setTap_out (p : Nat) (f : Tap → Tap) : (setTap p f s).out = s.out := rfl

@[simp] theorem setFlit_pending (p k : Nat) (f : Flit → Flit) : (setFlit p k f s).pending = s.pending := rfl
@[simp] theorem setFlit_now (p k : Nat) (f : Flit → Flit) : (setFlit p k f s).now = s.now := rfl
@[simp] theorem setFlit_nextId (p k : Nat) (f : Flit → Flit) : (setFlit p k f s).nextId = s.nextId := rfl
@[simp] theorem setFlit_freeIx (p k : Nat) (f : Flit → Flit) : (setFlit p k f s).freeIx = s.freeIx := rfl
@[simp] theorem setFlit_img (p k : Nat) (f : Flit → Flit) : (setFlit p k f s).img = s.img := rfl
@[simp] theorem setFlit_pstate (p k : Nat) (f : Flit → Flit) : (setFlit p k f s).pstate = s.pstate := rfl
@[simp] theorem setFlit_ports (p k : Nat) (f : Flit → Flit) : (setFlit p k f s).ports = s.ports := rfl
@[simp] theorem setFlit_mem (p k : Nat) (f : Flit → Flit) : (setFlit p k f s).mem = s.mem := rfl
@[simp] theorem setFlit_hbm (p k : Nat) (f : Flit → Flit) : (setFlit p k f s).hbm = s.hbm := rfl
@[simp] theorem setFlit_ftl (p k : Nat) (f : Flit → Flit) : (setFlit p k f s).ftl = s.ftl := rfl
@[simp] theorem setFlit_vat (p k : Nat) (f : Flit → Flit) : (setFlit p k f s).vat = s.vat := rfl
@[simp] theorem setFlit_tmc (p k : Nat) (f : Flit → Flit) : (setFlit p k f s).tmc = s.tmc := rfl
@[simp] theorem setFlit_ftm (p k : Nat) (f : Flit → Flit) : (setFlit p k f s).ftm = s.ftm := rfl
@[simp] theorem setFlit_eth (p k : Nat) (f : Flit → Flit) : (setFlit p k f s).eth = s.eth := rfl
@[simp] theorem setFlit_flt (p k : Nat) (f : Flit → Flit) : (setFlit p k f s).flt = s.flt := rfl
@[simp] theorem setFlit_twn (p k : Nat) (f : Flit → Flit) : (setFlit p k f s).twn = s.twn := rfl
@[simp] theorem setFlit_taps (p k : Nat) (f : Flit → Flit) : (setFlit p k f s).taps = s.taps := rfl
@[simp] theorem setFlit_tapSel (p k : Nat) (f : Flit → Flit) : (setFlit p k f s).tapSel = s.tapSel := rfl
@[simp] theorem setFlit_nv (p k : Nat) (f : Flit → Flit) : (setFlit p k f s).nv = s.nv := rfl
@[simp] theorem setFlit_sec (p k : Nat) (f : Flit → Flit) : (setFlit p k f s).sec = s.sec := rfl
@[simp] theorem setFlit_mgmt (p k : Nat) (f : Flit → Flit) : (setFlit p k f s).mgmt = s.mgmt := rfl
@[simp] theorem setFlit_pwr (p k : Nat) (f : Flit → Flit) : (setFlit p k f s).pwr = s.pwr := rfl
@[simp] theorem setFlit_gctr (p k : Nat) (f : Flit → Flit) : (setFlit p k f s).gctr = s.gctr := rfl
@[simp] theorem setFlit_pctr (p k : Nat) (f : Flit → Flit) : (setFlit p k f s).pctr = s.pctr := rfl
@[simp] theorem setFlit_wire (p k : Nat) (f : Flit → Flit) : (setFlit p k f s).wire = s.wire := rfl
@[simp] theorem setFlit_out (p k : Nat) (f : Flit → Flit) : (setFlit p k f s).out = s.out := rfl

@[simp] theorem setLine_pending (p k : Nat) (f : SlotLine → SlotLine) : (setLine p k f s).pending = s.pending := rfl
@[simp] theorem setLine_now (p k : Nat) (f : SlotLine → SlotLine) : (setLine p k f s).now = s.now := rfl
@[simp] theorem setLine_nextId (p k : Nat) (f : SlotLine → SlotLine) : (setLine p k f s).nextId = s.nextId := rfl
@[simp] theorem setLine_freeIx (p k : Nat) (f : SlotLine → SlotLine) : (setLine p k f s).freeIx = s.freeIx := rfl
@[simp] theorem setLine_img (p k : Nat) (f : SlotLine → SlotLine) : (setLine p k f s).img = s.img := rfl
@[simp] theorem setLine_pstate (p k : Nat) (f : SlotLine → SlotLine) : (setLine p k f s).pstate = s.pstate := rfl
@[simp] theorem setLine_ports (p k : Nat) (f : SlotLine → SlotLine) : (setLine p k f s).ports = s.ports := rfl
@[simp] theorem setLine_mem (p k : Nat) (f : SlotLine → SlotLine) : (setLine p k f s).mem = s.mem := rfl
@[simp] theorem setLine_hbm (p k : Nat) (f : SlotLine → SlotLine) : (setLine p k f s).hbm = s.hbm := rfl
@[simp] theorem setLine_ftl (p k : Nat) (f : SlotLine → SlotLine) : (setLine p k f s).ftl = s.ftl := rfl
@[simp] theorem setLine_vat (p k : Nat) (f : SlotLine → SlotLine) : (setLine p k f s).vat = s.vat := rfl
@[simp] theorem setLine_tmc (p k : Nat) (f : SlotLine → SlotLine) : (setLine p k f s).tmc = s.tmc := rfl
@[simp] theorem setLine_ftm (p k : Nat) (f : SlotLine → SlotLine) : (setLine p k f s).ftm = s.ftm := rfl
@[simp] theorem setLine_eth (p k : Nat) (f : SlotLine → SlotLine) : (setLine p k f s).eth = s.eth := rfl
@[simp] theorem setLine_flt (p k : Nat) (f : SlotLine → SlotLine) : (setLine p k f s).flt = s.flt := rfl
@[simp] theorem setLine_twn (p k : Nat) (f : SlotLine → SlotLine) : (setLine p k f s).twn = s.twn := rfl
@[simp] theorem setLine_taps (p k : Nat) (f : SlotLine → SlotLine) : (setLine p k f s).taps = s.taps := rfl
@[simp] theorem setLine_tapSel (p k : Nat) (f : SlotLine → SlotLine) : (setLine p k f s).tapSel = s.tapSel := rfl
@[simp] theorem setLine_nv (p k : Nat) (f : SlotLine → SlotLine) : (setLine p k f s).nv = s.nv := rfl
@[simp] theorem setLine_sec (p k : Nat) (f : SlotLine → SlotLine) : (setLine p k f s).sec = s.sec := rfl
@[simp] theorem setLine_mgmt (p k : Nat) (f : SlotLine → SlotLine) : (setLine p k f s).mgmt = s.mgmt := rfl
@[simp] theorem setLine_pwr (p k : Nat) (f : SlotLine → SlotLine) : (setLine p k f s).pwr = s.pwr := rfl
@[simp] theorem setLine_gctr (p k : Nat) (f : SlotLine → SlotLine) : (setLine p k f s).gctr = s.gctr := rfl
@[simp] theorem setLine_pctr (p k : Nat) (f : SlotLine → SlotLine) : (setLine p k f s).pctr = s.pctr := rfl
@[simp] theorem setLine_wire (p k : Nat) (f : SlotLine → SlotLine) : (setLine p k f s).wire = s.wire := rfl
@[simp] theorem setLine_out (p k : Nat) (f : SlotLine → SlotLine) : (setLine p k f s).out = s.out := rfl

@[simp] theorem setSess_pending (n : Nat) (f : Sess → Sess) : (setSess n f s).pending = s.pending := rfl
@[simp] theorem setSess_now (n : Nat) (f : Sess → Sess) : (setSess n f s).now = s.now := rfl
@[simp] theorem setSess_nextId (n : Nat) (f : Sess → Sess) : (setSess n f s).nextId = s.nextId := rfl
@[simp] theorem setSess_freeIx (n : Nat) (f : Sess → Sess) : (setSess n f s).freeIx = s.freeIx := rfl
@[simp] theorem setSess_img (n : Nat) (f : Sess → Sess) : (setSess n f s).img = s.img := rfl
@[simp] theorem setSess_pstate (n : Nat) (f : Sess → Sess) : (setSess n f s).pstate = s.pstate := rfl
@[simp] theorem setSess_ports (n : Nat) (f : Sess → Sess) : (setSess n f s).ports = s.ports := rfl
@[simp] theorem setSess_mem (n : Nat) (f : Sess → Sess) : (setSess n f s).mem = s.mem := rfl
@[simp] theorem setSess_hbm (n : Nat) (f : Sess → Sess) : (setSess n f s).hbm = s.hbm := rfl
@[simp] theorem setSess_ftl (n : Nat) (f : Sess → Sess) : (setSess n f s).ftl = s.ftl := rfl
@[simp] theorem setSess_vat (n : Nat) (f : Sess → Sess) : (setSess n f s).vat = s.vat := rfl
@[simp] theorem setSess_tmc (n : Nat) (f : Sess → Sess) : (setSess n f s).tmc = s.tmc := rfl
@[simp] theorem setSess_ftm (n : Nat) (f : Sess → Sess) : (setSess n f s).ftm = s.ftm := rfl
@[simp] theorem setSess_eng (n : Nat) (f : Sess → Sess) : (setSess n f s).eng = s.eng := rfl
@[simp] theorem setSess_eth (n : Nat) (f : Sess → Sess) : (setSess n f s).eth = s.eth := rfl
@[simp] theorem setSess_flt (n : Nat) (f : Sess → Sess) : (setSess n f s).flt = s.flt := rfl
@[simp] theorem setSess_twn (n : Nat) (f : Sess → Sess) : (setSess n f s).twn = s.twn := rfl
@[simp] theorem setSess_taps (n : Nat) (f : Sess → Sess) : (setSess n f s).taps = s.taps := rfl
@[simp] theorem setSess_tapSel (n : Nat) (f : Sess → Sess) : (setSess n f s).tapSel = s.tapSel := rfl
@[simp] theorem setSess_nv (n : Nat) (f : Sess → Sess) : (setSess n f s).nv = s.nv := rfl
@[simp] theorem setSess_sec (n : Nat) (f : Sess → Sess) : (setSess n f s).sec = s.sec := rfl
@[simp] theorem setSess_pwr (n : Nat) (f : Sess → Sess) : (setSess n f s).pwr = s.pwr := rfl
@[simp] theorem setSess_gctr (n : Nat) (f : Sess → Sess) : (setSess n f s).gctr = s.gctr := rfl
@[simp] theorem setSess_pctr (n : Nat) (f : Sess → Sess) : (setSess n f s).pctr = s.pctr := rfl
@[simp] theorem setSess_wire (n : Nat) (f : Sess → Sess) : (setSess n f s).wire = s.wire := rfl
@[simp] theorem setSess_out (n : Nat) (f : Sess → Sess) : (setSess n f s).out = s.out := rfl

@[simp] theorem bgStart_pending (c a k n : Nat) : (bgStart c a k n s).pending = s.pending := rfl
@[simp] theorem bgStart_now (c a k n : Nat) : (bgStart c a k n s).now = s.now := rfl
@[simp] theorem bgStart_nextId (c a k n : Nat) : (bgStart c a k n s).nextId = s.nextId := rfl
@[simp] theorem bgStart_freeIx (c a k n : Nat) : (bgStart c a k n s).freeIx = s.freeIx := rfl
@[simp] theorem bgStart_img (c a k n : Nat) : (bgStart c a k n s).img = s.img := rfl
@[simp] theorem bgStart_pstate (c a k n : Nat) : (bgStart c a k n s).pstate = s.pstate := rfl
@[simp] theorem bgStart_ports (c a k n : Nat) : (bgStart c a k n s).ports = s.ports := rfl
@[simp] theorem bgStart_mem (c a k n : Nat) : (bgStart c a k n s).mem = s.mem := rfl
@[simp] theorem bgStart_hbm (c a k n : Nat) : (bgStart c a k n s).hbm = s.hbm := rfl
@[simp] theorem bgStart_ftl (c a k n : Nat) : (bgStart c a k n s).ftl = s.ftl := rfl
@[simp] theorem bgStart_vat (c a k n : Nat) : (bgStart c a k n s).vat = s.vat := rfl
@[simp] theorem bgStart_tmc (c a k n : Nat) : (bgStart c a k n s).tmc = s.tmc := rfl
@[simp] theorem bgStart_ftm (c a k n : Nat) : (bgStart c a k n s).ftm = s.ftm := rfl
@[simp] theorem bgStart_eng (c a k n : Nat) : (bgStart c a k n s).eng = s.eng := rfl
@[simp] theorem bgStart_eth (c a k n : Nat) : (bgStart c a k n s).eth = s.eth := rfl
@[simp] theorem bgStart_flt (c a k n : Nat) : (bgStart c a k n s).flt = s.flt := rfl
@[simp] theorem bgStart_twn (c a k n : Nat) : (bgStart c a k n s).twn = s.twn := rfl
@[simp] theorem bgStart_taps (c a k n : Nat) : (bgStart c a k n s).taps = s.taps := rfl
@[simp] theorem bgStart_tapSel (c a k n : Nat) : (bgStart c a k n s).tapSel = s.tapSel := rfl
@[simp] theorem bgStart_nv (c a k n : Nat) : (bgStart c a k n s).nv = s.nv := rfl
@[simp] theorem bgStart_sec (c a k n : Nat) : (bgStart c a k n s).sec = s.sec := rfl
@[simp] theorem bgStart_pwr (c a k n : Nat) : (bgStart c a k n s).pwr = s.pwr := rfl
@[simp] theorem bgStart_gctr (c a k n : Nat) : (bgStart c a k n s).gctr = s.gctr := rfl
@[simp] theorem bgStart_pctr (c a k n : Nat) : (bgStart c a k n s).pctr = s.pctr := rfl
@[simp] theorem bgStart_wire (c a k n : Nat) : (bgStart c a k n s).wire = s.wire := rfl
@[simp] theorem bgStart_out (c a k n : Nat) : (bgStart c a k n s).out = s.out := rfl

@[simp] theorem track_pending  : (track s).pending = s.pending := rfl
@[simp] theorem track_now  : (track s).now = s.now := rfl
@[simp] theorem track_nextId  : (track s).nextId = s.nextId := rfl
@[simp] theorem track_freeIx  : (track s).freeIx = s.freeIx := rfl
@[simp] theorem track_img  : (track s).img = s.img := rfl
@[simp] theorem track_pstate  : (track s).pstate = s.pstate := rfl
@[simp] theorem track_ports  : (track s).ports = s.ports := rfl
@[simp] theorem track_hbm  : (track s).hbm = s.hbm := rfl
@[simp] theorem track_ftl  : (track s).ftl = s.ftl := rfl
@[simp] theorem track_vat  : (track s).vat = s.vat := rfl
@[simp] theorem track_tmc  : (track s).tmc = s.tmc := rfl
@[simp] theorem track_ftm  : (track s).ftm = s.ftm := rfl
@[simp] theorem track_eng  : (track s).eng = s.eng := rfl
@[simp] theorem track_eth  : (track s).eth = s.eth := rfl
@[simp] theorem track_flt  : (track s).flt = s.flt := rfl
@[simp] theorem track_twn  : (track s).twn = s.twn := rfl
@[simp] theorem track_taps  : (track s).taps = s.taps := rfl
@[simp] theorem track_tapSel  : (track s).tapSel = s.tapSel := rfl
@[simp] theorem track_nv  : (track s).nv = s.nv := rfl
@[simp] theorem track_sec  : (track s).sec = s.sec := rfl
@[simp] theorem track_mgmt  : (track s).mgmt = s.mgmt := rfl
@[simp] theorem track_pwr  : (track s).pwr = s.pwr := rfl
@[simp] theorem track_gctr  : (track s).gctr = s.gctr := rfl
@[simp] theorem track_pctr  : (track s).pctr = s.pctr := rfl
@[simp] theorem track_wire  : (track s).wire = s.wire := rfl
@[simp] theorem track_out  : (track s).out = s.out := rfl

@[simp] theorem afterCmd_pending : (afterCmd s t).pending = s.pending := rfl
@[simp] theorem afterCmd_now : (afterCmd s t).now = s.now := rfl
@[simp] theorem afterCmd_nextId : (afterCmd s t).nextId = t.nextId := rfl
@[simp] theorem afterCmd_freeIx : (afterCmd s t).freeIx = t.freeIx := rfl
@[simp] theorem afterCmd_img : (afterCmd s t).img = t.img := rfl
@[simp] theorem afterCmd_pstate : (afterCmd s t).pstate = t.pstate := rfl
@[simp] theorem afterCmd_ports : (afterCmd s t).ports = t.ports := rfl
@[simp] theorem afterCmd_mem : (afterCmd s t).mem = (track t).mem := rfl
@[simp] theorem afterCmd_hbm : (afterCmd s t).hbm = t.hbm := rfl
@[simp] theorem afterCmd_ftl : (afterCmd s t).ftl = t.ftl := rfl
@[simp] theorem afterCmd_vat : (afterCmd s t).vat = t.vat := rfl
@[simp] theorem afterCmd_tmc : (afterCmd s t).tmc = t.tmc := rfl
@[simp] theorem afterCmd_ftm : (afterCmd s t).ftm = t.ftm := rfl
@[simp] theorem afterCmd_eng : (afterCmd s t).eng = t.eng := rfl
@[simp] theorem afterCmd_eth : (afterCmd s t).eth = t.eth := rfl
@[simp] theorem afterCmd_flt : (afterCmd s t).flt = t.flt := rfl
@[simp] theorem afterCmd_twn : (afterCmd s t).twn = t.twn := rfl
@[simp] theorem afterCmd_taps : (afterCmd s t).taps = t.taps := rfl
@[simp] theorem afterCmd_tapSel : (afterCmd s t).tapSel = t.tapSel := rfl
@[simp] theorem afterCmd_nv : (afterCmd s t).nv = t.nv := rfl
@[simp] theorem afterCmd_sec : (afterCmd s t).sec = t.sec := rfl
@[simp] theorem afterCmd_mgmt : (afterCmd s t).mgmt = t.mgmt := rfl
@[simp] theorem afterCmd_pwr : (afterCmd s t).pwr = t.pwr := rfl
@[simp] theorem afterCmd_gctr : (afterCmd s t).gctr = t.gctr := rfl
@[simp] theorem afterCmd_pctr : (afterCmd s t).pctr = t.pctr := rfl
@[simp] theorem afterCmd_wire : (afterCmd s t).wire = t.wire := rfl
@[simp] theorem afterCmd_out : (afterCmd s t).out = t.out := rfl

end Sys2Proof.Machine
end

