-- ==== Sys2Proof/Laws/Run.lean ====
section
/-! SUPPORT. What running a command does, said once for each kind of command, and what tracking the device state leaves. -/

namespace Sys2Proof.Machine

/-- A command on a live package answers its effect. -/
theorem run_live (f : State → State) (s : State) (h : live s = true) : run f s = .next (afterCmd s (f s)) := by simp [run, h]

/-- A command on a package that is off or held in reset answers the same state, tracked. -/
theorem run_dead (f : State → State) (s : State) (h : live s = false) : run f s = .next (afterCmd s s) := by simp [run, h]

/-- A command that may finish requests, and one after which segments may move on. -/
theorem runE_live (f : State → State) (s : State) (h : live s = true) : runE f s = .next (afterCmd s (settleAll (f s))) := run_live _ s h
theorem runR_live (f : State → State) (s : State) (h : live s = true) : runR f s = .next (afterCmd s (settleSegs (f s))) := run_live _ s h

/-- A command of the time unit, on a live package and through a held warm reset (R180); on any other it answers the same state, tracked. -/
theorem runT_live (f : State → State) (s : State) (h : live s = true) : runT f s = .next (afterCmd s (settleAll (f s))) := by
  simp [runT, h, runE_live f s h]
theorem runT_held (f : State → State) (s : State) (h : live s = false) (t : timeUnitOn s = true) : runT f s = .next (afterCmd s (f s)) := by
  simp only [timeUnitOn, Bool.and_eq_true, Bool.not_eq_true'] at t
  simp [runT, h, t.1, t.2]
theorem runT_dead (f : State → State) (s : State) (h : live s = false) (t : timeUnitOn s = false) : runT f s = .next (afterCmd s s) := by
  simp only [timeUnitOn, Bool.and_eq_false_iff, Bool.not_eq_false'] at t
  rcases t with t | t <;> simp [runT, runE, h, t, run_dead]

/-- A register or an interface of Paste's own acts while Paste runs, and does nothing while it does not. -/
@[simp] theorem byPaste_up (f : State → State) (s : State) (h : s.mgmt.pasteUp = true) : byPaste f s = f s := by simp [byPaste, h]
@[simp] theorem byPaste_down (f : State → State) (s : State) (h : s.mgmt.pasteUp = false) : byPaste f s = s := by simp [byPaste, h]

/-- A count at a port changes the ports' counters only. -/
theorem bumpP_eq (p : Nat) (c : PCtr) (n : Nat) (s : State) : ∃ l, bumpP p c n s = { s with pctr := l } := by
  unfold bumpP; split
  · exact ⟨s.pctr, rfl⟩
  · exact ⟨_, rfl⟩

/-- What RS FEC saw changes the port's two counters and takes two free values, and nothing else. -/
theorem fecSeen_eq (p : Nat) (s : State) : ∃ l, fecSeen p s = { s with pctr := l, freeIx := s.freeIx + 2 } := by
  obtain ⟨a, ha⟩ := bumpP_eq p .fecCorr (Config.freeNat s.freeIx) { s with freeIx := s.freeIx + 2 }
  obtain ⟨b, hb⟩ := bumpP_eq p .fecUnc (Config.freeNat (s.freeIx + 1)) { s with pctr := a, freeIx := s.freeIx + 2 }
  exact ⟨b, by show bumpP p .fecUnc _ (bumpP p .fecCorr _ _) = _; simp only [takeFree]; rw [ha, hb]⟩

/-- A message to the twin is queued on the twin link, or waits for CTL cells there, and is not sent while the link is not UP. -/
theorem sendTwin_down (m : TwinMsg) (s : State) (h : ∀ p, twinPort s = some p → portUp s p = false) : sendTwin m s = s := by
  unfold sendTwin; split
  · rename_i p e; simp [h p e]
  · rfl
theorem sendTwin_up (m : TwinMsg) (s : State) (p : Nat) (e : twinPort s = some p) (h : portUp s p = true) :
    sendTwin m s = enqueueCtl p (.twin m) 256 { s with twn := { s.twn with sentAt := s.now } } := by simp [sendTwin, e, h]

/-- Tracking does not change what it tracks. -/
@[simp] theorem levelNow_track (s : State) : levelNow (track s) = levelNow s := rfl
@[simp] theorem vatUsed_track (s : State) : vatUsed (track s) = vatUsed s := rfl
@[simp] theorem vatCells_track (s : State) : vatCells (track s) = vatCells s := rfl
@[simp] theorem wheyUsed_track (s : State) : wheyUsed (track s) = wheyUsed s := rfl
@[simp] theorem wheyCarve_track (s : State) : wheyCarve (track s) = wheyCarve s := rfl
@[simp] theorem throttled_track (s : State) : throttled (track s) = throttled s := rfl

/-- A Prosis command on a session that may send it. -/
theorem prosis_open (sess code : Nat) (f : State → State) (s : State) (x : Sess) (h : sessAt s sess = some x) (p : s.mgmt.pasteUp = true)
    (g : gate s x code = none) : prosis sess code f s = f s := by simp [prosis, h, p, g]

/-- A Prosis command that draws a status before it executes. -/
theorem prosis_drawn (sess code : Nat) (f : State → State) (s : State) (x : Sess) (st : PStatus) (h : sessAt s sess = some x)
    (p : s.mgmt.pasteUp = true) (g : gate s x code = some st) : prosis sess code f s = reply sess code st [] s := by simp [prosis, h, p, g]

end Sys2Proof.Machine
end

