-- ==== Sys2Proof/Laws/Stack.lean ====
section
/-! SUPPORT. Bytes sealed for the stacks open again under the same key and address (R456), and the byte order that rests on. -/

namespace Sys2Proof.Machine

@[simp] theorem natLe_length (w n : Nat) : (natLe w n).length = w := by
  induction w generalizing n with
  | zero => rfl
  | succ w ih => simp [natLe, ih]

theorem leNat_natLe (w n : Nat) : leNat (natLe w n) = n % 256 ^ w := by
  induction w generalizing n with
  | zero => simp [natLe, leNat, Nat.mod_one]
  | succ w ih => rw [natLe, leNat, ih, Nat.pow_succ', Nat.mod_mul, BitVec.toNat_ofNat]

theorem natLe_leNat (b : Bytes) : natLe b.length (leNat b) = b := by
  induction b with
  | nil => rfl
  | cons x b ih =>
    have h : (x.toNat + 256 * leNat b) / 256 = leNat b := by have := x.isLt; omega
    simp only [List.length_cons, natLe, leNat, h, ih]
    congr 1
    apply BitVec.eq_of_toNat_eq
    have := x.isLt
    simp only [BitVec.toNat_ofNat]
    omega

theorem leNat_lt (b : Bytes) : leNat b < 256 ^ b.length := by
  induction b with
  | nil => simp [leNat]
  | cons x b ih => have := x.isLt; simp only [leNat, List.length_cons, Nat.pow_succ']; omega

/-- A line of 64 bytes comes back from its ciphertext under the same key and tweak. -/
theorem xtsDec_xtsEnc (k t : Nat) (b : Bytes) (h : b.length = 64) : xtsDec k t (xtsEnc k t b) = b := by
  have e : lineBits (xtsEnc k t b) = Config.xts k t (lineBits b) := by
    apply BitVec.eq_of_toNat_eq
    have := (Config.xts k t (lineBits b)).isLt
    rw [lineBits, xtsEnc, leNat_natLe, BitVec.toNat_ofNat, Nat.mod_eq_of_lt (show _ < 256 ^ 64 by omega), Nat.mod_eq_of_lt this]
  have n : (lineBits b).toNat = leNat b := by
    have := leNat_lt b
    rw [lineBits, BitVec.toNat_ofNat, Nat.mod_eq_of_lt (by rw [h] at this; omega)]
  rw [xtsDec, e, Equiv.symm_apply_apply, n, ← h, natLe_leNat]

theorem slice_line (b : Bytes) (n : Nat) (h : b.length = 64 * (n + 1)) : slice b 0 64 = b.take 64 ∧ (b.take 64).length = 64 := by
  have h64 : (b.take 64).length = 64 := by rw [List.length_take]; omega
  refine ⟨?_, h64⟩
  simp [slice, h64]

/-- What is sealed opens to the same bytes: every line's code agrees and every line comes back. -/
theorem stackOpen_lines (key : Nat) (n addr : Nat) (b : Bytes) (h : b.length = 64 * n) :
    stackOpen key ((stackLines key n addr b).map (·.2)) addr ((stackLines key n addr b).flatMap (·.1)) = some b := by
  induction n generalizing addr b with
  | zero => simp [stackLines, stackOpen, List.length_eq_zero_iff.mp (by omega : b.length = 0)]
  | succ n ih =>
    obtain ⟨hs, hl⟩ := slice_line b n h
    have hd : (b.drop 64).length = 64 * n := by rw [List.length_drop]; omega
    have hx : (xtsEnc key addr (b.take 64)).length = 64 := by simp [xtsEnc]
    simp only [stackLines, hs, List.map_cons, List.flatMap_cons, stackOpen, List.take_left' hx, List.drop_left' hx, if_true,
      ih _ _ hd, Option.map_some, xtsDec_xtsEnc _ _ _ hl, List.take_append_drop]

/-- A sector of 4,096 bytes sealed under a key at an address opens to itself under them. -/
theorem stackOpen_stackSeal (key addr : Nat) (b : Bytes) (h : b.length = 4096) :
    stackOpen key (stackSeal key addr b).macs addr (stackSeal key addr b).ct = some b := stackOpen_lines key 64 addr b (by omega)

/-- What is written to a region of the stacks reads as it was written, from the same region and address, while the region keeps its key (Table 15.4). -/
theorem stackRead_stackWrite (s t : State) (r : StackRegion) (addr : Nat) (b : Bytes) (h : b.length = 4096) (k : regionKey t r = regionKey s r) :
    stackRead t r addr (stackWrite s r addr b) = some b := by rw [stackRead, stackWrite, k]; exact stackOpen_stackSeal _ _ _ h

end Sys2Proof.Machine
end

