-- ==== Sys2Proof/Machine/Package.lean ====
section
/-! DEFINITION. The balls of the package (chapter 18): the sites that hold one (R515), their fields (R516), the balls of each lane (R517), the signals of
the north-west corner (Table 18.3) and the reference clock of each octet (R518). The board wires them; no command acts on them. -/

namespace Sys2Proof.Machine

/-- One of the four corner blocks of R515, which hold no ball. -/
def cornerBlock (row col : Nat) : Bool := (decide (row ≤ 8) || decide (97 ≤ row)) && (decide (col ≤ 10) || decide (95 ≤ col))

/-- A site of the grid of 104 rows and 104 columns that holds a ball (R515). -/
def holdsBall (row col : Nat) : Bool :=
  decide (1 ≤ row ∧ row ≤ 104 ∧ 1 ≤ col ∧ col ≤ 104) && !cornerBlock row col

/-- The fields of Table 18.1. -/
inductive BallField where
  | lanes (die : Nat) | centre | northWest | otherCorner
  deriving DecidableEq, Repr

/-- Third of an edge that a row or a column lies in: 001 to 020, 021 to 084, 085 to 104. -/
def edgeThird (n : Nat) : Nat := if n ≤ 20 then 0 else if n ≤ 84 then 1 else 2

/-- The field of a site (R516, Table 18.1); none where there is no ball. -/
def fieldOf (row col : Nat) : Option BallField :=
  if !holdsBall row col then none
  else match edgeThird row, edgeThird col with
    | 0, 1 => some (.lanes 0)
    | 1, 2 => some (.lanes 1)
    | 2, 1 => some (.lanes 2)
    | 1, 0 => some (.lanes 3)
    | 1, 1 => some .centre
    | 0, 0 => some .northWest
    | _, _ => some .otherCorner

/-- Row and column of a depth and a position in the field of a lane die (Table 18.2a). -/
def siteAt (die depth p : Nat) : Nat × Nat :=
  match die with
  | 0 => (depth, 21 + p)
  | 1 => (21 + p, 105 - depth)
  | 2 => (105 - depth, 21 + p)
  | _ => (21 + p, depth)

/-- The four balls of a package lane (R517). -/
structure LaneBalls where
  txp : Nat × Nat
  txn : Nat × Nat
  rxp : Nat × Nat
  rxn : Nat × Nat
  deriving DecidableEq, Repr

/-- R517: lane n is lane n mod 128 of lane die n div 128. -/
def laneBalls (n : Nat) : LaneBalls :=
  let d := n / 128
  let g := n % 128 / 32
  let j := n % 32
  { txp := siteAt d (2 + 4 * g) (2 * j), txn := siteAt d (2 + 4 * g) (2 * j + 1)
    rxp := siteAt d (4 + 4 * g) (2 * j), rxn := siteAt d (4 + 4 * g) (2 * j + 1) }

/-- What the balls at a depth of a lane field are (R517). -/
inductive DepthUse where
  | gnd | tx (group : Nat) | rx (group : Nat) | vddaLdH | vddaLdL | vddLd
  deriving DecidableEq, Repr

/-- R517: odd depths to 17 are GND, 18 to 20 the lane die's rails, the even ones to 16 its lanes. -/
def depthUse (depth : Nat) : DepthUse :=
  if depth = 18 then .vddaLdH else if depth = 19 then .vddaLdL else if depth = 20 then .vddLd
  else if depth % 2 = 1 then .gnd
  else if depth % 4 = 2 then .tx (depth / 4) else .rx (depth / 4 - 1)

/-- The signals of Table 18.3, each with its number within its row of the table. -/
inductive PinSignal where
  | refclk156 (k : Nat) (neg : Bool) | refclk100 (k : Nat) (neg : Bool) | mgmt (port pin : Nat) | xtalIn | xtalOut | ppsIn | ppsOut | tref10m
  | i3cScl | i3cSda | uartTx | uartRx | spiSck | spiCsN | spiIo (k : Nat) | tck | tms | tdi | tdo | trstN | pwrgd | warmRstN | thermtripN | faultN
  | ownClaim | testEn | tdiode (neg : Bool) | avsClk | avsMdata | avsSdata | sense (rail : Nat) (neg : Bool) | dnc (k : Nat)
  deriving DecidableEq, Repr

/-- Rows 017 and 019 of Table 18.3, by column from 001. -/
def pinRow17 : List PinSignal :=
  [.i3cScl, .i3cSda, .uartTx, .uartRx, .spiSck, .spiCsN, .spiIo 0, .spiIo 1, .spiIo 2, .spiIo 3]

def pinRow19 : List PinSignal :=
  [.tck, .tms, .tdi, .tdo, .trstN, .pwrgd, .warmRstN, .thermtripN, .faultN, .ownClaim, .testEn, .tdiode false, .tdiode true, .avsClk, .avsMdata, .avsSdata]

/-- The signal at a site of the north-west corner (Table 18.3); none at its power and ground balls. -/
def signalAt (row col : Nat) : Option PinSignal :=
  let c := col - 1
  if col = 0 then none
  else match row with
    | 5 => if 11 ≤ col ∧ col ≤ 20 then some (.sense (col - 11) false) else none
    | 7 => if 11 ≤ col ∧ col ≤ 20 then some (.sense (col - 11) true) else none
    | 9 => if col ≤ 16 then some (.refclk156 (c / 2) (decide (c % 2 = 1))) else none
    | 11 => if col ≤ 8 then some (.refclk100 (c / 2) (decide (c % 2 = 1))) else none
    | 13 => if col ≤ 8 then some (.mgmt (c / 4) (c % 4)) else none
    | 15 => ([some .xtalIn, some .xtalOut, none, some .ppsIn, some .ppsOut, some .tref10m] : List (Option PinSignal)).getD c none
    | 17 => pinRow17[c]?
    | 19 => pinRow19[c]?
    | 20 => if col ≤ 13 then some (.dnc c) else none
    | _ => none

/-- The 156.25 MHz reference of an octet of a lane die (R518). -/
def refclk156Of (die octet : Nat) : Nat := 2 * die + (if octet < 8 then 0 else 1)

/-- The 100 MHz reference of the CXL octets of a lane die (R518). -/
def refclk100Of (die : Nat) : Nat := die

end Sys2Proof.Machine
end

