-- ==== Sys2Proof/WellFormed.lean ====
section
/-! DEFINITION. Which commands the wires can carry: every operand inside the width of the field or table index it stands for. -/

namespace Sys2Proof

/-- A port number (R2). -/
def okPort (n : Nat) : Bool := decide (n < 256)

/-- A partition number (R18). -/
def okPart (n : Nat) : Bool := decide (n < 128)

/-- A requester ID (Table 12.4). -/
def okRid (n : Nat) : Bool := decide (n < 4096)

/-- A tag (R54). -/
def okTag (n : Nat) : Bool := decide (n < 65536)

/-- A fabric or device address (R9). -/
def okAddr (n : Nat) : Bool := decide (n < 2 ^ 52)

/-- An operation slot of an aperture (Table 7.1). -/
def okSlot (n : Nat) : Bool := decide (n < 512)

/-- A stack channel (R77). -/
def okChan (n : Nat) : Bool := decide (n < 128)

/-- A Vat bank (R125). -/
def okBank (n : Nat) : Bool := decide (n < 64)

/-- A range index (Table 13.3). -/
def okRange (n : Nat) : Bool := decide (n < 16384)

/-- A window entry of the schedule (Table 13.3). -/
def okWin (n : Nat) : Bool := decide (n < 16384)

/-- A flow's sched_id (Table 13.3). -/
def okSched (n : Nat) : Bool := decide (n < 4096)

/-- A flit sequence number (Table 12.2). -/
def okSeq10 (n : Nat) : Bool := decide (n < 1024)

/-- A SerDes lane (R349). -/
def okLane (n : Nat) : Bool := decide (n < 512)

/-- A UCIe module, one an octet (R349, R355). -/
def okModule (n : Nat) : Bool := decide (n < 64)

/-- A reduction group template (Table 13.3). -/
def okGroup (n : Nat) : Bool := decide (n < 1024)

/-- A collection (Table 13.3). -/
def okColl (n : Nat) : Bool := decide (n < 256)

/-- A core of the control die (R472). -/
def okCore (n : Nat) : Bool := decide (n < 6)

/-- An owner key_id (R446, Table 13.1). -/
def okKeyId (n : Nat) : Bool := decide (n < 2 ^ 32)

/-- An 8-bit operand of a Prosis body (R498, Table 16.5). -/
def okByte (n : Nat) : Bool := decide (n < 256)

/-- A rail (Table 18.12). -/
def okRail (n : Nat) : Bool := decide (n < 10)

/-- A temperature sensor (Table 18.11). -/
def okSensor (n : Nat) : Bool := decide (n < 16)

/-- A 16-bit field. -/
def okHalf (n : Nat) : Bool := decide (n < 65536)

/-- A port width in lanes (Table 12.12). -/
def okWidth (n : Nat) : Bool := decide (1 ≤ n ∧ n ≤ 16)

/-- A whole line of 64 bytes. -/
def okLine (d : Bytes) : Bool := decide (d.length = 64)

/-- A flit of 256 bytes (R356). -/
def okFlit (d : Bytes) : Bool := decide (d.length = 256)

/-- A length that the 64-bit operand or the 13-bit field carries (Table 2.2). -/
def okLen (n : Nat) : Bool := decide (n < 2 ^ 64)

/-- An engine unit or atomic-unit lane kind (Table 14.3). -/
def okUnit (u : UnitId) : Bool := decide (u.kind < 5)

/-- The fields of a range entry (Table 1.3). -/
def okEntry (e : RangeEntry) : Bool :=
  decide (e.base < 2 ^ 31 ∧ e.size < 2 ^ 31 ∧ e.owner < 128 ∧ e.tier < 2 ∧ e.pinnedPlane < 8 ∧ e.granule < 14 ∧ e.iset < 256 ∧ e.offEven < 2 ^ 31 ∧ e.offOdd < 2 ^ 31)

/-- The fields of a request header (Table 12.4). -/
def okHdr (h : ReqHdr) : Bool :=
  okPort h.port && okRid h.rid && okPart h.part && decide (h.cls < 8) && okTag h.tag && okAddr h.addr

/-- The fields of a stream unit (Table 12.5). -/
def okStream (h : StreamHdr) : Bool :=
  okPort h.port && okRid h.rid && okPart h.part && decide (h.cls < 8) && okSched h.schedId && decide (h.dest < 4096)
    && decide (h.dkind < 4) && decide (h.seq < 2 ^ 24) && decide (h.payload.length ≤ 16368)

/-- The payload of a memory request (Table 2.2). -/
def okKind : ReqKind → Bool
  | .storeLine d | .storeMasked d _ | .storeGuarded d => okLine d
  | .loadStream n | .flushRange n => okLen n
  | .publish rb rl _ _ => okAddr rb && okAddr rl
  | _ => true

/-- A command whose operands fit their fields. -/
def Instr.wellFormed : Instr → Bool
  | .loadLine h => okHdr h
  | .loadStream h len => okHdr h && okLen len
  | .storeLine h dat => okHdr h && okLine dat
  | .storeMasked h dat _ => okHdr h && okLine dat
  | .storeGuarded h dat => okHdr h && okLine dat
  | .atAdd h _ => okHdr h
  | .atAnd h _ => okHdr h
  | .atOr h _ => okHdr h
  | .atXor h _ => okHdr h
  | .atSwap h _ => okHdr h
  | .atMin h _ => okHdr h
  | .atMax h _ => okHdr h
  | .atUmin h _ => okHdr h
  | .atUmax h _ => okHdr h
  | .cas64 h _ _ => okHdr h
  | .cas128 h _ _ => okHdr h
  | .flushRange h len => okHdr h && okLen len
  | .fence h => okHdr h
  | .publish h rbase rlen _ _ => okHdr h && okAddr rbase && okAddr rlen
  | .opFlit h _ => okHdr h
  | .twinForwardedRequest _ h k v =>
    okHdr h && okKind k && decide (v.range < 16384) && okEntry v.e && v.region.all fun x => decide (x.1 < 16384) && okEntry x.2
  | .forwardedResponse _ _ => true
  | .trayResponse _ _ _ => true
  | .dispatchDeadline _ => true
  | .executionDeadline _ => true
  | .trayAnswerTimeout _ => true
  | .lineLockAcquired _ => true
  | .mirrorEntry _ => true
  | .mirrorAck _ => true
  | .mirrorDone rid tag => okRid rid && okTag tag
  | .mirrorDoneAck _ => true
  | .idemEntryExpire rid tag => okRid rid && okTag tag
  | .shadowEntryFree rid tag => okRid rid && okTag tag
  | .mirrorCatchupDone => true
  | .fenceComplete _ => true
  | .fenceTimeout _ => true
  | .drainMarkerReturn _ => true
  | .loadWindowEnd => true
  | .cxlMemrd port dpa => okPort port && okAddr dpa
  | .cxlMemwr port dpa dat => okPort port && okAddr dpa && okLine dat
  | .cxlMemwrptl port dpa dat _ => okPort port && okAddr dpa && okLine dat
  | .cxlMemwrPoison port dpa dat => okPort port && okAddr dpa && okLine dat
  | .cxlWerrCompletion _ => true
  | .auCtlWrite _ => true
  | .accessDrainDone => true
  | .firnFillComplete _ => true
  | .stackChannelOut chan => okChan chan
  | .firnSweepDone range => okRange range
  | .flashRebuild _ => true
  | .relocationRequest port _ => okPort port
  | .relocationStart port _ => okPort port
  | .relocationFlip port _ => okPort port
  | .relocationErase port _ => okPort port
  | .relocationProgFail port _ => okPort port
  | .disturbLimit port _ => okPort port
  | .ftlTwinSync => true
  | .datasetFlip range => okRange range
  | .datasetOldErase range => okRange range
  | .ftlEventRead => true
  | .ethFrame port _ _ => okPort port
  | .msg port rid part _ _ => okPort port && okRid rid && okPart part
  | .data h => okStream h
  | .reduce h => okStream h
  | .msgAgeDiscard port _ => okPort port
  | .bankFail bank => okBank bank
  | .stagingAdmit port _ => okPort port
  | .rspReservation _ => true
  | .egressSelect port _ => okPort port
  | .portDown port _ => okPort port
  | .limitHoldRelease _ => true
  | .tmcIndRead => true
  | .tmcIndWrite => true
  | .ppsEdge => true
  | .ptpSync mgmtPort domain x =>
    okPort mgmtPort && okByte domain && decide (x.t1 < 2 ^ 64 ∧ x.t2 < 2 ^ 64) && x.delay.all fun d => decide (d.1 < 2 ^ 64 ∧ d.2 < 2 ^ 64)
  | .tosServoUpdate => true
  | .sourceQualify => true
  | .sourceDisqualify => true
  | .holdoverExpire => true
  | .schedActivate => true
  | .ppsOutRise => true
  | .ppsOutFall => true
  | .tosSend port => okPort port
  | .ftmCtlWrite _ => true
  | .schedArm _ => true
  | .schedBankSwap => true
  | .schedWindowOpen win => okWin win
  | .streamUnitRead schedId => okSched schedId
  | .grantIssue port _ _ => okPort port
  | .grantLapse _ => true
  | .scrAlloc part slot => okPart part && okSlot slot
  | .scrFree part slot => okPart part && okSlot slot
  | .scrFill part slot => okPart part && okSlot slot
  | .proxyAtAdd part slot => okPart part && okSlot slot
  | .proxyAtAnd part slot => okPart part && okSlot slot
  | .proxyAtOr part slot => okPart part && okSlot slot
  | .proxyAtXor part slot => okPart part && okSlot slot
  | .proxyAtSwap part slot => okPart part && okSlot slot
  | .proxyAtMin part slot => okPart part && okSlot slot
  | .proxyAtMax part slot => okPart part && okSlot slot
  | .proxyAtUmin part slot => okPart part && okSlot slot
  | .proxyAtUmax part slot => okPart part && okSlot slot
  | .proxyCas64 part slot => okPart part && okSlot slot
  | .proxyCas128 part slot => okPart part && okSlot slot
  | .proxyStoreGuarded part slot => okPart part && okSlot slot
  | .proxyFlushRange part slot => okPart part && okSlot slot
  | .proxyFence part slot => okPart part && okSlot slot
  | .proxyPublish part slot => okPart part && okSlot slot
  | .flitStart part slot => okPart part && okSlot slot
  | .flitTimeLimit part slot => okPart part && okSlot slot
  | .engineAccessReturn _ _ _ => true
  | .engCellReserve part slot => okPart part && okSlot slot
  | .engineCompletion part slot => okPart part && okSlot slot
  | .scratchZeroed => true
  | .groupArm part slot => okPart part && okSlot slot
  | .groupDisarm part slot => okPart part && okSlot slot
  | .groupRelease group => okGroup group
  | .reduceMem part slot => okPart part && okSlot slot
  | .chunkTimeout group _ => okGroup group
  | .gather part slot => okPart part && okSlot slot
  | .scatter part slot => okPart part && okSlot slot
  | .scatterAdd part slot => okPart part && okSlot slot
  | .scatterAddPiece part slot => okPart part && okSlot slot
  | .collDefine part slot => okPart part && okSlot slot
  | .collDrop part slot => okPart part && okSlot slot
  | .collDropDone coll => okColl coll
  | .append part slot => okPart part && okSlot slot
  | .scan part slot => okPart part && okSlot slot
  | .compact part slot => okPart part && okSlot slot
  | .compactFlip coll => okColl coll
  | .compactRecord coll => okColl coll
  | .collRebase part slot => okPart part && okSlot slot
  | .collAck part slot => okPart part && okSlot slot
  | .seqOpen part slot => okPart part && okSlot slot
  | .seqClose part slot => okPart part && okSlot slot
  | .seqCloseComplete part slot => okPart part && okSlot slot
  | .pageMap part slot => okPart part && okSlot slot
  | .kvAppend part slot => okPart part && okSlot slot
  | .attend part slot => okPart part && okSlot slot
  | .flitReceive port _ flit => okPort port && okFlit flit
  | .ack port fseq => okPort port && okSeq10 fseq
  | .nak port fseq => okPort port && okSeq10 fseq
  | .ackTimer port => okPort port
  | .resendTimeout port => okPort port
  | .credit port _ _ => okPort port
  | .tos port _ _ _ _ _ _ _ _ _ => okPort port
  | .grant port _ _ _ => okPort port
  | .cap port _ _ width _ _ _ _ _ => okPort port && okWidth width
  | .down port _ => okPort port
  | .narrow port mask fseq => okPort port && okHalf mask && okSeq10 fseq
  | .linkSilence port => okPort port
  | .laneDegrade port lane => okPort port && okLane lane
  | .cxlLinkDown port => okPort port
  | .ethLinkLoss port => okPort port
  | .ucieModuleFail module => okModule module
  | .trainingStepComplete port _ _ => okPort port
  | .trainingStepTimeout port => okPort port
  | .portRetrain port => okPort port
  | .portDisable port _ => okPort port
  | .flashResponse _ _ _ => true
  | .flashCmdTimeout _ => true
  | .l2Age _ _ => true
  | .gatewayFrame port _ => okPort port
  | .gwPieceResend _ _ _ => true
  | .twinHeartbeat _ => true
  | .twinHeartbeatSend => true
  | .failing => true
  | .twinCalve part => okPart part
  | .adoptionComplete => true
  | .resyncState _ => true
  | .resyncTransferDone _ => true
  | .resyncHandover => true
  | .imagePut _ _ _ _ _ => true
  | .segmentTwinResult _ _ _ => true
  | .segmentPhase2 => true
  | .sramUncorrectable _ => true
  | .residueMismatch u part slot => okUnit u && okPart part && okSlot slot
  | .canary u _ => okUnit u
  | .canarySetRun _ => true
  | .issueRateCanary u _ => okUnit u
  | .faultEventRead => true
  | .calve _ parts => parts.all okPart
  | .calveRequest parts => parts.all okPart
  | .markerTimeout _ => true
  | .tapSet _ part _ => okByte part
  | .tapControlPage part => okPart part
  | .badkeyAlert part => okPart part
  | .tableDigestRecompute => true
  | .keyRotate _ range => okRange range
  | .keyReport _ part => okByte part
  | .nonce _ => true
  | .sealSecretSet _ _ _ => true
  | .sealExport _ => true
  | .sealImport _ _ _ => true
  | .ownerKeyAdd _ keyId _ _ => okKeyId keyId
  | .ownerKeyRevoke _ keyId _ => okKeyId keyId
  | .mgmtCaSet _ _ _ => true
  | .crlSet _ _ _ => true
  | .release _ _ => true
  | .claim _ keyId _ _ => okKeyId keyId
  | .getVersion _ => true
  | .getCapabilities _ => true
  | .negotiateAlgorithms _ => true
  | .getDigests _ => true
  | .getCertificate _ => true
  | .challenge _ _ => true
  | .getMeasurements _ _ _ => true
  | .keyExchange _ _ => true
  | .finish _ _ _ => true
  | .heartbeat _ => true
  | .endSession _ => true
  | .hello _ _ _ => true
  | .bye _ => true
  | .fwStage _ _ _ _ _ => true
  | .fwActivate _ _ _ => true
  | .fwCommit _ _ => true
  | .fwStatus _ => true
  | .planeDrain _ => true
  | .drainComplete => true
  | .planeResume _ => true
  | .adopt _ => true
  | .timeSetSeconds _ _ => true
  | .streamStart _ schedId _ => okSched schedId
  | .streamStop _ schedId => okSched schedId
  | .firnPin _ range => okRange range
  | .firnUnpin _ range => okRange range
  | .datasetLoad _ _ _ => true
  | .regRead _ _ _ => true
  | .telemSubscribe _ _ _ part _ => okByte part
  | .telemCancel _ _ => true
  | .telemSample _ => true
  | .counterAccumulate => true
  | .eventLogWrite => true
  | .pasteHeartbeatTimeout core => okCore core
  | .coreUncorrectable core => okCore core
  | .mctpControl _ => true
  | .pldmGetSensor _ => true
  | .pldmSetStateEffecter _ => true
  | .coldReset _ => true
  | .warmReset => true
  | .pwrgdFall => true
  | .resetFabric _ => true
  | .resetPartition _ part => okByte part
  | .resetPort _ port => okPort port
  | .resetPaste _ => true
  | .powerRun _ => true
  | .powerHold _ => true
  | .powerIdleLow _ => true
  | .powerPark _ => true
  | .supplyWarning rail mv => okRail rail && okHalf mv
  | .supplyWarningEnd => true
  | .supplyReset rail mv => okRail rail && okHalf mv
  | .thermalThrottle sensor tempQ => okSensor sensor && okHalf tempQ
  | .thermalThrottleEnd => true
  | .thermalEmergency sensor tempQ => okSensor sensor && okHalf tempQ
  | .emergencyEnd => true
  | .hardwareTrip sensor => okSensor sensor
  | .avsTimeout rail => okRail rail
  | .powerLoss _ => true
  | .tempMaxClear _ => true
  | .rcRegisterRead _ => true
  | .registerWrite _ _ => true
  | .pasteRestartRequest => true
  | .policerTokensPositive _ => true
  | .supplyResetRelease => true
  | .cxlLinkUp port width => okPort port && okWidth width
  | .ethLinkUp port => okPort port
  | .cxlLinkNarrow port width => okPort port && okWidth width
  | .cxlIoRequest port _ => okPort port
  | .prosisSessionOpen _ _ _ _ => true
  | .prosisSessionClose _ => true
  | .tapInstructionLoad _ _ => true
  | .sensorRegisterUpdate _ _ _ _ => true

end Sys2Proof
end

