-- ==== Sys2Proof/Tests/Slice0.lean ====
section
/-! SUPPORT. Small named tests of one command each, with expected results from the spec's text and tables; the ill-formed terms that the checks of
WellFormed.lean refuse; and, for every obligation with hypotheses, a state and operands that meet them, clause by clause. -/

namespace Sys2Proof.Tests
open Sys2Proof Sys2Proof.Machine

-- checked one after another: many at once take more memory than the check allows
set_option Elab.async false

/-! ## A small world -/

def allRights : Rights := { r := true, w := true, a := true, e := true }

/-- A requester's header on port 0 for an address, under a key. -/
def hd (addr key : Nat) : ReqHdr :=
  { port := 0, rid := 1, part := 1, cls := 0, cmark := false, poison := false, tag := 5, reissue := false, addr := addr, key := BitVec.ofNat 32 key }

def line64 : Bytes := List.replicate 64 1

/-- The ports: 0 a requester's, 1 a DRAM tray's, 2 a CXL host's, 3 an Ethernet uplink, 4 the twin link, 10 to 19 flash trays. -/
def wPorts : List (Nat × PortRec) :=
  [(0, { protocol := 1, role := 0, width := 2, minWidth := 1, firstLane := 0 }), (1, { protocol := 1, role := 1, width := 4, minWidth := 2, firstLane := 8 }),
   (2, { protocol := 2, role := 0, width := 8, minWidth := 4, maxRate := 5, firstLane := 16 }),
   (3, { protocol := 3, role := 3, width := 4, minWidth := 4, maxRate := 1, firstLane := 24 }),
   (4, { protocol := 1, role := 2, width := 16, minWidth := 8, firstLane := 32 })] ++
  (List.range 10).map fun i => (10 + i, { protocol := 1, role := 1, width := 2, minWidth := 1, firstLane := 64 + 2 * i })

/-- The image: partition 1 owns range 0 in DRAM at 0 and range 1 in flash at 32 MiB; requester 1 is a Bamom one, requester 2 a host's with a window. -/
def wImg (twin : Bool) : ImgBody where
  device := some { planes := 1, twinPresent := twin, twinPort := 4, firnGib := 100, wheyGib := 4, rspCells := 1000, schCells := 1000, engCells := 1000 }
  ports := wPorts
  isets := [(0, [1]), (1, (List.range 10).map (10 + ·))]
  flashPool := (List.range 10).map fun i => (10 + i, 64)
  parts := [(1, { scratch := 100, defaultVid := 7, vids := [8] })]
  reqs := [(1, { enabled := true, kind := 0, port := 0, part := 1 }), (2, { enabled := true, kind := 1, port := 2, part := 1 })]
  ranges := [(0, { valid := true, base := 0, size := 16, key := 9, owner := 1, ownerRights := allRights, firn := true, granule := 4, iset := 0 }),
    (1, { valid := true, base := 16, size := 16, key := 9, owner := 1, ownerRights := { r := true }, tier := 1, granule := 6, iset := 1 })]
  windows := [(0, { valid := true, port := 2, rid := 2, dpaBase := 0, size := 16, fabricBase := 0, key := 9 })]

/-- The plane in RUN with partition 1 ACTIVE, every port UP, and session 1 in control. -/
def world (twin : Bool) : State :=
  { State.reset with
    now := 2000000, nextId := 100
    img := wImg twin
    pstate := [(1, 1)]
    ports := wPorts.map fun e => (e.1, { link := .up, widthNow := e.2.width, laneMask := 2 ^ e.2.width - 1, ownReq := 100, ownMsg := 100, farReq := 100, farMsg := 100
                                         geomOk := true, cxlReq := 128, cxlDat := 128
                                         geom := if e.1 < 10 then none else some { chans := 2, dies := 2, blocks := 128, limit := 1000 } })
    twn := { state := if twin then .paired else .none, servesOwn := true }
    mgmt := { sessions := [{ sess := 1, helloOk := true }], controller := some 1, state := .run } }

def w : State := world false
def wt : State := world true

/-- A load accepted at time 0, in a phase. -/
def rq (id : Nat) (k : ReqKind) (p : Phase) : Req := { id := id, hdr := hd 0 9, kind := k, src := .bamom, accAt := 0, phase := p }

def withReq (r : Req) (s : State) : State := { s with mem := { s.mem with reqs := [r] } }

def stdAcc (owner : AccOwner) (kind : AccKind) : Acc := { aid := 3, port := 1, kind := kind, addr := 0, owner := owner, state := .sent }

def withAcc (a : Acc) (s : State) : State := { s with mem := { s.mem with accs := [a] } }

/-- A flit of engine `e` and op `op`, with more fields in its word. -/
def fl (e op more : Nat) : Flit := { part := 1, slot := 0, rid := 1, port := 0, word := BitVec.ofNat 512 (e + 256 * op + more), accAt := 0, order := 0 }

def withFlit (f : Flit) (s : State) : State := { s with eng := { s.eng with flits := [f] } }

/-! ## Ill-formed commands -/

theorem test_wf_rejects_header_fields :
    (Instr.loadLine { hd 0 9 with port := 256 }).wellFormed = false ∧ (Instr.loadLine { hd 0 9 with rid := 4096 }).wellFormed = false ∧
    (Instr.loadLine { hd 0 9 with part := 128 }).wellFormed = false ∧ (Instr.loadLine { hd 0 9 with cls := 8 }).wellFormed = false ∧
    (Instr.loadLine { hd 0 9 with tag := 65536 }).wellFormed = false ∧ (Instr.loadLine (hd (2 ^ 52) 9)).wellFormed = false ∧
    (Instr.loadLine (hd 64 9)).wellFormed = true := by decide +kernel

theorem test_wf_rejects_payloads :
    (Instr.storeLine (hd 0 9) []).wellFormed = false ∧ (Instr.loadStream (hd 0 9) (2 ^ 64)).wellFormed = false ∧
    (Instr.flitReceive 0 true line64).wellFormed = false ∧ (Instr.twinForwardedRequest 0 (hd 0 9) (.storeLine []) {}).wellFormed = false ∧
    (Instr.publish (hd 0 9) (2 ^ 52) 0 0 0).wellFormed = false ∧ (Instr.storeLine (hd 0 9) line64).wellFormed = true := by decide +kernel

def sh (payload : Bytes) (dkind cls : Nat) : StreamHdr :=
  { port := 0, rid := 1, part := 1, cls := cls, cmark := false, poison := false, schedId := 0, dest := 0, dkind := dkind, seq := 0, payload := payload }

theorem test_wf_rejects_stream_fields :
    (Instr.data { sh [1] 0 0 with schedId := 4096 }).wellFormed = false ∧ (Instr.data { sh [1] 0 0 with dest := 4096 }).wellFormed = false ∧
    (Instr.data (sh [1] 4 0)).wellFormed = false ∧ (Instr.data { sh [1] 0 0 with seq := 2 ^ 24 }).wellFormed = false ∧
    (Instr.data (sh (List.replicate 16369 0) 0 0)).wellFormed = false ∧ (Instr.data (sh (List.replicate 16368 0) 0 0)).wellFormed = true := by decide +kernel

theorem test_wf_rejects_indexes :
    (Instr.scrAlloc 1 512).wellFormed = false ∧ (Instr.stackChannelOut 128).wellFormed = false ∧ (Instr.bankFail 64).wellFormed = false ∧
    (Instr.datasetFlip 16384).wellFormed = false ∧ (Instr.schedWindowOpen 16384).wellFormed = false ∧ (Instr.streamUnitRead 4096).wellFormed = false ∧
    (Instr.ack 0 1024).wellFormed = false ∧ (Instr.laneDegrade 0 512).wellFormed = false ∧ (Instr.ucieModuleFail 64).wellFormed = false ∧
    (Instr.groupRelease 1024).wellFormed = false ∧ (Instr.collDropDone 256).wellFormed = false ∧ (Instr.coreUncorrectable 6).wellFormed = false := by decide +kernel

theorem test_wf_rejects_management_fields :
    (Instr.ownerKeyAdd 1 (2 ^ 32) [] ⟨0, []⟩).wellFormed = false ∧ (Instr.keyReport 1 256).wellFormed = false ∧ (Instr.avsTimeout 10).wellFormed = false ∧
    (Instr.hardwareTrip 16).wellFormed = false ∧ (Instr.narrow 0 65536 0).wellFormed = false ∧ (Instr.cxlLinkUp 2 17).wellFormed = false ∧
    (Instr.canary ⟨5, 0⟩ true).wellFormed = false ∧ (Instr.mirrorDone 4096 0).wellFormed = false ∧ (Instr.mirrorDone 0 65536).wellFormed = false := by
  decide +kernel

/-! ## Helpers for the witnesses -/

/-- A request passes, or fails, at steps 3 to 7. -/
def passes : Verdict → Bool
  | .pass _ _ => true
  | .fail _ _ => false

def fails (v : Verdict) : Bool := !passes v

/-! ## The spec's worked examples -/

/-- The first trace of chapter 1: page 0x4000_1234 of an eight-plane domain lies on plane 2, at local address 0x24_6A40, on member 14 (port 206), at
0x10_0001_8440 of the tray. -/
theorem test_trace_of_a_load :
    let e : RangeEntry := { valid := true, base := 0x40000000000 / mib2, size := 524288, offEven := 32768 }
    (selectPlane 0x40001234A40 8).1 = 2 ∧ planeLocal 0x40001234A40 e 8 = 0x246A40 ∧
    selectPort 0x40001234A40 e ((List.range 24).map (192 + ·)) 8 false = (206, 0x1000018440) ∧ fabricOf e 8 2 0x246A40 = 0x40001234A40 := by decide +kernel

/-- The second trace: a store to page 0x8_7653 of a six-plane domain, on the odd role, with the extents of the range on each tray. -/
theorem test_trace_of_a_store :
    let e : RangeEntry := { valid := true, base := 1024, size := 1024, granule := 13, offOdd := 4096 }
    (selectPlane 0x87653210 6).1 = 5 ∧ planeLocal 0x87653210 e 6 = 20677136 ∧ selectPort 0x87653210 e [30, 31, 32] 6 true = (30, 0x2007B8210) ∧
    stripePages e 6 = 87382 ∧ sizeExtent e 3 6 = 114 * 2 ^ 20 ∧ macExtent e 3 6 = 16 * 2 ^ 20 ∧ macAddr e 3 6 true 0x2007B8200 = 0x2072F7040 := by
  decide +kernel

/-- The flash read of chapter 3. -/
theorem test_flash_location :
    locateFlash 0x92345640 20 2048 =
      { grp := 0, u := 9357, col := 1, member := 1, lblock := 4, page := 1165, sector := 1, byte := 1600 } := by decide +kernel

/-- Arrival `n` of Table 5.3 finds the policer as the arrivals before it left it: 4,096 B every 100 ns. -/
def table53 (n : Nat) : Colour × Int × Int :=
  let r : PolicerRec := { cir := 10000, pir := 20000, en := true, cbs := 256, pbs := 512 }
  let p := (List.range n).foldl (fun p i => (police r p 4096 false (100 * i)).2) { tc := 65536000, tp := 131072000, last := 0 }
  ((police r p 4096 false (100 * n)).1, (refill r p (100 * n)).tc / 1000, (refill r p (100 * n)).tp / 1000)

theorem test_policer_table_5_3 :
    table53 0 = (.green, 65536, 131072) ∧ table53 19 = (.green, 6712, 91248) ∧ table53 20 = (.yellow, 3616, 89152) ∧ table53 21 = (.green, 4616, 87056) ∧
    table53 60 = (.yellow, 2656, 5312) ∧ table53 61 = (.red, 3656, 3216) ∧ table53 62 = (.green, 4656, 5216) := by decide +kernel

/-- 1 + 2^-8 + 2^-8 in BF16 is 0x3F81 in every order; 1 + 2^-8 rounds to 0x3F80; 300 is 288 in E4M3; 0.3125 is 0x3EA0 in BF16. -/
theorem test_rounding_examples :
    bf16.encode (sumVals [bf16.decode 0x3F80, bf16.decode 0x3B80, bf16.decode 0x3B80]) .rne true 0 = 0x3F81 ∧
    bf16.encode (sumVals [bf16.decode 0x3B80, bf16.decode 0x3B80, bf16.decode 0x3F80]) .rtz true 0 = 0x3F81 ∧
    bf16.encode (sumVals [bf16.decode 0x3F80, bf16.decode 0x3B80]) .rne true 0 = 0x3F80 ∧
    e4m3.encode (.fin false 300 0) .rne true 0 = 0x79 ∧ bf16.encode ((e4m3.decode 0x4A).scale (0x7B - 127)) .rne true 0 = 0x3EA0 := by decide +kernel

/-! ## One step of a command -/

/-- `c` runs on `s`, alone in its queue, and leaves what `f` says. -/
def after (c : Instr) (s : State) (f : State → Bool) : Bool := match step { s with pending := [c] } with
  | .next t => f t && t.pending.isEmpty
  | _ => false

theorem test_at_ops_wrap_and_compare_signed :
    atApply .add (BitVec.ofNat 64 (2 ^ 64 - 1)) 2 = 1 ∧ atApply .min (BitVec.ofNat 64 (2 ^ 64 - 1)) 1 = BitVec.ofNat 64 (2 ^ 64 - 1) ∧
    atApply .umin (BitVec.ofNat 64 (2 ^ 64 - 1)) 1 = 1 := by decide

theorem test_load_is_sent_to_its_tray : after (.loadLine (hd 64 9)) w (fun t => t.mem.reqs.length == 1 && t.mem.accs.length == 1 && t.vat.rsp == 5) = true := by
  decide +kernel

theorem test_wrong_key_is_answered_at_once :
    after (.loadLine (hd 64 8)) w (fun t => t.mem.reqs.isEmpty && agetD t.pctr (0, .chkBadkey) 0 == 1 && (port t 0).rspQ.length == 1) = true := by decide +kernel

theorem test_down_port_takes_no_request : after (.loadLine (hd 64 9)) State.reset (fun t => t.mem.reqs.isEmpty) = true := by decide +kernel

theorem test_supply_warning_throttles_and_captures :
    after (.supplyWarning 3 1139) w (fun t => t.pwr.supplyThr && t.pwr.event == some (0, 3, 1139, 0) && levelNow t == 3) = true ∧
    after (.supplyWarning 3 1140) w (fun t => !t.pwr.supplyThr) = true := by decide +kernel

theorem test_thermal_throttle_at_100_degrees :
    after (.thermalThrottle 0 400) w (fun t => t.pwr.thermalThr) = true ∧ after (.thermalThrottle 0 399) w (fun t => !t.pwr.thermalThr) = true := by
  decide +kernel

theorem test_held_package_ignores_commands :
    after (.schedActivate) { w with pwr := { w.pwr with heldCold := true }, ftm := { state := .locked, ftFix := 64 * 2 ^ 64 } } (fun t => !t.ftm.schedActive)
      = true ∧
    after (.schedActivate) { w with ftm := { state := .locked, ftFix := 64 * 2 ^ 64 } } (fun t => t.ftm.schedActive) = true := by decide +kernel

theorem test_port_down_records_its_cause :
    after (.ethLinkLoss 3) w (fun t => (port t 3).link == .down && (port t 3).downLog == some (8, 0)) = true := by decide +kernel

theorem test_observer_may_not_reset : after (.resetFabric 1) { w with mgmt := { w.mgmt with controller := none } }
    (fun t => t.out.head? == some (.prosis 1 0x90 .notController []) && t.mgmt.state == .run) = true := by decide +kernel

theorem test_credit_saturates : after (.credit 0 4095 1) w (fun t => (port t 0).ownReq == 4095 && (port t 0).ownMsg == 101) = true := by decide +kernel

theorem test_fault_event_leaves_the_queue :
    after .faultEventRead { w with flt := { w.flt with events := [{ kind := 3, unitKind := 1, unit := 2 }] } }
      (fun t => t.flt.events.isEmpty && csr t 0x648 == 3 + 16 + 2 * 256) = true := by decide +kernel

/-- A FENCE whose covered store has failed is answered before its partition is calved. -/
theorem test_fence_fails_before_the_calving :
    after (.executionDeadline 7) { w with mem := { w.mem with reqs := [{ rq 7 (.storeLine line64) .exec with covered := true, dispAt := some 0 },
      { rq 8 .fence .fence with waits := [7] }] } }
      (fun t => partState t 1 == 2 && (port t 0).rspQ.map (fun d => match d.item with
        | .rsp _ r => statusCode r.status
        | _ => 99) == [statusCode .targetLost, statusCode .fenceIncomplete]) = true := by decide +kernel

/-- An answer of a request whose port has gone down since is discarded, though the port is UP again. -/
theorem test_answer_of_a_lost_port_is_discarded :
    after (.executionDeadline 7) (withReq { rq 7 .loadLine .exec with dispAt := some 0, gone := true } w) (fun t => (port t 0).rspQ == []) = true ∧
    after (.executionDeadline 7) (withReq { rq 7 .loadLine .exec with dispAt := some 0 } w) (fun t => (port t 0).rspQ.length == 1) = true := by
  refine ⟨?_, ?_⟩ <;> decide +kernel

theorem test_idle_step_passes_one_nanosecond : (match step w with | .next t => t.now | _ => 0) = 2000001 := by decide +kernel

/-! ## States that meet the hypotheses of the obligations -/

theorem test_meets_IdleStepsAdvanceTime : w.pending = [] ∧ w.ftm.tclk < 8 ∧ w.ftm.incr * 5 < 2 ^ 104 := by decide +kernel

/-- A world whose next command ends the LOAD window. -/
theorem test_meets_LoadWindowKeepsTheWorst :
    Tracked { w with pending := [.loadWindowEnd] } ∧ (match step { w with pending := [.loadWindowEnd] } with | .next _ => True | _ => False) := by
  refine ⟨⟨?_, ?_, ?_, ?_⟩, trivial⟩ <;> decide +kernel

/-- A line load, a fence, a publication and an OP_FLIT that pass every check. -/
theorem test_meets_MemoryRequestIsAdmitted :
    live w = true ∧ portIs w 0 1 0 = true ∧ portUp w 0 = true ∧ limitHeld w (hd 0 9) = false ∧ check12 w (hd 0 9) = none ∧ StagingOpen (hd 0 9) .loadLine w ∧
    passes (check37 w (hd 0 9) .loadLine) = true ∧ (step8 false (hd 0 9) .loadLine w).1 ≠ .red ∧
    passes (check37 w (hd 0 9) .fence) = true ∧ passes (check37 w (hd 0 9) (.publish 0 64 0 1)) = true ∧
    StagingOpen (hd (apBase + 2097152) 3) (.opFlit 1) w ∧
    passes (check37 { w with eng := { w.eng with apKeys := [(1, 3)] } } (hd (apBase + 65536) 3) (.opFlit 1)) = true := by
  refine ⟨?_, ?_, ?_, ?_, ?_, ?_, ?_, ?_, ?_, ?_, ?_, ?_⟩ <;> first | decide +kernel | (unfold StagingOpen; decide +kernel)

/-- A policer of partition 1, class 0 that has no token left. -/
def wRed : State := { w with img := { w.img with policers := [(64, { cir := 0, pir := 0, en := true, cbs := 64, pbs := 64 })] } }

/-- A request that fails at step 1, one that fails at step 5, one that is red at step 8, and one that passes. -/
theorem test_meets_ChecksAreMadeInOrder :
    (findReq (withReq (rq 7 .loadLine .fifo) w) 7).isSome = true ∧ (check12 w { hd 0 9 with rid := 3 }).isSome = true ∧ check12 w (hd 0 9) = none ∧
    fails (check37 w (hd 0 8) .loadLine) = true ∧ passes (check37 wRed (hd 0 9) .loadLine) = true ∧
    (step8 false (hd 0 9) .loadLine wRed).1 = .red := by
  refine ⟨?_, ?_, ?_, ?_, ?_, ?_⟩ <;> decide +kernel

/-- A plane of a pair that has not learned of its twin. -/
def wStart : State := { wt with pstate := [], twn := { wt.twn with state := .alone, servesOwn := false, servesTwin := false, twinInService := none } }

/-- It holds a load at step 5, after it returns a FENCE too, and neither passes. -/
theorem test_meets_ChecksOfAStartingPlane :
    (findReq (withReq (rq 7 .loadLine .fifo) wStart) 7).isSome = true ∧ check12 wStart (hd 0 9) = some (.partitionDown, 2) ∧
    startHolds wStart (hd 0 9) .loadLine = true ∧ check37 wStart (hd 0 9) .loadLine = .fail .retryLater 5 ∧ startHolds wStart (hd 0 9) .fence = false ∧
    (let s : State := { wStart with twn := { wStart.twn with twinInService := some true } }
     startHolds s (hd 0 9) .fence = true ∧ check37 s (hd 0 9) .fence = .fail .retryLater 5) := by
  refine ⟨?_, ?_, ?_, ?_, ?_, ?_, ?_⟩ <;> decide +kernel

theorem test_meets_PassedRequestHoldsKeyAndRights :
    inAperture 64 = false ∧ ReqKind.storeLine line64 ≠ .fence ∧ passes (check37 w (hd 64 9) (.storeLine line64)) = true := by
  refine ⟨?_, ?_, ?_⟩ <;> decide +kernel

/-- A read, a write, a partial and a poisoned write in the window of port 2, the last line of which is 64 below its end. -/
theorem test_meets_CxlTransactionIsAdmitted :
    live w = true ∧ portIs w 2 2 0 = true ∧ portUp w 2 = true ∧ 1 ≤ (port w 2).cxlReq ∧ 1 ≤ (port w 2).cxlDat ∧ (port w 2).rateNow ≠ 5 ∧
    windowAt w 2 33554432 = none ∧ (∃ x, windowAt w 2 33554368 = some x ∧
      let h := windowHdr w x 2 33554368 false
      ∀ wr : Bool, let u := cxlTake 2 wr w
        StagingOpen h .loadLine u ∧ limitHeld u h = false ∧ check12 u h = none ∧ passes (check37 u h .loadLine) = true ∧
        passes (check37 u h (.storeMasked line64 3)) = true ∧ passes (check37 u h (fullLine line64 h)) = true ∧
        passes (check37 u (windowHdr w x 2 33554368 true) (fullLine line64 (windowHdr w x 2 33554368 true))) = true ∧ (step8 true h .loadLine u).1 ≠ .red) := by
  refine ⟨?_, ?_, ?_, ?_, ?_, ?_, ?_, ⟨_, rfl, ?_⟩⟩
  case refine_8 =>
    intro h wr
    cases wr <;> refine ⟨?_, ?_, ?_, ?_, ?_, ?_, ?_, ?_⟩ <;> first | decide +kernel | (unfold StagingOpen; decide +kernel)
  all_goals decide +kernel

/-- A Bamom port that is UP; a load at the reservation of its response; and a command at a port that does not serve it. -/
theorem test_meets_AnswersAndReservations :
    portUp w 0 = true ∧ portIs w 1 1 0 = false ∧ portUp State.reset 0 = false ∧
    (let r := rq 7 .loadLine .rsp
     let s := withReq r w
     findReq s 7 = some r ∧ answerPort s r = some 0 ∧ r.quanta < kindQuanta r.kind ∧ rspFits s 0 7 (kindQuanta r.kind) = true) := by decide +kernel

/-- A load queued at its tray whose one piece is back. -/
theorem test_meets_LoadAnswerCarriesItsBytes :
    let r : Req := { rq 7 .loadLine .queued with
      view := some (0, rangeOf w 0, false), pieces := [{ port := 1, addr := 0, len := 64, off := 0, done := true, data := line64 }] }
    findReq (withReq r w) 7 = some r ∧ (rangeOf w 0).sealed = false ∧ kindLoad r.kind = true ∧ r.phase = .queued ∧ pieceStatus r = .ok ∧
    portUp w 0 = true := by decide +kernel

/-- Lines whose word meets, and does not meet, what each operation asks for. -/
theorem test_meets_AtomicUnitResults :
    guardWord (zeros 64) = 0 ∧ guardWord line64 ≠ 0 ∧ (BitVec.ofNat 64 (fieldAt (zeros 64) 8 8) : Word64) = 0 ∧
    (BitVec.ofNat 64 (fieldAt line64 8 8) : Word64) ≠ 0 := by decide +kernel

def idm (st : IdemState) : IdemEnt := { rid := 1, tag := 5, part := 1, opcode := kindCode (.cas64 0 1), addr := 0, state := st, ansAt := some 0 }

def withIdem (st : IdemState) : State := { w with mem := { w.mem with idem := [idm st] } }

/-- A tag recorded for another address; one in each state; and one 32,768 behind the requester's highest. -/
theorem test_meets_TagsAreClassified :
    (findIdem (withIdem .running) 1 5).isSome = true ∧ (idm .running).addr ≠ 64 ∧ (idm .notApplied).state = .notApplied ∧
    (idm .recorded).opcode = kindCode (.cas64 0 1) ∧
    (let s : State := { w with mem := { w.mem with tagHi := [(1, 32773)] } }
     findIdem s 1 5 = none ∧ s.twn.servesTwin = false ∧ aget s.mem.tagHi 1 = some 32773 ∧ (5 + 65536 - 32773 % 65536) % 65536 = 32768) ∧
    (let s : State := { w with mem := { w.mem with tagHi := [(1, 5)] } }
     aget s.mem.tagHi 1 = some 5 ∧ (5 + 65536 - 5 % 65536) % 65536 = 0) := by decide +kernel

/-- A request in each phase, at the boundary of its time. -/
theorem test_meets_EventsOfARequest :
    live w = true ∧ findReq (withReq (rq 7 .loadLine .fwd) w) 7 = some (rq 7 .loadLine .fwd) ∧
    (inDispatch (rq 7 .loadLine .fifo) = true ∧ { w with now := 3000 }.now = 0 + 3000 ∧ kindTagged .loadLine = false) ∧
    (let r : Req := { rq 7 .loadLine .queued with dispAt := some 1989000 }
     r.dispAt = some 1989000 ∧ r.released = false ∧ r.phase ≠ .fence ∧ 1989000 + 11000 = w.now) ∧
    (rq 7 .loadLine .lock).phase = .lock ∧ isPublish .loadLine = false ∧
    ({ rq 7 (.publish 0 64 0 1) .lock with stage := 2 } : Req).stage = 2 ∧ isPublish (.publish 0 64 0 1) = true ∧
    ((rq 7 .fence .fence).finalSt ≠ .fenceIncomplete ∧ (rq 7 .fence .fence).waits = [] ∧ (rq 7 .fence .fence).markers = []) ∧
    ((rq 7 .fence .fence).accAt + 16000 ≤ w.now) ∧
    ((rq 7 .loadLine .werr).phase = .werr ∧ partActive { w with pstate := [(1, 2)] } 1 = false) ∧
    ((rq 7 .loadLine .rsp).phase = .rsp) ∧ (rq 7 (.opFlit 1) .rsp).kind = .opFlit 1 ∧ (rq 7 .loadLine .fifo).phase = .fifo := by decide +kernel

/-- The piece of a load at its tray, the same for an engine, and an access 1 ms past its execution deadline. -/
theorem test_meets_TrayAnswers :
    let a := stdAcc (.req 7 0) .load
    live w = true ∧ findAcc (withAcc a w) 3 = some a ∧ a.owner = .req 7 0 ∧ a.state = .sent ∧ a.kind = .load ∧ a.eng = false ∧
    ({ a with eng := true } : Acc).eng = true ∧
    (let b := { a with execEnd := 1000000 }
     b.state ≠ .queued ∧ b.viaTwin = false ∧ b.execEnd ≠ 0 ∧ b.execEnd + 1000000 = w.now) := by decide +kernel

def mEnt : MirrorEnt :=
  { rid := 1, tag := 5, part := 1, opcode := 0x2C, addr := 0, status := .ok, result := 0, line := 0, image := [], done := false }

def withShadow (d : Bool) : State := { wt with mem := { wt.mem with shadow := [{ ent := { mEnt with done := d }, storedAt := 1744000 }] } }

/-- A reachable twin; requests at the two steps that wait for it; an answered entry at and before 256 us; shadow entries at 256 us; a catch-up. -/
theorem test_meets_IdempotencyAndMirroring :
    live wt = true ∧ twinUp wt = true ∧ (rq 7 (.cas64 0 1) .auMirror).phase = .auMirror ∧
    ({ rq 7 (.cas64 0 1) .auDone with released := true } : Req).released = true ∧
    (findIdem (withIdem .recorded) 1 5 = some (idm .recorded) ∧ (idm .recorded).ansAt = some 0 ∧ { w with now := 256000 }.now = 0 + 256000 ∧
      { w with now := 255999 }.now < 0 + 256000) ∧
    (((withShadow true).mem.shadow.find? fun e => e.ent.rid = 1 ∧ e.ent.tag = 5).isSome = true ∧ 1744000 + 256000 = wt.now) ∧
    (let e : ShadowEnt := { ent := { mEnt with running := true }, storedAt := 1744000 }
     let s : State := { wt with mem := { wt.mem with shadow := [e] } }
     (s.mem.shadow.find? fun e => e.ent.rid = 1 ∧ e.ent.tag = 5) = some e ∧ e.ent.running = true ∧ (withShadow false).mem.shadow ≠ []) ∧
    (let s : State := { wt with mem := { wt.mem with catchup := [(1, 5)], mirrorEn := true } }
     s.mem.catchup ≠ [] ∧ s.mem.mirrorEn = true ∧ twinUp s = true) := by decide +kernel

/-- A forwarded load of this plane's stripe, a marker with nothing behind it, the LOAD window before and at its end, and the two cases of AU_CTL. -/
theorem test_meets_TwinRequestMarkerWindowAndMirrorControl :
    live wt = true ∧ twinUp wt = true ∧ serve wt (servingPlane wt (rangeOf wt 0) 0) = .here ∧ partState wt 1 ≠ 2 ∧
    (let m : Marker := { mid := 4, port := 1, why := 1, sentAt := 0 }
     ({ w with mem := { w.mem with markers := [m] } }.mem.markers.find? fun m => m.mid = 4) = some m ∧ m.behind = []) ∧
    ft w / 64000 = w.mem.winIx ∧ (let s : State := { w with ftm := { w.ftm with ftFix := 64000 * 2 ^ 40 } }
      ft s / 64000 = 1 ∧ ft s / 64000 ≠ s.mem.winIx) ∧
    (let s : State := { State.reset with mgmt := { State.reset.mgmt with pasteUp := true } }
     live s = true ∧ s.mgmt.pasteUp = true ∧ someAtomics s = false ∧ ({ s.mem with mirrorEn := true } : Mem).mirrorEn = true) ∧
    bitAt (2 : Word64).toNat 0 = false ∧ someAtomics w = true := by
  decide +kernel

/-- The four levels: a throttle, Whey above a quarter, the Vat three quarters full, half full and empty. -/
theorem test_meets_LoadFieldOfTable26 :
    throttled { w with pwr := { w.pwr with supplyThr := true } } = true ∧
    (let s : State := { w with vat := { w.vat with shr := 393216 } }
     4 * wheyUsed s ≤ wheyCarve s ∧ throttled s = false ∧ 3 * vatCells s = 4 * vatUsed s) ∧
    (let s : State := { w with vat := { w.vat with shr := 262144 } }
     wheyUsed s = 0 ∧ throttled s = false ∧ 4 * vatUsed s < 3 * vatCells s ∧ vatCells s = 2 * vatUsed s) ∧
    (wheyUsed w = 0 ∧ throttled w = false ∧ 2 * vatUsed w < vatCells w) := by decide +kernel

/-- Eight data units of two bytes. -/
theorem test_meets_LostColumnsComeBackFromParity :
    (∀ i, ((fun i => [BitVec.ofNat 8 i, 7] : Nat → Bytes) i).length = 2) ∧ (7 < 8) ∧ (6 < 7) := ⟨fun _ => rfl, by decide, by decide⟩

theorem test_meets_MapEntryRoundTrip :
    let m : MapEnt := { block := 65535, die := 255, chan := 63, valid := true, relocating := true, newBlock := 65535, newDie := 255, newChan := 63 }
    m.block < 65536 ∧ m.die < 256 ∧ m.chan < 64 ∧ m.newBlock < 65536 ∧ m.newDie < 256 ∧ m.newChan < 64 ∧ unpackMap (packMap m) = m := by decide +kernel

def fill : Fill := { fid := 2, range := 0, odd := false, gen := 0, loc := 0, owner := 1, alloc := true, pin := false, left := 0 }

def withFill (f : Fill) : State := { w with hbm := { w.hbm with fills := [f] } }

/-- The member that column 9 of group 0 lies on, in relocation and diverted, and the rebuild of its sector with eight columns in hand. -/
def rebS : State :=
  { w with ftl := { w.ftl with
      relocs := [{ port := 19, old := 0, lblock := 0, odd := false, range := 1, grp := 0, diverted := true }]
      rebuilds := [{ reb := 5, range := 1, entry := rangeOf w 1, odd := false, grp := 0, u := 0, sector := 0, col := 9,
                     got := (List.range 8).map fun i => (i + 1, [1]), acc := some (stdAcc (.req 7 0) .flRead) }] } }

theorem test_meets_FirnAndStackEvents :
    live w = true ∧ (findFill (withFill fill) 2 = some fill ∧ fill.left = 0 ∧ fill.failed = none ∧ fill.alloc = true ∧
      (fillOpen (fillServe 2 (withFill fill)) fill (rangeOf w 0) 0 4096).isSome = true) ∧
    (let f := { fill with failed := some .poison }
     findFill (withFill f) 2 = some f ∧ f.failed = some .poison) ∧
    (127 ∉ w.hbm.chanFail ∧ 3 * 1 ≤ (dev w).firnGib) ∧ ((dev State.reset).firnGib < 3 * 1 ∧ State.reset.hbm.failed = false) ∧
    (∃ r a, (rebS.ftl.rebuilds.find? fun r => r.reb = 5) = some r ∧ 8 = r.got.length ∧ r.acc = some a ∧ r.entry.firn = false ∧
      diverted rebS ((isetOf rebS r.entry.iset).getD (rebMember r) 0)
        (pblockOf (colEnt rebS { range := r.range, entry := r.entry, gen := r.gen, loc := rebLoc rebS r, cols := r.cols } r.odd r.col)) = true) := by
  refine ⟨?_, ?_, ?_, ?_, ?_, ⟨_, _, rfl, ?_, rfl, ?_, ?_⟩⟩ <;> decide +kernel

/-- Flash port 10 with logical block 0 of range 1 in block 3, and a relocation of it at a step. -/
def flashS (reads : Nat) (r : Option Reloc) : State :=
  { w with ftl := { w.ftl with
      map := [((10, false, 0), { block := 3, valid := true })], reads := [((10, 3), reads)], relocs := r.toList } }

def reloc (n : Nat) : Reloc := { port := 10, old := 3, lblock := 0, step := n, odd := false, range := 1, grp := 0, new := 4, flipAt := 1984000 }

theorem test_meets_StepsOfARelocation :
    live w = true ∧ w.mgmt.pasteUp = true ∧
    (let s := flashS 60000 none
     (dev s).readThr = agetD s.ftl.reads (10, 3) 0 ∧ findReloc s 10 3 = none ∧ lblockOf s 10 3 = some (false, 0) ∧
     lblockRange s 10 false 0 = some (1, 0)) ∧
    (let s := flashS 0 (some (reloc 1))
     findReloc s 10 3 = some (reloc 1) ∧ relocsBeside s (reloc 1) < 2 ∧ (bestFree s 10).isSome = true) ∧
    ((reloc 3).step = 3 ∧ (reloc 4).step = 4 ∧ (reloc 4).flipAt + 16000 = w.now ∧ (sendErase 10 3 1 false (flashS 0 (some (reloc 4)))).1 = true) ∧
    (let s := flashS 0 (some (reloc 6))
     (reloc 6).step = 6 ∧ (bestFree (flashEvent 4 0 1 false 0 (markBad 10 4 s)) 10).isSome = true) ∧
    (let s := flashS 1000 none
     disturbOf s 10 = agetD s.ftl.reads (10, 3) 0 ∧ disturbOf s 10 ≠ 0 ∧
     ((findReloc (requestReloc 10 3 s) 10 3).any fun r => !r.diverted && decide (r.step ≠ 4 ∧ r.step ≠ 5)) = true) := by decide +kernel

def ld (flip : Option Nat) : DsLoad := { target := 1, source := 0, sess := 1, stage := 3, flipAt := flip, oldBlocks := [(10, 3)] }

def withLoad (l : DsLoad) : State := { wt with ftl := { wt.ftl with loads := [l] } }

theorem test_meets_FlashLayerEvents :
    live wt = true ∧ wt.mgmt.pasteUp = true ∧ twinUp wt = true ∧ ((withLoad (ld none)).ftl.loads.find? fun l => l.target = 1) = some (ld none) ∧ (ld none).stage = 3 ∧
    (ld none).failed = false ∧ (ld none).flipAt = none ∧ (ld (some 1984000)).flipAt = some 1984000 ∧ 1984000 + 16000 = wt.now := by decide +kernel

/-- A frame of 64 bytes of an ethertype, with a tag if asked. -/
def frame (tagged : Bool) (vid : Nat) : Bytes :=
  List.replicate 12 2 ++ (if tagged then [0x81, 0, 0, BitVec.ofNat 8 vid, 8, 0] else [8, 0, 0, 0, 0, 0]) ++ List.replicate 46 0

def upd (p : Nat) (f : Port → Port) : State := { w with ports := amod w.ports p {} f }

/-- A frame in a message FIFO, behind which the next one waits. -/
def heldFrame : StgUnit := { uid := 8, fifo := 2, item := .frame true 0 0 false [], units := 1, since := 0 }

theorem test_meets_FramesAreBridged :
    live w = true ∧ portUp w 3 = true ∧ portUp w 0 = true ∧ 64 = (frame true 8).length ∧ isPause (frame true 8) = false ∧ portIs w 3 3 3 = true ∧
    (∀ l n, let v : State := { w with pctr := l, freeIx := n }
      frType (frame true 8) ≠ (dev v).gwEtype ∧ (allParts.find? fun q => (aget v.img.parts q).isSome && vidOf v q (frVid (frame true 8))) = some 1 ∧
      fifoOpen v 3 2 1 = true ∧ fifoOpen { v with ports := (upd 3 fun q => { q with stg := [heldFrame] }).ports } 3 2 1 = false) ∧
    (∃ l n, fecSeen 3 w = { w with pctr := l, freeIx := n }) ∧ frTagged (frame true 8) = true ∧
    portIs w 0 1 0 = true ∧ vidOf w 1 (frVid (frame true 8)) = true ∧ frTagged (frame false 0) = false ∧
    (∀ f ∈ [frame true 8, frame false 0],
      let a := setPort 0 (fun q => { q with farMsg := q.farMsg - ceilDiv (8 + f.length) 256 }) w
      let t := returnCredits 0 0 (ceilDiv (8 + f.length) 256) a
      fifoOpen a 0 2 (ceilDiv (8 + f.length) 256) = true ∧ check12 t (hd 0 0) = none ∧ (frTagged f = true → vidOf t 1 (frVid f) = true)) := by
  refine ⟨?_, ?_, ?_, ?_, ?_, ?_, fun l n => ?_, ?_, ?_, ?_, ?_, ?_, ?_⟩
  case refine_8 => exact (fecSeen_eq 3 w).imp fun l h => ⟨_, h⟩
  case refine_7 =>
    show frType (frame true 8) ≠ (dev w).gwEtype ∧ (allParts.find? fun q => (aget w.img.parts q).isSome && vidOf w q (frVid (frame true 8))) = some 1 ∧
      fifoOpen w 3 2 1 = true ∧ fifoOpen (upd 3 fun q => { q with stg := [heldFrame] }) 3 2 1 = false
    decide +kernel
  all_goals decide +kernel

/-- Port 0 with a grant out for 100 bytes a slot, in a schedule that is active with one flow and an open window of requester 1. -/
def streamS : State :=
  { w with
    ports := amod w.ports 0 {} fun q => { q with grantsOut := [{ gid := 1, left := 100, perSlot := 100, expiry := 5, cells := 1 }] }
    ftm := { w.ftm with
      schedActive := true
      active := { flows := [(0, { valid := true, kind := 0, rid := 1, part := 1 })], wins := [(2, { start := 0, len := 4, slotBytes := 25, schedId := 0, port := 0 })] } } }

theorem test_meets_StreamUnitsNeedAGrantOrAWindow :
    live streamS = true ∧ portIs streamS 0 1 0 = true ∧ portUp streamS 0 = true ∧ (sh [1] 0 0).payload ≠ [] ∧ destOk streamS (sh [1] 0 0) = true ∧
    destOk streamS (sh [1] 2 0) = true ∧ check12 streamS (hd 0 0) = none ∧
    (grantFor (port streamS 0).grantsOut (ftSlot streamS) (streamBytes { utype := 0xD0, hdr := sh (List.replicate 84 1) 0 0 })).isSome = true ∧
    grantFor (port streamS 0).grantsOut (ftSlot streamS) (streamBytes { utype := 0xD0, hdr := sh (List.replicate 85 1) 0 0 }) = none ∧
    (∃ f t, checkSlot (sh (List.replicate 84 1) 0 7) streamS = .ok (f, t)) := by
  refine ⟨?_, ?_, ?_, ?_, ?_, ?_, ?_, ?_, ?_, ⟨_, _, rfl⟩⟩ <;> decide +kernel

def stgS (item : StgItem) (s : State) : State :=
  { s with ports := amod s.ports 0 {} fun q => { q with stg := [{ uid := 8, fifo := 1, item := item, units := 1, since := 0 }], q := amod8 q.q } }
where amod8 (q : List (List Desc)) : List (List Desc) := [{ uid := 9, item := .frame [], pool := .shr, cells := 1, bytes := 64 }] :: q.drop 1

theorem test_meets_StagingEgressAndBanks :
    live w = true ∧
    (let s := stgS (.stream { utype := 0xD0, hdr := sh [1] 0 0 } false false) { w with now := 4000000 }
     ((port s 0).stg.find? fun u => u.uid = 8).isSome = true ∧ 0 + (dev s).msgAgeMs * 1000000 = s.now) ∧
    (let s := stgS (.req 7) (withReq (rq 7 .loadLine .admitting) w)
     ((port (unspill 0 s) 0).stg.find? fun u => u.uid = 8).isSome = true ∧ findReq (unspill 0 s) 7 = some (rq 7 .loadLine .admitting)) ∧
    (let s := stgS (.req 7) w
     portUp s 0 = true ∧ (port s 0).busyUntil ≤ s.now ∧ (port s 0).idle = false ∧ (chooseQueue s 0).isSome = true) ∧
    ((portRec w 0).protocol = 1 ∧ (port w 0).busyUntil ≤ w.now ∧ (port w 0).idle = false ∧ chooseQueue w 0 = none) ∧
    (63 ∉ w.vat.bankFail ∧ 65536 ≤ shrCells { w with vat := { w.vat with bankFail := [63] } }) ∧
    (let s : State := { w with vat := { w.vat with bankFail := List.range 33 } }
     banksIn s < 32 ∧ s.vat.failed = false) := by decide +kernel

/-- A port that is not UP, one that is, and the two kinds of access that a downed port loses. -/
theorem test_meets_PortGoesDownAsR144Says :
    live w = true ∧ portUp (world false) 77 = false ∧ portUp w 2 = true ∧ (stdAcc (.req 7 0) .load).owner = .req 7 0 ∧
    (stdAcc (.req 7 0) .load).state = .sent := by decide +kernel

/-- One nanosecond after the last update, with 64 units and 256 units in the buckets: a unit beyond the peak, one beyond the committed tokens, one within. -/
theorem test_meets_PolicerColours :
    let r : PolicerRec := { cir := 1, pir := 2, en := true, cbs := 64, pbs := 256 }
    let p : Pol := { tc := 0, tp := 64000, last := 4 }
    p.last ≤ 5 ∧ (refill r p 5).tp = 64002 ∧ (refill r p 5).tc = 1 ∧ (refill r p 5).tp < ((65 : Nat) : Int) * 1000 ∧
    (((64 : Nat) : Int) * 1000 ≤ (refill r p 5).tp ∧ (refill r p 5).tc < ((64 : Nat) : Int) * 1000) ∧
    ((0 : Nat) : Int) * 1000 ≤ (refill r p 5).tc ∧ ({ r with en := false } : PolicerRec).en = false := by decide +kernel

def tmcS (table index d0 d1 : Nat) : State :=
  { w with tmc := { w.tmc with selTable := table, selIndex := index, d0 := BitVec.ofNat 64 d0, d1 := BitVec.ofNat 64 d1 } }

/-- Each table at its last record and beyond; a policer's and a shaper's record that is kept and one that is not; a policer at and above zero tokens. -/
theorem test_meets_IndirectTrafficRegisters :
    live w = true ∧ w.mgmt.pasteUp = true ∧ (tmcS 0 8191 0 0).tmc.selIndex < tmcSize 0 ∧ tmcSize 0 ≤ (tmcS 0 8192 0 0).tmc.selIndex ∧
    (let s := tmcS 0 64 (1 + 2 * 2 ^ 32 + 2 ^ 60) (64 + 64 * 2 ^ 32)
     polOk (polCxl s.img.windows s.img.reqs s.img.ports 64) 64 (polOf s.tmc.d0.toNat s.tmc.d1.toNat) = true) ∧
    (let s := tmcS 0 64 (3 + 2 * 2 ^ 32 + 2 ^ 60) (64 + 64 * 2 ^ 32)
     polOk (polCxl s.img.windows s.img.reqs s.img.ports 64) 64 (polOf s.tmc.d0.toNat s.tmc.d1.toNat) = false) ∧
    (let r := fun n : Nat => ({ idleSlope := n, shaped := true, hiCredit := 1 } : ShaperRec)
     (tmcS 1 0 0 0).tmc.selIndex < 2048 ∧ slopesFit w (aset (shapersNow w) 0 (r 1)) 0 = true ∧ slopesFit w (aset (shapersNow w) 0 (r (2 ^ 24 - 1))) 0 = false) ∧
    (tmcS 2 4095 0 0).tmc.selIndex < 4096 ∧ (tmcS 3 127 0 0).tmc.selIndex < 128 ∧
    (let s : State := { w with img := { w.img with policers := [(64, { cir := 1, pir := 1, en := true, cbs := 64, pbs := 64 })] } }
     0 < (refill (agetD (policersNow s) 64 {}) (agetD s.tmc.pols 64 {}) s.now).tp) ∧
    ({ w.mgmt with pasteUp := false } : Mgmt).pasteUp = false ∧ (refill (agetD (policersNow wRed) 64 {}) (agetD wRed.tmc.pols 64 {}) wRed.now).tp ≤ 0 := by decide +kernel

def ftmS (f : Ftm) : State := { w with ftm := f }

/-- Each source when it may qualify and when it is too late; each lock state; and each kind of write of FTM_CTL. -/
theorem test_meets_TimeSourcesAndLockStates :
    live w = true ∧ timeUnitOn w = true ∧ w.mgmt.pasteUp = true ∧
    (1000 : Int).natAbs ≤ ({} : Ftm).stepThr ∧ ({} : Ftm).stepThr < (-1001 : Int).natAbs ∧ activeParts w ≠ [] ∧ activeParts State.reset = [] ∧
    ({ state := .locked, qualified := true } : Ftm).state ≠ .free ∧
    (let f : Ftm := { source := 1, qualified := true, setSecs := some 3, ppsAt := some (2000000000 - ppsMax) }
     let s : State := { ftmS f with now := 2000000000 }
     timeUnitOn s = true ∧ s.ftm.source = 1 ∧ s.ftm.qualified = true ∧ s.ftm.setSecs = some 3 ∧
     (∀ t, s.ftm.ppsAt = some t → t + ppsMin ≤ s.now ∧ s.now ≤ t + ppsMax) ∧
     ¬(∀ t, s.ftm.ppsAt = some t → t + ppsMin ≤ (s.now + 1) ∧ (s.now + 1) ≤ t + ppsMax) ∧ sourceReady s 1 = true ∧
     sourceReady { s with now := s.now + 1 } 1 = false) ∧
    (let s : State := { ftmS { source := 3, qualified := true, syncAt := [(1, 500)] } with now := 2000000500 }
     s.ftm.source = 2 + 1 ∧ 0 = s.ftm.ptpDomain ∧ (∀ t, aget s.ftm.syncAt 1 = some t → s.now ≤ t + 2000000000) ∧ sourceReady s 3 = true ∧
     aget s.ftm.syncAt 1 = some 500 ∧ 500 + 2000000000 < s.now + 1 ∧ sourceReady { s with now := s.now + 1 } 3 = false) ∧
    (let s : State := { ftmS { source := 4, refPort := 0 } with ports := amod w.ports 0 {} fun q => { q with lastTos := some (5, 6), tosRxAt := some 1991808 } }
     s.ftm.source = 4 ∧ portUp s 0 = true ∧ (port s 0).lastTos = some (5, 6) ∧ sourceReady s 4 = true ∧
     sourceReady { s with now := s.now + 1, ftm := { s.ftm with qualified := true } } 4 = false) ∧
    (let s := ftmS { source := 1, qualified := true, setSecs := some 0, ftFix := 5000 * 2 ^ 40 }
     stepBarred (((0 : Nat) : Int) * 1000000000 + s.ftm.ppsDelayNs - ft s) s = true ∧ stepBarred (((1 : Nat) : Int) * 1000000000 + s.ftm.ppsDelayNs - ft s) s = false) ∧
    (let v : Word64 := BitVec.ofNat 64 (1 + 3 * 256)
     bits v.toNat 0 3 = ({ source := 1 } : Ftm).source ∧ bits v.toNat 8 8 ≠ ({ source := 1 } : Ftm).refPort ∧ bits v.toNat 0 3 ≠ 4 ∧
     ({ source := 1 } : Ftm).qualified = false) ∧
    (let v : Word64 := BitVec.ofNat 64 4
     let s : State := { w with ports := amod w.ports 0 {} fun q => { q with tosRxAt := some 1991808 }, ftm := { source := 4, refPort := 0 } }
     bits v.toNat 0 3 = 4 ∧ w.ftm.source ≠ 4 ∧ sourceReady s 4 = true) ∧
    (let s := ftmS { state := .holdover, lostAt := 2000000 }
     s.ftm.state = .holdover ∧ holdErr s ≤ 128 * 10 ^ 9 ∧ s.now - s.ftm.lostAt ≤ (dev s).holdoverMs * 1000000 ∧
     128 * 10 ^ 9 < holdErr { s with now := 2442000001 }) ∧
    (let v : Word64 := BitVec.ofNat 64 (2 + 3 * 256 + 9 * 2 ^ 16)
     bits v.toNat 0 3 = 2 ∧ bits v.toNat 8 8 = 3) := by decide +kernel

def flow3 : FlowRec := { valid := true, kind := 3, part := 1, range := 0, length := 8, unitCells := 16, leadSlots := 0 }

/-- The scheduled plane with flow 5 reading range 0 in slot 4 of its frame. -/
def schedS (stop : Bool) : State :=
  ftmS { ftFix := 1024 * 2 ^ 40, state := .locked
         active := { flows := [(5, flow3)], wins := [(2, { start := 4, len := 1, slotBytes := 4112, schedId := 5, port := 0 })] }
         streams := [{ schedId := 5, startFrame := 0, stopping := stop, flow := flow3 }] }

theorem test_meets_ScheduledPlane :
    live w = true ∧
    (let s := ftmS { state := .locked, lockedFrom := 0, ftFix := 64 * 2 ^ 64 }
     s.ftm.lockedFrom + 64 = ftFrame s) ∧
    (let s := ftmS { ppsEn := true, ftFix := 1000000000 * 2 ^ 40 }
     timeUnitOn s = true ∧ s.ftm.ppsOut = false ∧ ft s % 1000000000 = 0) ∧
    (let s := ftmS { ppsOut := true, ppsRise := 0, ppsWidthUs := 0, ftFix := 10000 * 2 ^ 40 }
     s.ftm.ppsWidthUs = 0 ∧ s.ftm.ppsRise + 10 * 1000 = ft s) ∧
    (let s : State := { w with ports := amod w.ports 0 {} fun q => { q with tosTx := true, tosAt := 1995904 } }
     portUp s 0 = true ∧ (portRec s 0).protocol = 1 ∧ (port s 0).tosTx = true ∧ (port s 0).tosAt + 4096 = s.now ∧ (port s 0).items = [] ∧ flitsFit s 0 1 = true) ∧
    (w.mgmt.pasteUp = true ∧ 1 % 2 ^ 40 < ftFrame w + 2 ∧ ftFrame w + 2 ≤ 2 % 2 ^ 40) ∧
    (∃ x, aget (schedS false).ftm.active.wins 2 = some x ∧ winStarts { x with start := 5 } (ftSlot (schedS false) % 65536) = true) ∧
    (let s := ftmS { arm := true, actFrame := 1, ftFix := 2 ^ 64 }
     s.ftm.arm = true ∧ s.ftm.actFrame * frameNs = ft s) ∧
    (((schedS true).ftm.streams.find? fun x => x.schedId = 5).any (·.stopping) = true) ∧
    (∃ x e, ((schedS false).ftm.streams.find? fun x => x.schedId = 5) = some x ∧ x.stopping = false ∧ aget (schedS false).img.ranges x.flow.range = some e ∧
      sendSlot (schedS false) 5 (ftSlot (schedS false) % 65536) = true ∧ x.startFrame ≤ ftSlot (schedS false) / 65536 ∧ x.lastSlot = none ∧
      0 + min (16 * 256) (8 * 4096 - 0) < 8 * 4096 ∧ (schedS false).vat.sch + ceilDiv 4096 256 ≤ poolCells (schedS false) .sch) ∧
    (portIs w 0 1 0 = true ∧ portUp w 0 = true ∧ (port w 0).withheld = false ∧ streamRoom w 0 = true ∧ w.pwr.pstate = 0 ∧
      sumOf ((port w 0).grantsOut.map (·.left)) + 1024 * 64 = (portRec w 0).windowKib * 1024 ∧ ceilDiv (1024 * 64) 256 ≤ shrFree w) := by
  refine ⟨?_, ?_, ?_, ?_, ?_, ?_, ⟨_, rfl, ?_⟩, ?_, ?_, ⟨_, _, rfl, rfl, rfl, ?_, ?_, ?_, ?_, ?_⟩, ?_⟩ <;> decide +kernel

/-- Flits of three engines that run. -/
theorem test_meets_OpsRunFromWaitToWait :
    live w = true ∧ (opOf (.scan 1 0)).isSome = true ∧ Runs (withFlit (fl 4 4 0) w) 4 4 1 0 (fl 4 4 0) ∧ (opOf (.proxyFence 1 0)).isSome = true ∧
    Runs (withFlit (fl 1 0x31 0) w) 1 0x31 1 0 (fl 1 0x31 0) ∧ Runs (withFlit (fl 5 5 0) w) 5 5 1 0 (fl 5 5 0) := by
  unfold Runs; decide +kernel

theorem test_meets_ScratchIsAllocatedAndFreed :
    let f := fl 6 1 (100 * 2 ^ 192)
    let g := fl 6 2 (1 * 2 ^ 192)
    let s := withFlit f w
    let u : State := { withFlit g w with eng := { w.eng with flits := [g], handles := [((1, 1), { granules := 3 })] } }
    live s = true ∧ f.todo = [] ∧ f.out = [] ∧ f.failed = none ∧ Runs s 6 1 1 0 f ∧ fw f.word 0x18 0 32 = 100 ∧ granOk s 1 100 = true ∧
    ((List.range 65535).find? fun i => (handleAt s 1 (i + 1)).isNone) = some 0 ∧ (s.eng.handles.filter fun h => h.1.1 = 1).length < 256 ∧
    Runs u 6 2 1 0 g ∧ (handleAt u 1 (fw g.word 0x18 0 32)).isSome = true ∧ handleBound { granules := 3 } = false ∧
    (u.eng.flits.any fun x => x.part == 1 && x.slot != 0 && decide (1 ∈ flitNames x)) = false := by
  unfold Runs; decide +kernel

theorem test_meets_ScratchReadsWhatWasWritten : Memory.wf (handleWrite { granules := 1 } 5 [1, 0, 2]).mem = true ∧ (2 < [1, 0, (2 : Byte)].length) := by
  decide +kernel

def ended : Flit := { fl 6 1 0 with fin := some { status := .ok, lo := 3 } }

def chunkS (opened : Nat) : State :=
  { w with eng := { w.eng with groups := [(2, { state := .armed, part := 1, window := 2, tmpl := { timeoutUs := 5 }
                                                slots := [(0, { open_ := true, seq := 0, openedAt := opened })] })] } }

def coll : Coll := { part := 1, wc := 1, a8 := 0, filter := 0, main := 0, mainKey := 9, nPages := 1, capacity := 10 }

/-- A collection with a compaction by the flit in slot 0 that has written its last page. -/
def collS (c : Coll) (f : Flit) : State := { withFlit f w with eng := { w.eng with colls := [(3, c)], flits := [f] } }

theorem test_meets_EventsOfTheEngines :
    live w = true ∧
    (let f := { fl 6 1 0 with waiting := true }
     flitAt (withFlit f w) 1 0 = some f ∧ f.waiting = true ∧ f.fin = none ∧ fenceMet (withFlit f w) f = true) ∧
    (let f := fl 6 1 (2 * 2 ^ 160)
     fTimeMs f.word = 2 ∧ f.accAt + fTimeMs f.word * 1000000 = w.now ∧ f.fin = none ∧ f.prov = false ∧ f.waiting = false ∧ fEngine f.word = 6) ∧
    ({ fl 1 0x31 0 with todo := [{ addr := 0, key := 9, len := 64, need := { r := true } }] } : Flit).todo ≠ [] ∧
    (ended.fin.isSome = true ∧ ended.answer = none ∧ ended.out = [] ∧ ended.recordOut = false ∧ ended.record = none ∧ fCmplEn ended.word = false ∧ fCmplEn (fl 6 1 (2 ^ 16)).word = true) ∧
    (let s : State := { w with eng := { w.eng with zeroing := 1 } }
     0 < s.eng.zeroing ∧ s.eng.aclkGated = false) ∧
    (let s : State := { w with eng := { w.eng with groups := [(2, { state := .draining })] } }
     (groupAt s 2).state = .draining ∧ (groupAt s 2).endAs = none ∧ groupOpen (groupAt s 2) = 0) ∧
    (let s := chunkS 1995000
     let c := chunkSlot (groupAt s 2) (chunkIdx s (groupAt s 2) 0)
     (groupAt s 2).state = .armed ∧ c.open_ = true ∧ c.done = false ∧ c.seq = 0 ∧ fw (groupAt s 2).word 0x24 16 16 = 0 ∧ c.openedAt + 1000 * 5 = s.now) ∧
    (let c := { coll with dropped := some (0, 4) }
     collAt (collS c ended) 3 = some c ∧ c.dropped = some (0, 4) ∧ collBusy (collS c ended) 3 c 4 = false ∧ dropWaits (collS c ended) 1 0 4 = false) ∧
    (let c := { coll with compacting := some (0, 0) }
     let f := { fl 4 5 0 with regs := [0, 0, 3, 1] }
     collRunner (collS c f) c = some f ∧ rg f 2 = 3 ∧ f.fin = none ∧ f.failed = none ∧ f.todo = [] ∧ f.out = [] ∧ c.state = 1) ∧
    (let c := { coll with flipped := some (4, [9]) }
     collAt (collS c (fl 4 4 0)) 3 = some c ∧ ((collS c (fl 4 4 0)).eng.flits.any fun f => f.part == 1 && decide (f.order ∈ [9])) = false) ∧
    (let f := { fl 5 2 0 with begun := true, order := 2 }
     let q : Seq := { unit := 0, part := 1, sid := 0, head := 64, hkv := 1, g := 1, kvFmt := 0, handle := 1, nEntries := 0, key0 := 0, key1 := 0, scale := 0,
                      openSlot := 1, closing := some 0 }
     let s : State := { withFlit f w with eng := { w.eng with flits := [f], seqs := [(0, q)] } }
     flitAt s 1 0 = some f ∧ fEngine f.word = 5 ∧ fOp f.word = 2 ∧ f.begun = true ∧ f.regs.getD 2 0 = 0 ∧ seqOf s 1 (fSid f) = some (0, q) ∧
     q.closing = some 0 ∧ (seqFlits s 1 (fSid f)).any (fun g => decide (g.order < f.order)) = false) := by decide +kernel

/-- An op that is not defined is refused; a release of a handle is accepted, and answered at once. -/
theorem test_meets_AcceptanceOfAnOpFlit :
    (acceptFlit 7 1 0 1 0 (BitVec.ofNat 512 (9 + 2 ^ 40)) w).1 = .unsupported ∧ (acceptFlit 7 1 0 1 0 (BitVec.ofNat 512 (6 + 2 * 256 + 2 ^ 192)) w).1 = .ok ∧
    answerLater (BitVec.ofNat 512 (6 + 2 * 256 + 2 ^ 192)) = false ∧ answerLater (BitVec.ofNat 512 (2 + 256)) = true := by
  decide +kernel

theorem test_meets_LaneResultsIgnoreOrder : [Val.fin false 1 0, .fin true 3 1].Perm [.fin true 3 1, .fin false 1 0] := List.Perm.swap _ _ _

/-- A value that no list puts first stays out. -/
theorem test_meets_TopkKeepsTheFirstK :
    let r := topMerge false 1 [[⟨5, 1⟩, ⟨3, 2⟩], [⟨4, 9⟩]]
    r = [⟨3, 2⟩] ∧ (⟨4, 9⟩ : TopEnt) ∈ [[⟨5, 1⟩, ⟨3, 2⟩], [⟨4, 9⟩]].flatten ∧ (⟨4, 9⟩ : TopEnt) ∉ r := by decide +kernel

/-- A flit of zeros with number `n` and the check code of its first 252 bytes. -/
def flit (n : Nat) : Bytes := let b := natLe 2 n ++ zeros 250; b ++ natLe 4 (crc32c b)

theorem test_meets_LinkFlitsAndRetry :
    live w = true ∧ bamomUp w 0 = true ∧ (flit 0).length = 256 ∧ fieldAt (flit 0) 0xFC 4 = crc32c ((flit 0).take 252) ∧
    bitAt (fieldAt (flit 0) 0 2) 11 = false ∧ bits (fieldAt (flit 0) 0 2) 0 10 = (port w 0).rxExp ∧ bits (fieldAt (flit 1023) 0 2) 0 10 ≠ (port w 0).rxExp ∧
    fieldAt (zeros 252 ++ [1, 0, 0, 0]) 0xFC 4 ≠ crc32c ((zeros 252 ++ [1, 0, 0, 0]).take 252) ∧ (zeros 255).length ≠ 256 ∧
    ((flit 2048).length = 256 ∧ fieldAt (flit 2048) 0xFC 4 = crc32c ((flit 2048).take 252) ∧ bitAt (fieldAt (flit 2048) 0 2) 11 = true) ∧
    ((port w 0).unacked.findIdx? fun f => f.1 == 5) = none ∧
    ((port (upd 0 fun q => { q with unacked := [(1023, []), (0, [])] }) 0).unacked.findIdx? fun f => f.1 == 0) = some 1 ∧
    (let s := upd 0 fun q => { q with rxUnacked := 32, rxAt := 2000000 }
     1 ≤ (port s 0).rxUnacked ∧ 32 = (port s 0).rxUnacked) ∧
    (let s := upd 0 fun q => { q with rxUnacked := 1, rxAt := 1999744 }
     (port s 0).rxAt + 256 = s.now) ∧
    (let s := upd 0 fun q => { q with unacked := [(0, [])], ackAt := 1996000 }
     (port s 0).unacked ≠ [] ∧ (port s 0).ackAt + 4000 = s.now) ∧
    8 ≤ (port (upd 0 fun q => { q with resends := 8 }) 0).resends ∧ (port (upd 0 fun q => { q with resends := 7 }) 0).resends < 8 := by decide +kernel

def training (step : Nat) : State := upd 1 fun q => { q with link := .training, trainStep := step, stepAt := 1000000 }

theorem test_meets_LinkItems :
    live w = true ∧ bamomUp w 0 = true ∧ (∀ t, (port w 0).delayAt = some t → t + 1000000 ≤ w.now) ∧
    (let s := upd 0 fun q => { q with delayAt := some 1000001 }
     ¬∀ t, (port s 0).delayAt = some t → t + 1000000 ≤ s.now) ∧
    (let s := training 6
     (port s 1).link = .training ∧ (port s 1).trainStep = 6 ∧ (portRec s 1).role = 1 ∧ (port s 1).gen = 2 ∧ (port s 1).widthNow = 4) := by decide +kernel

theorem test_meets_PortsTrainFailAndComeBack :
    live w = true ∧ (port (training 1) 1).trainStep = 1 ∧ (port (training 2) 1).link = .training ∧ (port (training 6) 1).stepAt + stepLimit 6 = 2000000 ∧
    (lanesIn (alignedSet (portRec w 1).width (12 % 2 ^ (portRec w 1).width)) = 2 ∧
      lanesIn (alignedSet (portRec w 1).width (8 % 2 ^ (portRec w 1).width)) < (portRec w 1).minWidth) ∧
    (aget w.img.ports 1).isSome = true ∧ w.mgmt.pasteUp = true ∧ portUp w 1 = true ∧ portUp (training 1) 1 = false ∧ (port w 1).disable = false ∧
    (let s := upd 0 fun q => { q with lastFlit := 1999000 }
     (port s 0).lastFlit + 1000 = s.now) ∧
    (let left := (port w 1).laneMask - 2 ^ 3
     (portRec w 1).firstLane ≤ 11 ∧ 11 - (portRec w 1).firstLane < (portRec w 1).width ∧ bitAt (port w 1).laneMask 3 = true ∧
     let m := alignedSet (portRec w 1).width left
     m ≠ alignedSet (portRec w 1).width (port w 1).laneMask ∧ lanesIn m ≠ 0 ∧ (portRec w 1).minWidth ≤ lanesIn m) ∧
    (let s := upd 1 fun q => { q with laneMask := 12, widthNow := 2 }
     let m := alignedSet (portRec s 1).width ((port s 1).laneMask - 2 ^ 3)
     m ≠ alignedSet (portRec s 1).width (port s 1).laneMask ∧ lanesIn m < (portRec s 1).minWidth) ∧
    (let s := upd 1 fun q => { q with laneMask := 11, widthNow := 2 }
     alignedSet (portRec s 1).width ((port s 1).laneMask - 2 ^ 3) = alignedSet (portRec s 1).width (port s 1).laneMask) ∧
    (portUp w 2 = true ∧ (portRec w 2).protocol = 2 ∧ 4 < (port w 2).widthNow ∧ (portRec w 2).minWidth ≤ 4 ∧ portUp w 3 = true ∧
      (portRec w 3).protocol = 3) ∧
    awaitsLink (upd 2 fun q => { q with link := .down }) 2 2 = true ∧ awaitsLink (upd 3 fun q => { q with link := .down }) 3 3 = true := by decide +kernel

/-- On the twin link, a training step of another identity, and one of the same owners with an alias certificate that passes. -/
theorem test_meets_PortsTrainWithATwin (h : Config.aliasOk [] = true) :
    live wt = true ∧ (portRec wt 4).role = 2 ∧ twinIdOk wt { chain := [], owners := [(9, [])] } = false ∧
    twinIdOk wt { chain := [], owners := wt.nv.ownerKeys } = true := by
  refine ⟨by decide +kernel, by decide +kernel, ?_, ?_⟩ <;> simp only [twinIdOk, h] <;> decide +kernel

def gwHdr (op mac : Nat) : GwHdr :=
  { op := op, peerMac := mac, peerDomain := 5, window := 0, block := 0, piece := 0, seq := 0, ok := true, addr := 0, key := 9, data := [] }

def gwS (sends at_ : Nat) : State :=
  { w with
    img := { w.img with gwWins := [(0, { part := 1, peerMac := 4, peerDomain := 5 })], gwExps := [(0, { rid := 1, peerDomain := 5, peerMac := 4 })] }
    eth := { macs := [((7, 1), (3, 0))], blocks := [((0, 0), { state := .fetching, sends := [(1, sends)], sentAt := [(1, at_)] })] } }

theorem test_meets_FlashAnswersAndEthernetTables :
    live w = true ∧
    (let a := stdAcc (.ftl 10 3) .flErase
     findAcc (withAcc a w) 3 = some a ∧ a.state = .sent ∧ a.kind = .flErase ∧ a.execEnd ≤ w.now) ∧
    (stdAcc (.req 7 0) .flRead).kind = .flRead ∧
    (let s := { gwS 1 0 with now := 300 * 10 ^ 9 }
     aget s.eth.macs (7, 1) = some (3, 0) ∧ 0 + (dev s).ageS * 10 ^ 9 = s.now) ∧
    portIs w 3 3 3 = true ∧ portUp w 3 = true ∧
    ((aget (gwS 1 0).img.gwWins 0).any fun x => decide (x.peerMac ≠ 6)) = true ∧
    ((gwS 1 0).img.gwExps.find? fun e => e.2.peerMac = (gwHdr 1 4).peerMac ∧ e.2.peerDomain = 5).isSome = true ∧
    (let s := gwS 8 1800000
     (gwBlockAt s 0 0).state = .fetching ∧ 1 ∉ (gwBlockAt s 0 0).pieces ∧ gwBusy s 0 0 1 = false ∧ 8 ≤ agetD (gwBlockAt s 0 0).sends 1 0 ∧
     agetD (gwBlockAt s 0 0).sentAt 1 0 + 200000 = s.now) := by decide +kernel

theorem test_meets_FlashResponseOwner : (∀ n c, (stdAcc (.ftl 10 3) .flErase).owner ≠ .rebuild n c) ∧ (∀ p, (stdAcc (.ftl 10 3) .flErase).owner ≠ .geom p) := by
  simp [stdAcc]

def fev (n : Nat) : FaultEv := { kind := n, unitKind := 0, unit := 0 }

def withEvents (n : Nat) : State := { w with flt := { w.flt with events := (List.range n).map fev } }

theorem test_meets_FaultQueueHoldsTheOldest256 :
    (withEvents 255).flt.events.length < 256 ∧ 256 ≤ (withEvents 256).flt.events.length ∧ live (withEvents 1) = true ∧ (withEvents 1).mgmt.pasteUp = true ∧
    (withEvents 1).flt.events = fev 0 :: [] := by decide +kernel

/-- Unit 0 of the RDUs with a flit on it. -/
def onRdu : Flit := { fl 2 3 0 with ctxs := [{ kind := 0, unit := 0, n := 1 }] }

theorem test_meets_FaultsAndAlerts :
    live w = true ∧ w.mgmt.pasteUp = true ∧ (handleAt { w with eng := { w.eng with handles := [((1, 1), { granules := 1 })] } } 1 1).isSome = true ∧
    unitLive w ⟨0, 15⟩ = true ∧ unitLive w ⟨4, 3⟩ = true ∧
    ((onUnit (withFlit onRdu w) ⟨0, 0⟩).find? fun f => f.part = 1 ∧ f.slot = 0) = some onRdu ∧
    (let r := { rq 7 (.cas64 0 1) .auRead with hdr := { hd 0 9 with tag := 5 } }
     findReq (withReq r w) 7 = some r ∧ r.phase = .auRead ∧ kindTagged r.kind = true) ∧
    ({ w with flt := { w.flt with canaryDue := true } } : State).flt.canaryDue = true ∧
    (let m : Marker := { mid := 4, port := 1, why := 1, sentAt := 1000000 }
     let s : State := { w with mem := { w.mem with markers := [m] } }
     (s.mem.markers.find? fun m => m.mid = 4) = some m ∧ m.why = 1 ∧ m.sentAt + 1000000 = s.now) ∧
    (let s : State := { w with mem := { w.mem with badKeyWin := [(1, 256)] } }
     256 = agetD s.mem.badKeyWin 1 0 ∧ 1 ∉ s.sec.badkey ∧ partState s 1 ≠ 0) ∧
    (let s : State := { w with taps := [(1, { en := true, since := 64, pageAt := 2000000 })] }
     (agetD s.taps 1 {}).en = true ∧ 64 ≤ (agetD s.taps 1 {}).since) ∧
    (let s : State := { w with taps := [(1, { en := true, pageAt := 1990000 })] }
     (agetD s.taps 1 {}).pageAt + 10000 = s.now) := by decide +kernel

def twS (f : Twn → Twn) : State := { wt with twn := f wt.twn }

theorem test_meets_TwinEvents :
    live wt = true ∧ twinUp wt = true ∧
    (let s := twS fun t => { t with twinInService := some true }
     s.twn.twinInService.isSome = true ∧ s.twn.adoptPending = false ∧ s.twn.state ≠ .resyncSrc ∧ s.twn.state ≠ .resyncDst) ∧
    (twS fun t => { t with sentAt := 1999000 }).twn.sentAt + 1000 = wt.now ∧ (wt.twn.state = .paired ∧ wt.twn.returning = false ∧ wt.mgmt.state = .run ∧ wt.twn.servesOwn = true) ∧
    (twS fun t => { t with state := .resyncSrc }).twn.state = .resyncSrc ∧
    (let s := twS fun t => { t with state := .resyncDst, s2ok := true }
     s.twn.state = .resyncDst ∧ s.sec.imgBase = 0 ∧ s.sec.segSerials = [] ∧ s.twn.s2ok = true) ∧
    (let s := twS fun t => { t with resyncPct := 100, state := .resyncSrc, yielding := true }
     s.twn.resyncPct = 100 ∧ s.twn.yielding = true ∧ yieldBusy s = false) ∧
    (let s := twS fun t => { t with adoptPending := true }
     s.twn.adoptPending = true ∧ s.mem.shadow.any pendingEnt = false ∧ s.mem.accs.any replaying = false) ∧
    (let s := twS fun t => { t with servesOwn := true, epoch := 4, maxEpoch := 7 }
     let own : Claim := { oddStripe := ownOdd s, epoch := 4, ftFirst := s.twn.ownFirst }
     ((ownClaims s).find? fun o => o.oddStripe == own.oddStripe) = some own ∧ s.twn.maxEpoch < 8 ∧ 4 ≤ s.twn.maxEpoch ∧ own.epoch < 7 ∧ 3 < own.epoch) ∧
    (unitLive w ⟨0, 0⟩ = true ∧ onUnit w ⟨0, 0⟩ = [] ∧ 2 ≤ agetD ({ w.nv with mapOuts := [(⟨0, 0⟩, 2)] } : Nv).mapOuts ⟨0, 0⟩ 0) := by decide +kernel

/-- What the source of a resynchronisation sends to a plane with no image. -/
theorem test_meets_ResyncDestination :
    let s := twS fun t => { t with state := .resyncDst }
    let x : ResyncPack := { baseSerial := 0, segSerials := [], rangeDigest := rangeDigest s, parts := [], keys := [], nonces := [] }
    (x.baseSerial = s.sec.imgBase ∧ x.segSerials = s.sec.segSerials ∧ x.rangeDigest = rangeDigest s) ∧
    ¬({ x with baseSerial := 1 }.baseSerial = s.sec.imgBase ∧ x.segSerials = s.sec.segSerials ∧ x.rangeDigest = rangeDigest s) :=
  ⟨⟨rfl, rfl, rfl⟩, fun h => absurd h.1 (by decide)⟩

def seg : Seg := { img := { scope := [1] }, phase := 2 }

theorem test_meets_ImagesArriveInOrder :
    Controls w 1 ∧ live w = true ∧ uploadOk w 1 0 0 0 (32 * 2 ^ 20) (32 * 2 ^ 20) [1] = true ∧ 0 + [(1 : Byte)].length < 32 * 2 ^ 20 ∧
    (w.mgmt.uploads.any fun u => u.what == 0 && u.target == 0 && u.sess != 1) = false ∧ w.sec.segs = [] ∧
    (let s : State := { w with sec := { w.sec with segs := [seg] } }
     s.sec.segs = seg :: [] ∧ seg.phase = 2 ∧ seg.calved = false ∧ segDrained s seg = true) ∧ (imageOf [1]).partialSeg = false := by
  refine ⟨⟨_, rfl, ?_, ?_, ?_, ?_, ?_, ?_⟩, ?_, ?_, ?_, ?_, ?_, ?_, ?_⟩ <;> decide +kernel

/-- A header of 224 bytes that passes every check of an image header, where its signature verifies and its digest is that of no sections. -/
def hdrRaw : Bytes :=
  natLe 4 0x54454E52 ++ natLe 2 0x0100 ++ [0xB0, 0] ++ natLe 4 224 ++ natLe 4 0 ++ zeros 208

theorem test_meets_ImageHeader :
    let s : State := { w with nv := { w.nv with ownerKeys := [(0, [7])] } }
    Config.sha384 (sectBytes hdrRaw) = zeros 48 → Config.ecdsaOk [7] (hdrRaw.take 128) (hdrRaw.drop 128) = true →
    chkHeader s hdrRaw = none ∧ (imageOf hdrRaw).partialSeg = false := by
  intro s h g
  have hd : (imageOf hdrRaw).digest = zeros 48 := by decide +kernel
  have hk : aget s.nv.ownerKeys (imageOf hdrRaw).keyId = some [7] := by decide +kernel
  have hn : hdrRaw.length = 224 := by decide +kernel
  refine ⟨?_, by decide +kernel⟩
  unfold chkHeader
  rw [if_neg (by decide +kernel), if_neg (by decide +kernel), if_neg, if_neg (by decide +kernel)]
  rw [hd, hk, hn, h]
  simp only [Option.isNone_some, Option.getD_some, ne_eq, not_true_eq_false, Bool.false_eq_true, false_or, g]
  decide

def rind (x : RindSess) (nv : Nv) : State := { w with nv := nv, sec := { w.sec with sessions := [x], strap := true } }

def owner : RindSess := { sess := 1, ready := true, nonce := some 5 }

def nv2 : Nv := { owned := true, ownerKeys := [(1, [7]), (2, [8])], sealSecret := some 3 }

/-- An owner's session, two owner keys, and a seal secret; and a claim session on a part that may be claimed. -/
theorem test_meets_RindCommands :
    let s := rind owner nv2
    live s = true ∧ rindAt s 1 = some owner ∧ owner.ready = true ∧ owner.claim = false ∧ (rangeOf s 0).valid = true ∧ (dev s).twinPresent = false ∧
    s.nv.sealSecret = some 3 ∧ s.nv.ownGen < 4094 ∧ (s.img.ranges.any fun e => e.2.valid && e.2.sealed) = false ∧ s.nv.nonces = [] ∧
    s.nv.ownerKeys.length < 4 ∧ aget s.nv.ownerKeys 3 = none ∧ (aget s.nv.ownerKeys 2).isSome = true ∧ 1 < s.nv.ownerKeys.length ∧
    (let t := rind { owner with claim := true } {}
     (rindAt t 1).any (·.claim) = true ∧ claimOpen t = true) ∧
    (let t := { wt with sec := { s.sec with rots := [{ range := 0, sess := 1, key := 5, drain := [] }] } }
     live t = true ∧ rindAt t 1 = some owner ∧ twinUp t = true ∧ (t.sec.rots.any fun r => r.range == 0 && r.key == 5) = true ∧
     (t.sec.rots.any fun r => r.range == 0 && r.key == 6) = false ∧ (rangeOf t 0).valid = true ∧ (rangeOf t 0).key ≠ 6) := by decide +kernel

/-- Where the key verifies, a command of that session is signed; and where the blob opens, it is one that can be imported. -/
theorem test_meets_SignedCommand (cmd : Bytes) (h : Config.ecdsaOk [7] (cmd ++ Config.deviceIdHash ++ natLe 32 5) [] = true) :
    signedOk (rind owner nv2) owner cmd ⟨1, []⟩ = true ∧ (rind owner nv2).nv.ownGen < 4095 := by
  refine ⟨?_, by decide⟩
  show Config.ecdsaOk [7] (cmd ++ Config.deviceIdHash ++ natLe 32 ((5 : BitVec 256).toNat)) [] = true
  exact h

/-- An owner's session that may release the part, where the key verifies its command. -/
theorem test_meets_ReleaseReturnsToUnowned (h : Config.ecdsaOk [7] ((natLe 1 0x14 ++ []) ++ Config.deviceIdHash ++ natLe 32 5) [] = true) :
    live (rind owner nv2) = true ∧ rindAt (rind owner nv2) 1 = some owner ∧ owner.ready = true ∧ owner.claim = false ∧
    signedOk (rind owner nv2) owner (natLe 1 0x14 ++ []) ⟨1, []⟩ = true ∧ (rind owner nv2).nv.ownGen < 4095 :=
  ⟨rfl, by decide +kernel, rfl, rfl, (test_meets_SignedCommand _ h).1, by decide⟩

/-- A session that has drawn no nonce has no signed command. -/
theorem test_meets_UnsignedOwnerCommandsChangeNothing :
    let x := { owner with nonce := none }
    live (rind x nv2) = true ∧ rindAt (rind x nv2) 1 = some x ∧ x.ready = true ∧ x.claim = false ∧
    ∀ cmd, signedOk (rind x nv2) x cmd ⟨1, []⟩ = false := ⟨rfl, by decide +kernel, rfl, rfl, fun _ => rfl⟩

theorem test_meets_SpdmAnswers :
    live w = true ∧ (∃ b, measurement w 7 = some b) ∧ w.sec.sessions.length < 4 ∧ rindAt w 1 = none ∧ (∃ y, sessAt w 1 = some y ∧ y.claim = false) ∧
    (let x : RindSess := { sess := 1 }
     let s := rind x { owned := true, crl := [4] }
     rindAt s 1 = some x ∧ x.ready = false ∧ x.claim = false ∧ s.nv.owned = true ∧ (Config.chainSerials [] = [] → revoked s [] 5 = false) ∧ revoked s [] 4 = true) := by
  refine ⟨?_, ⟨_, rfl⟩, ?_, ?_, ⟨_, rfl, ?_⟩, ?_, ?_, ?_, ?_, ?_, ?_⟩
  all_goals first
    | decide +kernel
    | (intro h; simp only [revoked, h]; decide)

def mgmtS (f : Mgmt → Mgmt) : State := { w with mgmt := f w.mgmt }

theorem test_meets_ObserversDrawNotController :
    let s := mgmtS fun m => { m with controller := none }
    sessAt s 1 = some { sess := 1, helloOk := true } ∧ s.mgmt.pasteUp = true ∧ s.mgmt.controller ≠ some 1 ∧ 0x30 ∉ [0x01, 0x02, 0x23, 0x70, 0x80, 0x81] := by
  decide +kernel

theorem test_meets_SessionsAndPasteRestarts :
    live w = true ∧ w.mgmt.pasteUp = true ∧ w.mgmt.sessions.length < 8 ∧ sessAt w 2 = none ∧ (rind owner nv2).nv.owned = true ∧
    (sessAt w 1).isSome = true ∧ levelRefuses w 0x0102 = false ∧ levelRefuses w 0x0101 = true ∧ 5 ∉ w.mgmt.coresOut ∧
    (w.mgmt.coreRestarts.any fun e => decide (w.now < e.2 + anHour) && e.1 == 5) = false := by decide +kernel

/-- Where the chain gives no other serial, a certificate of serial 5 is not revoked by a list of 4; and a body one byte over 1 MiB + 64 is too long. -/
theorem test_meets_RevokedOrLong :
    (Config.chainSerials [] = [] → revoked (rind owner { nv2 with crl := [4] }) [] 5 = false) ∧ revoked (rind owner { nv2 with crl := [4] }) [] 4 = true ∧
    2 ^ 20 + 64 < 9 + (List.replicate (2 ^ 20 + 56) (0 : Byte)).length ∧ 9 + (List.replicate (2 ^ 20 + 55) (0 : Byte)).length ≤ 2 ^ 20 + 64 := by
  refine ⟨fun h => by simp only [revoked, h]; decide +kernel, by simp [revoked, rind], ?_, ?_⟩ <;> rw [List.length_replicate] <;> decide

/-- Each command in the state it needs, and in one it is refused in; an image that the firmware key signs fills the other slot. -/
theorem test_meets_FirmwareAndPlaneCommands :
    live w = true ∧ Controls w 1 ∧ uploadOk w 1 1 0 0 1 (4 * 2 ^ 20) [1] = true ∧ uploadOk w 1 1 0 1 1 (4 * 2 ^ 20) [1] = false ∧
    (w.mgmt.uploads.any fun u => u.what == 1 && u.target == 0 && u.sess != 1) = false ∧
    ((setStaged false false (setSlot false (otherSlot w false) {} w)).mgmt.uploads = w.mgmt.uploads) ∧
    (Config.aeddunKeyOk false [1] = true → (stagedSlot w false [1]).isSome = true) ∧
    (let s := mgmtS fun m => { m with state := .drained }
     idlePlane s = true ∧ s.sec.segs = [] ∧ s.mgmt.uploads = [] ∧ emergency s = false ∧ (rindSlot s false).valid = true ∧ s.nv.rindSlotB = false ∧
     (dev s).twinPresent = false ∧ (pasteSlot s false).valid = true ∧ (pasteSlot s true).valid = false ∧
     emergency { s with pwr := { s.pwr with thermEmerg := true } } = true) ∧ idlePlane w = false ∧
    (bgHolds wt 2 0 = false ∧ wt.mgmt.state = .run ∧ wt.twn.state = .paired) ∧
    (bgHolds { wt with mgmt := { wt.mgmt with bgs := [{ command := 0x30, sess := 1, obj := 2, num := 0 }] } } 2 0 = true ∧ 3 ≤ coresUp w ∧
      coresUp { w with mgmt := { w.mgmt with coresOut := [0, 1, 2, 3] } } < 3) ∧ ((dev wt).twinPresent = true ∧ wt.mgmt.state ≠ .drained) ∧
    (let s : State := { wt with mgmt := { wt.mgmt with state := .drained }, twn := { wt.twn with twinInService := some true } }
     s.mgmt.state = .drained ∧ 3 ≤ coresUp s ∧ (dev s).twinPresent = true ∧ s.twn.twinInService = some true ∧ s.twn.state ≠ .lost) ∧
    (let s : State := { wt with mgmt := { wt.mgmt with state := .draining } }
     s.mgmt.state = .draining ∧ twinUp s = true) := by
  refine ⟨?_, ⟨_, rfl, ?_, ?_, ?_, ?_, ?_, ?_⟩, ?_, ?_, ?_, ?_, ?_, ?_, ?_, ?_, ?_, ?_, ?_⟩
  all_goals first
    | decide +kernel
    | (intro h; simp only [stagedSlot, h]; decide +kernel)

theorem test_meets_ProsisCommands :
    Controls w 1 ∧ ({ source := 1 } : Ftm).source = 1 ∧
    (aget (schedS false).ftm.active.flows 5 = some flow3 ∧ flow3.kind = 3 ∧ ftFrame (schedS false) + 2 ≤ 2 ∧
      ((ftmS {}).ftm.streams.any fun x => x.schedId == 5) = false ∧ ((schedS false).ftm.streams.any fun x => x.schedId == 5) = true) ∧
    (ownRange w 0 = true ∧ bgHolds w 0 0 = false ∧ (rangeOf w 0).firn = true ∧ pinBlocks w 0 - pinHeld w 0 ≤ firnAllot w (rangeOf w 0).owner * 16384 - firnUse w 1) ∧
    (let s := { w with img := { w.img with ranges := [(0, { rangeOf w 0 with size := 1 }), (1, { rangeOf w 1 with size := 1 })] } }
     dsPair s 1 0 = true ∧ (s.ftl.loads.any fun l => l.target == 1) = false ∧ (dsTake (dsBlocks s 1) s []).isSome = true) ∧
    (w.mgmt.subs.length < 16 ∧
      telemFits w (w.mgmt.subs ++ [{ subId := 0, sess := 1, periodMs := 1000, scope := 0, part := 0, groups := 1 }]) = true) ∧
    ((mgmtS fun m => { m with subs := [{ subId := 2, sess := 1, periodMs := 1, scope := 0, part := 0, groups := 1 }] }).mgmt.subs.any
      fun u => u.subId == 2 && u.sess == 1) = true ∧
    bgHolds w 3 127 = false ∧ partState { w with pstate := [(127, 2)] } 127 = 2 ∧ (aget w.img.ports 4).isSome = true ∧
    idlePlane (mgmtS fun m => { m with state := .drained }) = true := by
  refine ⟨⟨_, rfl, ?_, ?_, ?_, ?_, ?_, ?_⟩, ?_, ?_, ?_, ?_, ?_, ?_, ?_, ?_, ?_, ?_⟩ <;> decide +kernel

theorem test_meets_PowerStates :
    live w = true ∧ emergency w = false ∧ noneActive w = false ∧ noneActive { w with pstate := [(1, 2)] } = true ∧ w.pwr.pstate ≠ 3 ∧
    (dev w).twinPresent = false ∧ (mgmtS fun m => { m with state := .held }).mgmt.state = .held ∧ 3 < 4 := by decide +kernel

theorem test_meets_RegistersAndManagement :
    live w = true ∧ w.mgmt.pasteUp = true ∧ gctrAt 0x600 = some .calveCnt ∧ GCtr.calveCnt ≠ .sramCorr ∧ portOff w 0x100208 = some (0, 0x208) ∧
    pctrAt 0x208 = some .chkBadkey ∧ bitAt (1 : Word64).toNat 0 = true ∧ bitAt (258 : Word64).toNat 8 = true ∧ bitAt (2 : Word64).toNat 8 = false ∧
    pldmValue w 38 = some 2 ∧ pldmValue w 39 = none ∧ (mgmtS fun m => { m with pasteUp := false }).mgmt.pasteUp = false ∧
    ({ w with gctr := [(.calveCnt, 3)] } : State).gctr = [(.calveCnt, 3)] ∧
    (let s := { mgmtS (fun m => { m with subs := [{ subId := 2, sess := 1, periodMs := 1, scope := 0, part := 0, groups := 1 }] }) with
       ftm := { ftFix := 1000001 * 2 ^ 40 } }
     (s.mgmt.subs.find? fun u => u.subId = 2).isSome = true ∧ ft s % (1 * 1000000) < 2) ∧
    portIs w 2 2 0 = true ∧ portUp w 2 = true := by decide +kernel

theorem test_meets_DeadPackageIgnoresCommands :
    let s : State := { w with pwr := { w.pwr with heldCold := true } }
    live s = false ∧ timeUnitOn s = false ∧ timeUnitOn { w with pwr := { w.pwr with heldWarm := true } } = true := by decide

theorem test_meets_ResetPins :
    w.pwr.thermtrip = false ∧ ({ w.pwr with thermtrip := true } : Pwr).thermtrip = true ∧ (w.pwr.on = true ∧ w.pwr.heldCold = false ∧ w.pwr.heldWarm = false) ∧
    ({ w.pwr with heldWarm := true } : Pwr).heldWarm = true := by decide

/-- R515: 10,496 sites hold a ball; Table 18.1: 1,280 in each lane field, 4,096 in the centre and 320 in each corner. -/
theorem test_ball_sites :
    let sites := (List.range 104).flatMap fun r => (List.range 104).map fun c => fieldOf (r + 1) (c + 1)
    sites.count (some (.lanes 0)) = 1280 ∧ sites.count (some (.lanes 3)) = 1280 ∧ sites.count (some .centre) = 4096 ∧
    sites.count (some .northWest) = 320 ∧ sites.count (some .otherCorner) = 960 ∧ sites.count none = 320 := by decide +kernel

/-- R517's worked example: lane 300. -/
theorem test_lane_balls :
    laneBalls 300 = { txp := (99, 45), txn := (99, 46), rxp := (97, 45), rxn := (97, 46) } ∧ depthUse 6 = .tx 1 ∧ depthUse 8 = .rx 1 ∧
    fieldOf 97 45 = some (.lanes 2) ∧ refclk156Of 2 5 = 4 ∧ refclk156Of 0 0 = 0 := by decide

/-- Table 18.3 gives the north-west corner 96 signals. -/
theorem test_corner_signals :
    ((List.range 21).flatMap fun r => (List.range 21).filterMap (signalAt r)).length = 96 ∧ signalAt 19 6 = some .pwrgd ∧
    signalAt 7 20 = some (.sense 9 true) ∧ signalAt 9 16 = some (.refclk156 7 true) := by decide

/-- R474: after the loss of its core a service moves to the lowest core that is left; the links' service home is core 0. -/
theorem test_service_moves :
    serviceCores w .links = [0] ∧ serviceCores (mgmtS fun m => { m with coresOut := [0] }) .links = [1] ∧
    serviceCores (mgmtS fun m => { m with coresOut := [1] }) .flash = [0, 2] := by decide

/-- R520: while VDD_CD changes from 750 to 800 mV its levels are taken from the lower. -/
theorem test_levels_during_a_change :
    let p : Pwr := { w.pwr with vddSet := 800, vddOld := 750, vddUntil := 15000 }
    levelPoint { w with now := 14999, pwr := p } 0 = 750 ∧ levelPoint { w with now := 15000, pwr := p } 0 = 800 := by decide

/-- A rail 1 mV below 95 % and one 1 mV below 90 % of 1,200 mV, and a sensor at exactly 100 and at exactly 110 degrees. -/
theorem test_meets_SupplyAndHeat :
    live w = true ∧ 20 * 1139 < 19 * levelPoint w 3 ∧ ¬ 20 * 1140 < 19 * levelPoint w 3 ∧ 10 * 1079 < 9 * levelPoint w 3 ∧ ¬ 10 * 1080 < 9 * levelPoint w 3 ∧
    w.pwr.supplyThr = false ∧ w.pwr.thermalThr = false ∧ w.pwr.event = none ∧ (400 : Int) ≤ signed 16 400 ∧ (440 : Int) ≤ signed 16 440 ∧
    w.pwr.pstate ≠ 3 ∧ ({ w.pwr with pstate := 3 } : Pwr).pstate = 3 := by decide +kernel

end Sys2Proof.Tests
end

section
/-! PROOFS. Register reads and writes, the counters, telemetry and the management protocols (O57): rules about the counters and the accessors first, then one
lemma for what each command makes, then the statement. -/

namespace Sys2Proof.Machine

/-! ## Association lists and sums -/

section Maps
variable {κ α : Type} [DecidableEq κ]

/-- A set leaves the entries of every other key as they are, repeated ones too. -/
theorem filter_aset_other (m : List (κ × α)) (k j : κ) (v : α) (h : j ≠ k) :
    (aset m k v).filter (fun e => e.1 = j) = m.filter (fun e => e.1 = j) := by
  induction m with
  | nil => simp [aset, Ne.symm h]
  | cons e t ih =>
    obtain ⟨x, y⟩ := e
    unfold aset
    split
    · next hx => subst hx; simp [Ne.symm h]
    · simp [List.filter_cons, ih]

theorem sumOf_eq_sum (l : List Nat) : sumOf l = l.sum := List.sum_eq_foldl.symm

/-- Adding every entry of `l` to the totals `m` raises the total of a key by the sum of that key's entries. -/
theorem agetD_foldl_amod_add (l : List (κ × Word64)) (m : List (κ × Nat)) (k : κ) :
    agetD (l.foldl (fun t c => amod t c.1 0 (· + c.2.toNat)) m) k 0 =
      agetD m k 0 + sumOf ((l.filter fun e => e.1 = k).map fun e => e.2.toNat) := by
  induction l generalizing m with
  | nil => rfl
  | cons e l ih =>
    rw [List.foldl_cons, ih]
    by_cases hk : e.1 = k
    · subst hk; simp [sumOf_eq_sum, Nat.add_assoc]
    · rw [agetD_amod_other m e.1 k 0 _ (Ne.symm hk), List.filter_cons_of_neg (by simpa using hk)]

end Maps

/-! ## Running a command that only acts while the package is live -/

theorem makes_of_run {c : Instr} {f : State → State} {s t : State} (h : live s = true) (e : exec c s = run f s) (ht : f s = t) : Makes c s t := by
  rw [Makes, e, run_live f s h, ht]

theorem makesR_of_runR {c : Instr} {f : State → State} {s t : State} (h : live s = true) (e : exec c s = runR f s) (ht : f s = t) : MakesR c s t := by
  rw [MakesR, Makes, e, runR_live f s h, ht]

/-! ## The RC counters (R7, R411) -/

/-- A device-wide count changes the device-wide counters only. -/
theorem bumpG_eq (c : GCtr) (n : Nat) (s : State) : ∃ l, bumpG c n s = { s with gctr := l } := by
  unfold bumpG; split
  · exact ⟨s.gctr, rfl⟩
  · exact ⟨_, rfl⟩

/-- A count leaves the entries of the other counters as they are. -/
theorem filter_gctr_bumpG_other (c d : GCtr) (n : Nat) (s : State) (h : d ≠ c) :
    (bumpG c n s).gctr.filter (fun e => e.1 = d) = s.gctr.filter (fun e => e.1 = d) := by
  unfold bumpG; split
  · rfl
  · exact filter_aset_other s.gctr c d _ h

/-- The device-wide counters lie below the port blocks (Table 13.11). -/
theorem gctrAt_lt {o : Nat} {c : GCtr} (h : gctrAt o = some c) : o < 0x100000 := by
  unfold gctrAt at h
  split at h <;> cases h <;> decide

/-- SRAM_CORR stands at 0x638 alone. -/
theorem gctrAt_ne_sramCorr {o : Nat} {c : GCtr} (h : gctrAt o = some c) (n : c ≠ .sramCorr) : o ≠ 0x638 := by
  rintro rfl
  exact n (Option.some.inj h).symm

theorem gctrAt_ne_faultEvent {o : Nat} {c : GCtr} (h : gctrAt o = some c) : o ≠ 0x648 := by
  rintro rfl
  cases h

theorem portOff_ge {s : State} {o : Nat} {x : Nat × Nat} (h : portOff s o = some x) : 0x100000 ≤ o := by
  unfold portOff at h
  split at h
  · next hc => exact hc.1
  · cases h

theorem gctrAt_of_portOff {s : State} {o : Nat} {x : Nat × Nat} (h : portOff s o = some x) : gctrAt o = none := by
  have ho := portOff_ge h
  cases hg : gctrAt o with
  | none => rfl
  | some c => have := gctrAt_lt hg; omega

theorem readReg_of_gctrAt {s : State} {o : Nat} {c : GCtr} (h : gctrAt o = some c) : readReg s o = agetD s.gctr c 0 := by
  simp [readReg, h]

theorem readReg_of_pctrAt {s : State} {o p r : Nat} {k : PCtr} (h : portOff s o = some (p, r)) (hk : pctrAt r = some k) :
    readReg s o = agetD s.pctr (p, k) 0 := by
  simp [readReg, gctrAt_of_portOff h, h, hk]

/-- A read of a device-wide counter other than SRAM_CORR answers its value and clears it. -/
theorem rcRead_of_gctrAt (s : State) {o : Nat} {c : GCtr} (h : gctrAt o = some c) (n : c ≠ .sramCorr) :
    rcRead o s = { tell (.reg o (agetD s.gctr c 0)) s with gctr := adel s.gctr c } := by
  simp only [rcRead, gctrAt_ne_faultEvent h, gctrAt_ne_sramCorr h n, if_false, h, readReg_of_gctrAt h]
  rfl

/-- A read of SRAM_CORR takes the corrections seen meanwhile before it answers and clears. -/
theorem rcRead_sramCorr (s : State) :
    rcRead 0x638 s = { tell (.reg 0x638 (agetD (sramNote s).gctr .sramCorr 0)) (sramNote s) with gctr := adel (sramNote s).gctr .sramCorr } := rfl

/-- A read of a port's counter answers its value and clears it. -/
theorem rcRead_of_pctrAt (s : State) {o p r : Nat} {k : PCtr} (h : portOff s o = some (p, r)) (hk : pctrAt r = some k) :
    rcRead o s = { tell (.reg o (agetD s.pctr (p, k) 0)) s with pctr := adel s.pctr (p, k) } := by
  have ho := portOff_ge h
  have h1 : o ≠ 0x648 := by omega
  have h2 : o ≠ 0x638 := by omega
  simp only [rcRead, h1, h2, if_false, gctrAt_of_portOff h, readReg_of_pctrAt h hk, h, hk, Option.bind_some, Option.map_some]
  rfl

/-- The counters take no writes (R7). -/
theorem regWrite_of_gctrAt (s : State) (v : Nat) {o : Nat} {c : GCtr} (h : gctrAt o = some c) : regWrite o v s = s := by
  unfold gctrAt at h
  split at h <;> cases h <;> rfl

/-! ## The Paste's totals (R486) -/

theorem sramNote_eq (s : State) : ∃ l, sramNote s = { s with gctr := l, freeIx := s.freeIx + 1 } := bumpG_eq _ _ _

theorem accumulate_totG (s : State) (c : GCtr) (h : c ≠ .sramCorr) : agetD (accumulate s).mgmt.totG c 0 =
    agetD s.mgmt.totG c 0 + sumOf ((s.gctr.filter fun e => e.1 = c).map fun e => e.2.toNat) := by
  obtain ⟨l, hl⟩ := sramNote_eq s
  have hf : (sramNote s).gctr.filter (fun e => e.1 = c) = s.gctr.filter (fun e => e.1 = c) := filter_gctr_bumpG_other .sramCorr c _ _ h
  have hm : (sramNote s).mgmt.totG = s.mgmt.totG := by rw [hl]
  rw [← hf, ← hm]
  exact agetD_foldl_amod_add _ _ c

theorem accumulate_totP (s : State) (k : Nat × PCtr) : agetD (accumulate s).mgmt.totP k 0 =
    agetD s.mgmt.totP k 0 + sumOf ((s.pctr.filter fun e => e.1 = k).map fun e => e.2.toNat) := by
  obtain ⟨l, hl⟩ := sramNote_eq s
  have hp : (sramNote s).pctr = s.pctr := by rw [hl]
  have hm : (sramNote s).mgmt.totP = s.mgmt.totP := by rw [hl]
  rw [← hp, ← hm]
  exact agetD_foldl_amod_add _ _ k

/-- Besides the totals, the counters and one free value nothing changes. -/
theorem accumulate_frame (s : State) : accumulate s = { s with
    gctr := [], pctr := [], freeIx := s.freeIx + 1
    mgmt := { s.mgmt with totG := (accumulate s).mgmt.totG, totP := (accumulate s).mgmt.totP } } := by
  obtain ⟨l, hl⟩ := sramNote_eq s
  simp only [accumulate, hl]
  rfl

/-! ## Telemetry (R485) -/

/-- The state on which a due sample is skipped or sent: the counters are in the totals, and the free bit that decides is taken. -/
def sampled (s : State) : State := { accumulate s with freeIx := (accumulate s).freeIx + 1 }

/-- The skipped count of a subscription becomes `f` of itself. -/
def setSkipped (i : Nat) (f : Nat → Nat) (s : State) : State :=
  setMgmt (fun m => { m with subs := modFirst (fun x => x.subId = i) (fun x => { x with skipped := f x.skipped }) m.subs }) s

theorem sampled_ft (s : State) : ft (sampled s) = ft s := by
  rw [sampled, accumulate_frame]
  rfl

theorem sampled_ctrEpoch (s : State) : (sampled s).mgmt.ctrEpoch = s.mgmt.ctrEpoch := by
  rw [sampled, accumulate_frame]

/-- A due sample is skipped and counted, or sent, as the next free bit has it. -/
theorem telemSample_due {s : State} {i : Nat} {u : Sub} (hp : s.mgmt.pasteUp = true) (hu : (s.mgmt.subs.find? fun u => u.subId = i) = some u)
    (hd : ft s % (u.periodMs * 1000000) < 2) : telemSample i s =
      if Config.freeNat (accumulate s).freeIx % 2 = 1 then bumpG .telemSkip 1 (setSkipped i (· + 1) (sampled s))
      else tell (.sample u.sess i s.mgmt.ctrEpoch (ft s) u.skipped (sampleBody (sampled s) u))
        (setSkipped i (fun _ => 0) { sampled s with freeIx := (sampled s).freeIx + 256 }) := by
  have hn : ¬ ((!s.mgmt.pasteUp) = true ∨ ft s % (u.periodMs * 1000000) ≥ 2) := by simpa [hp] using hd
  rw [← sampled_ft s, ← sampled_ctrEpoch s]
  simp only [telemSample, hu]
  rw [if_neg hn]
  rfl

/-! ## The other registers (R7, R534) and the event log (R488) -/

/-- A one written to a write-one-to-clear bit of a first-event log empties it. -/
theorem regWrite_clears_logs (s : State) {v : Nat} (hv : bitAt v 0 = true) :
    regWrite 0x608 v s = { s with flt := { s.flt with calveLog := none } } ∧
    regWrite 0x10048 v s = setSec (fun c => { c with result := {} }) s ∧
    regWrite 0x20018 v s = setTwn (fun t => { t with invLog := none }) s ∧
    regWrite 0x820 v s = setPwr (fun w => { w with event := none }) s ∧
    regWrite 0x80050 v s = { s with eng := { s.eng with disc := {} } } :=
  ⟨if_pos hv, if_pos ⟨rfl, hv⟩, if_pos ⟨rfl, hv⟩, if_pos hv, if_pos hv⟩

theorem tempSelWrite_select (s : State) {v : Nat} (hv : bitAt v 8 = false) :
    tempSelWrite v s = setPwr (fun w => { w with tempSel := bits v 0 4 }) s := by
  simp [tempSelWrite, hv]

/-- GLB_TEMP_MAX of the sensor written begins again from its reading. -/
theorem tempSelWrite_clear (s : State) {v : Nat} (hv : bitAt v 8 = true) : tempSelWrite v s =
    setPwr (fun w => { w with tempSel := bits v 0 4, tempMax := w.tempMax.set (bits v 0 4) (w.temps.getD (bits v 0 4) 0) }) s := by
  simp [tempSelWrite, hv]

theorem eventLog_of_pasteUp {s : State} (hp : s.mgmt.pasteUp = true) :
    eventLog s = setNv (fun v => { v with log := ((ft s, s.mgmt.evSeq) :: v.log).take 327680 }) s :=
  if_neg (by rw [hp]; exact Bool.false_ne_true)

/-! ## The PLDM sensors (R495) -/

theorem pldmValue_temp (s : State) {k : Nat} (h : k < 16) : pldmValue s k = some (tempOf s k) := if_pos h

theorem pldmValue_voltage (s : State) {k : Nat} (h : k < 10) : pldmValue s (17 + k) = some (s.pwr.mvs.getD k 0) := by
  have h1 : ¬ 17 + k < 16 := by omega
  have h2 : 17 + k ≠ 16 := by omega
  have h3 : 17 + k < 27 := by omega
  simp only [pldmValue, h1, h2, h3, if_false, if_true, Nat.add_sub_cancel_left]

theorem pldmValue_current (s : State) {k : Nat} (h : k < 10) : pldmValue s (27 + k) = some (s.pwr.currents.getD k 0) := by
  have h1 : ¬ 27 + k < 16 := by omega
  have h2 : 27 + k ≠ 16 := by omega
  have h3 : ¬ 27 + k < 27 := by omega
  have h4 : 27 + k < 37 := by omega
  simp only [pldmValue, h1, h2, h3, h4, if_false, if_true, Nat.add_sub_cancel_left]

/-! ## What each command makes on a live package -/

section Commands
variable {s t : State} (h : live s = true)
include h

theorem makes_rcRegisterRead (hp : s.mgmt.pasteUp = true) {o : Nat} (ht : rcRead o s = t) : Makes (.rcRegisterRead o) s t :=
  makes_of_run h rfl ((byPaste_up _ s hp).trans ht)

theorem makesR_registerWrite (hp : s.mgmt.pasteUp = true) {o : Nat} {v : Word64} (ht : regWrite o v.toNat s = t) : MakesR (.registerWrite o v) s t :=
  makesR_of_runR h rfl ((byPaste_up _ s hp).trans ht)

theorem makes_tempMaxClear (hp : s.mgmt.pasteUp = true) {v : Word64} (ht : tempSelWrite v.toNat s = t) : Makes (.tempMaxClear v) s t :=
  makes_of_run h rfl ((byPaste_up _ s hp).trans ht)

theorem makes_counterAccumulate (hp : s.mgmt.pasteUp = true) : Makes .counterAccumulate s (accumulate s) :=
  makes_of_run h rfl (byPaste_up _ s hp)

theorem makes_eventLogWrite (ht : eventLog s = t) : Makes .eventLogWrite s t :=
  makes_of_run h rfl ht

theorem makes_telemSample {i : Nat} (ht : telemSample i s = t) : Makes (.telemSample i) s t :=
  makes_of_run h rfl ht

theorem makes_cxlIoRequest (hp : s.mgmt.pasteUp = true) {p c : Nat} (hr : portIs s p 2 0 = true) (hu : portUp s p = true) :
    Makes (.cxlIoRequest p c) s (tell (.cxlIo p c (Config.freeNat s.freeIx)) { s with freeIx := s.freeIx + 1 }) := by
  show execCxlIoRequest p c s = _
  rw [execCxlIoRequest, run_live _ s h, if_pos ⟨hr, hu, hp⟩]
  rfl

theorem makes_mctpControl (c : Nat) : Makes (.mctpControl c) s (tell (.mctp c (Config.freeNat s.freeIx)) { s with freeIx := s.freeIx + 1 }) := by
  show execMctpControl c s = _
  rw [execMctpControl, run_live _ s h]
  rfl

theorem makes_pldmGetSensor {k v : Nat} (hv : pldmValue s k = some v) : Makes (.pldmGetSensor k) s (tell (.pldm k v) s) := by
  show execPldmGetSensor k s = _
  rw [execPldmGetSensor, run_live _ s h, hv]

/-- Without the Paste its registers are neither read nor written. -/
theorem registers_rest_of_pasteDown (hp : s.mgmt.pasteUp = false) (o : Nat) (v : Word64) :
    Makes (.rcRegisterRead o) s s ∧ MakesR (.registerWrite o v) s s :=
  ⟨makes_of_run h rfl (byPaste_down _ s hp), makesR_of_runR h rfl (byPaste_down _ s hp)⟩

end Commands

/-- Settles O57: each clause is the command's effect on a live package, read off the lemmas above. -/
theorem registersAndManagement : Obligations.RegistersAndManagement := by
  unfold Obligations.RegistersAndManagement
  intro s h
  refine ⟨fun hp => ⟨?readG, ?readSram, ?readP, ?writeCtr, ?writeLog, ?write, ?temp, ?acc, ?log, ?sample, ?cxl⟩,
    fun hp o v => registers_rest_of_pasteDown h hp o v, makes_mctpControl h, fun _ _ => makes_pldmGetSensor h,
    fun _ => pldmValue_temp s, fun _ => pldmValue_voltage s, fun _ => pldmValue_current s, rfl, rfl⟩
  case readG => exact fun o c hc hn => makes_rcRegisterRead h hp (rcRead_of_gctrAt s hc hn)
  case readSram => exact makes_rcRegisterRead h hp (rcRead_sramCorr s)
  case readP => exact fun o p r k ho hk => makes_rcRegisterRead h hp (rcRead_of_pctrAt s ho hk)
  case writeCtr => exact fun o c v hc => makesR_registerWrite h hp (regWrite_of_gctrAt s v.toNat hc)
  case writeLog =>
    intro v hv
    obtain ⟨hcalve, himg, htwin, hpower, hdisc⟩ := regWrite_clears_logs s hv
    exact ⟨makesR_registerWrite h hp hcalve, makesR_registerWrite h hp himg, makesR_registerWrite h hp htwin,
      makesR_registerWrite h hp hpower, makesR_registerWrite h hp hdisc⟩
  case write => exact fun o v => makesR_registerWrite h hp rfl
  case temp =>
    exact fun v => ⟨fun hv => makes_tempMaxClear h hp (tempSelWrite_select s hv), fun hv => makes_tempMaxClear h hp (tempSelWrite_clear s hv)⟩
  case acc =>
    exact ⟨accumulate s, makes_counterAccumulate h hp, rfl, rfl, accumulate_totG s, accumulate_totP s, accumulate_frame s⟩
  case log => exact makes_eventLogWrite h (eventLog_of_pasteUp hp)
  case sample =>
    intro u i hu hd
    have hs := telemSample_due hp hu hd
    exact ⟨fun hb => makes_telemSample h (hs.trans (if_pos hb)),
      fun hb => makes_telemSample h (hs.trans (if_neg (by rw [hb]; exact Nat.zero_ne_one)))⟩
  case cxl => exact fun p c => makes_cxlIoRequest h hp

end Sys2Proof.Machine
end

section
/-! PROOFS. The events of a request in flight, the twin's forwarded requests, markers, the LOAD window and the mirror's control (O15, O18): one lemma for what
each command makes, then the statements. -/

namespace Sys2Proof.Machine

theorem makesE_of_runE {c : Instr} {f : State → State} {s t : State} (h : live s = true) (e : exec c s = runE f s) (ht : f s = t) : MakesE c s t := by
  rw [MakesE, Makes, e, runE_live f s h, ht]

/-! ## Requests in the phase an event names -/

theorem not_auDone_of_inDispatch {r : Req} (h : inDispatch r = true) : r.phase ≠ .auDone := by
  intro hp
  simp [inDispatch, hp] at h

theorem notApplied_of_untagged {r : Req} (h : kindTagged r.kind = false) (s : State) : notApplied r s = s := by
  simp [notApplied, h]

section Events
variable {s : State} {id : Nat} {r : Req} (h : live s = true) (hr : findReq s id = some r)
include h hr

theorem makesE_forwardedResponse (a : Rsp) (hp : r.phase = .fwd) :
    MakesE (.forwardedResponse id a) s (finishRetire id a.status a.result a.data s) := by
  show execForwardedResponse id a s = _
  rw [execForwardedResponse, runE_live _ s h]
  simp only [hr, hp, if_true]

theorem makesE_dispatchDeadline (hd : inDispatch r = true) (ht : r.accAt + 3000 ≤ s.now) (hk : kindTagged r.kind = false) :
    MakesE (.dispatchDeadline id) s
      (let t := dropQueued (accOf id) (bumpG .deadlineDisp 1 s)
        let u := finishRetire id .retryLater 0 [] (if r.phase = .fifo then payloadStays r t else t)
        pump r.hdr.port (u.mem.reqs.length + 1) u) := by
  refine makesE_of_runE h rfl ?_
  simp only [dispatchExpire, hr, if_neg (Nat.not_lt.mpr ht), not_auDone_of_inDispatch hd, false_and, if_false, hd, Bool.not_true,
    Bool.false_eq_true, hk, notApplied_of_untagged hk, List.foldl_nil]

theorem makesE_executionDeadline {t : Nat} (hd : r.dispAt = some t) (hl : r.released = false) (hp : r.phase ≠ .fence) (ht : t + 11000 ≤ s.now) :
    MakesE (.executionDeadline id) s
      (expired id ((((s.mem.accs.filter fun a => decide (id ∈ servedBy s a) && decide (a.state = .sent) && !a.viaTwin).map (·.port)).foldl addOnce []).foldl
        (fun s p => suspectPort p s) (bumpG .deadlineExec 1 s))) := by
  have hn : ¬(r.released = true ∨ r.phase = .fence ∨ s.now < t + 11000) := by
    simp only [hl, hp, Nat.not_lt.mpr ht, Bool.false_eq_true, or_self, not_false_eq_true]
  exact makesE_of_runE h rfl (by simp only [execExpire, hr, hd, if_neg hn])

theorem makesE_lineLock (hp : r.phase = .lock) (hk : isPublish r.kind = false) : MakesE (.lineLockAcquired id) s (goLock id s) := by
  show execLineLockAcquired id s = _
  rw [execLineLockAcquired, runE_live _ s h]
  simp only [hr, hp, ne_eq, not_true_eq_false, if_false]
  cases hc : r.kind with
  | publish => rw [hc] at hk; cases hk
  | _ => rfl

theorem makesE_lineLock_publish (hp : r.phase = .lock) (hk : isPublish r.kind = true) (h2 : r.stage = 2) :
    MakesE (.lineLockAcquired id) s (casStart id s) := by
  show execLineLockAcquired id s = _
  rw [execLineLockAcquired, runE_live _ s h]
  simp only [hr, hp, ne_eq, not_true_eq_false, if_false]
  cases hc : r.kind with
  | publish => simp only [h2, if_true]
  | _ => rw [hc] at hk; cases hk

theorem makesE_fenceComplete (hp : r.phase = .fence) (hf : r.finalSt ≠ .fenceIncomplete) (hw : r.waits = []) (hm : r.markers = []) :
    MakesE (.fenceComplete id) s (finishRetire id .ok 0 [] s) :=
  makesE_of_runE h rfl (by simp only [fenceTry, hr, hp, ne_eq, not_true_eq_false, if_false, if_neg hf, hw, hm, and_self, if_true])

theorem makesE_fenceTimeout (hp : r.phase = .fence) (ht : r.accAt + 16000 ≤ s.now) :
    MakesE (.fenceTimeout id) s
      (let t := finishRetire id .fenceIncomplete 0 [] (bumpP r.hdr.port .fenceInc 1 s)
       { t with mem := { t.mem with calveDue := t.mem.calveDue ++ [(2, r.hdr.part)] } }) := by
  show execFenceTimeout id s = _
  rw [execFenceTimeout, runE_live _ s h]
  have hd : r.phase = .fence ∧ s.now ≥ r.accAt + 16000 := ⟨hp, ht⟩
  simp only [hr, if_pos hd, fenceFail]

theorem makesE_cxlWerrCompletion (hp : r.phase = .werr) (ha : partActive s r.hdr.part = false) :
    MakesE (.cxlWerrCompletion id) s (retire id (portAnswer r (rspOf s r r.finalSt 0 []) s)) :=
  makesE_of_runE h rfl (by simp [werrComplete, hr, hp, ha])

theorem makesE_rspReservation (hp : r.phase = .rsp) (hk : ∀ w, r.kind ≠ .opFlit w) : MakesE (.rspReservation id) s (goRsp id s) := by
  show execRspReservation id s = _
  rw [execRspReservation, runE_live _ s h]
  cases hc : r.kind with
  | opFlit w => exact absurd hc (hk w)
  | _ => simp only [hr, hp, hc, ne_eq, not_true_eq_false, if_false]

theorem makesE_rspReservation_opFlit (hp : r.phase = .rsp) {w : BitVec 512} (hk : r.kind = .opFlit w) :
    MakesE (.rspReservation id) s (goSubmit id s) := by
  show execRspReservation id s = _
  rw [execRspReservation, runE_live _ s h]
  simp only [hr, hp, ne_eq, not_true_eq_false, if_false, hk]

theorem makesE_limitHoldRelease (hp : r.phase = .fifo) : MakesE (.limitHoldRelease id) s (pump r.hdr.port (s.mem.reqs.length + 1) s) := by
  show execLimitHoldRelease id s = _
  rw [execLimitHoldRelease, runE_live _ s h]
  simp only [hr, hp, if_true]

end Events

/-- Settles O15: each event acts on a request in its phase, as the lemmas above say one by one. -/
theorem eventsOfARequest : Obligations.EventsOfARequest := by
  unfold Obligations.EventsOfARequest
  intro s id r h hr
  exact ⟨makesE_forwardedResponse h hr, makesE_dispatchDeadline h hr, fun t => makesE_executionDeadline h hr, makesE_lineLock h hr,
    makesE_lineLock_publish h hr, makesE_fenceComplete h hr, makesE_fenceTimeout h hr, makesE_cxlWerrCompletion h hr, makesE_rspReservation h hr,
    fun hp ⟨w, hk⟩ => makesE_rspReservation_opFlit h hr hp hk, makesE_limitHoldRelease h hr⟩

/-! ## Requests of the twin, markers, the LOAD window, the mirror's control -/

/-- Without a partition that holds the A right, clearing mirror_en ends mirroring; a request past step 1 keeps what it found. -/
theorem auCtlWrite_clear {s : State} {v : Word64} (ha : someAtomics s = false) (hm : s.mem.mirrorEn = true) (hv : bitAt v.toNat 0 = false) :
    auCtlWrite v s = { s with mem := { s.mem with
      mirrorEn := false, mirrorActive := false, mirrorSound := false
      reqs := s.mem.reqs.map fun r => { r with mirrored := r.mirrored && s.mem.mirrorActive } } } := by
  simp only [auCtlWrite, ha, hm, hv, Bool.not_true, Bool.or_self, Bool.and_false, Bool.false_eq_true, if_false]

theorem auCtlWrite_of_someAtomics {s : State} {v : Word64} (ha : someAtomics s = true) : auCtlWrite v s = s := if_pos ha

section Control
variable {s : State} (h : live s = true)
include h

/-- A request that the twin forwards is entered as accepted when the twin accepted it, with the view of this plane's tables, and dispatched. -/
theorem makesE_twinForwardedRequest (ref at_ i : Nat) (hd : ReqHdr) (k : ReqKind) (e : RangeEntry) (region : Option (Nat × RangeEntry))
    (hu : twinUp s = true) (hk : ∀ n, k ≠ .flushRange n) (hp : partState s hd.part ≠ 2) (hs : serve s (servingPlane s e hd.addr) = .here) :
    MakesE (.twinForwardedRequest ref hd k { acceptedAt := at_, range := i, e := e, region := region }) s (dispatch s.nextId false { s with
      nextId := s.nextId + 1
      mem := { s.mem with reqs := s.mem.reqs ++ [{
        id := s.nextId, hdr := hd, kind := k, src := .twin ref, accAt := at_, phase := .lock, view := some (i, e, servingPlane s e hd.addr % 2 == 1),
        fgen := firnGen s i, region := region, covered := kindWrite k }] } }) := by
  refine makesE_of_runE h rfl ?_
  cases k with
  | flushRange n => exact absurd rfl (hk n)
  | _ =>
    simp only [twinRequest, hu, Bool.not_true, Bool.false_eq_true, if_false, hs, ne_eq, not_true_eq_false, reduceCtorEq]
    exact if_neg hp

theorem makesE_drainMarkerReturn {mid : Nat} {m : Marker} (hm : (s.mem.markers.find? fun m => m.mid = mid) = some m) (hb : m.behind = []) :
    MakesE (.drainMarkerReturn mid) s (markerBack mid s) := by
  show execDrainMarkerReturn mid s = _
  rw [execDrainMarkerReturn, runE_live _ s h]
  simp only [hm, hb, if_true]

theorem makesE_loadWindowEnd (hw : ft s / 64000 ≠ s.mem.winIx) : MakesE .loadWindowEnd s (loadWindowEnd s) := by
  show execLoadWindowEnd s = _
  rw [execLoadWindowEnd, runE_live _ s h, if_neg hw]

theorem makesE_loadWindowEnd_same (hw : ft s / 64000 = s.mem.winIx) : MakesE .loadWindowEnd s s := by
  show execLoadWindowEnd s = _
  rw [execLoadWindowEnd, runE_live _ s h, if_pos hw]

theorem makesE_auCtlWrite {v : Word64} {t : State} (hp : s.mgmt.pasteUp = true) (ht : auCtlWrite v s = t) : MakesE (.auCtlWrite v) s t :=
  makesE_of_runE h rfl ((byPaste_up _ s hp).trans ht)

theorem makesE_auCtlWrite_rest {v : Word64} (hn : s.mgmt.pasteUp = false ∨ someAtomics s = true) : MakesE (.auCtlWrite v) s s := by
  cases hp : s.mgmt.pasteUp with
  | false => exact makesE_of_runE h rfl (byPaste_down _ s hp)
  | true => exact makesE_auCtlWrite h hp (auCtlWrite_of_someAtomics (hn.resolve_left (by simp [hp])))

end Control

/-- Settles O18: what each of the four commands makes, by the lemmas above. -/
theorem twinRequestMarkerWindowAndMirrorControl : Obligations.TwinRequestMarkerWindowAndMirrorControl := by
  unfold Obligations.TwinRequestMarkerWindowAndMirrorControl
  intro s h
  exact ⟨fun ref at_ i hd k e region => makesE_twinForwardedRequest h ref at_ i hd k e region, fun _ _ => makesE_drainMarkerReturn h,
    makesE_loadWindowEnd h, makesE_loadWindowEnd_same h, fun _ hp ha hm hv => makesE_auCtlWrite h hp (auCtlWrite_clear ha hm hv),
    fun _ => makesE_auCtlWrite_rest h⟩

end Sys2Proof.Machine
end

section
/-! PROOFS. The checks of Table 1.6 (O9, O10): what a starting plane says at step 5, what a request that passes has been found to hold, and what each verdict
makes of a request. -/

namespace Sys2Proof.Machine

/-! ## Step 5 of a plane that starts up or returns (R433, R504) -/

theorem starting_of_returning {s : State} (h : returning s = true) : starting s = true := by
  simp only [returning, Bool.and_eq_true] at h
  exact h.1

theorem starting_of_startHolds {s : State} {h : ReqHdr} {k : ReqKind} (hh : startHolds s h k = true) : starting s = true := by
  simp only [startHolds, Bool.or_eq_true, Bool.and_eq_true] at hh
  rcases hh with hr | ⟨⟨hs, -⟩, -⟩
  · exact starting_of_returning hr
  · exact hs

/-- Step 5 lets the request go on, here or at the twin. -/
def Served (v : Serve) : Prop := v = .here ∨ v = .forward

/-- A starting plane serves no stripe, and forwards nothing. -/
theorem not_served_of_starting {s : State} (h : starting s = true) (plane : Nat) : ¬Served (serve s plane) := by
  have hl : ∀ c : Prop, [Decidable c] → ¬Served (if c then .lost else .retry) := by
    intro c _
    split <;> simp [Served]
  unfold serve
  simp only [h, true_or, if_true]
  split
  · exact hl _
  · split
    · exact hl _
    · simp [Served]

theorem not_served_flush_of_starting {s : State} (h : starting s = true) (e : RangeEntry) (addr len : Nat) : ¬Served (serveFlush s e addr len) := by
  have hit : ∀ (b : Bool) (plane : Nat), ¬Served (if b then serve s plane else .no) := by
    intro b plane
    cases b
    · simp [Served]
    · exact not_served_of_starting h plane
  have first : ∀ own twin : Serve, ¬Served own → ¬Served twin →
      ¬Served (if own = .here ∨ twin = .here then .here else if own = .no then twin else own) := by
    intro own twin ho ht
    rw [if_neg fun hh => hh.elim (fun e => ho (.inl e)) fun e => ht (.inl e)]
    split
    · exact ht
    · exact ho
  unfold serveFlush
  split
  · exact not_served_of_starting h _
  · exact first _ _ (hit _ _) (hit _ _)

/-! ## Steps 3 to 7 -/

/-- What step 5 asks for a request to memory: who serves its plane or, for a FLUSH_RANGE, whether a byte of it is served (R63). -/
def AsksStep5 (s : State) (e : RangeEntry) (h : ReqHdr) (v : Serve) : Prop :=
  v = serve s (servingPlane s e h.addr) ∨ ∃ n, v = serveFlush s e h.addr n

theorem not_served_of_asksStep5 {s : State} {e : RangeEntry} {h : ReqHdr} {v : Serve} (hs : starting s = true) (ha : AsksStep5 s e h v) : ¬Served v := by
  rcases ha with rfl | ⟨n, rfl⟩
  · exact not_served_of_starting hs _
  · exact not_served_flush_of_starting hs _ _ _

theorem pass_of_ite_fail {c : Prop} [Decidable c] {st : Status} {n : Nat} {v : Verdict} {view : Option (Nat × RangeEntry × Bool)} {fwd : Bool}
    (h : (if c then Verdict.fail st n else v) = .pass view fwd) : ¬c ∧ v = .pass view fwd := by
  split at h
  · cases h
  · next hc => exact ⟨hc, h⟩

/-- What a request to memory that passes steps 3 to 7 has been found to hold, step by step. -/
theorem check37_pass {s : State} {h : ReqHdr} {k : ReqKind} {view : Option (Nat × RangeEntry × Bool)} {fwd : Bool} (hap : inAperture h.addr = false)
    (hk : k ≠ .fence) (hp : check37 s h k = .pass view fwd) :
    step3Ok h.addr h.cls k = true ∧ ∃ i e, findRange s h.addr (kindLen k) = some (i, e) ∧ (e.owner = h.part ∨ e.shared = true) ∧
      (∃ v, AsksStep5 s e h v ∧ Served v) ∧ h.key = e.key ∧ e.key ≠ 0 ∧ hasRights k (rightsFor e h.part) = true ∧
      view = some (i, e, servingPlane s e h.addr % 2 == 1) := by
  rw [check37, if_neg (by simp [hap])] at hp
  obtain ⟨h3, hp⟩ := pass_of_ite_fail hp
  rw [if_neg hk] at hp
  split at hp
  · cases hp
  next i e hf =>
  obtain ⟨hown, hp⟩ := pass_of_ite_fail hp
  obtain ⟨-, hp⟩ := pass_of_ite_fail hp
  extract_lets plane sv at hp
  have asks : AsksStep5 s e h sv := by
    cases k with
    | flushRange n => exact .inr ⟨n, rfl⟩
    | _ => exact .inl rfl
  clear_value sv
  cases sv with
  | no | lost => cases hp
  | retry =>
    dsimp only at hp
    split at hp <;> cases hp
  | here | forward =>
    obtain ⟨hkey, hp⟩ := pass_of_ite_fail hp
    obtain ⟨hrights, hp⟩ := pass_of_ite_fail hp
    obtain ⟨-, hp⟩ := pass_of_ite_fail hp
    obtain ⟨hsame, hzero⟩ := not_or.mp hkey
    cases hp
    exact ⟨by simpa using h3, i, e, hf, by simpa [or_iff_not_imp_left] using hown, ⟨_, asks, by simp [Served]⟩, not_not.mp hsame, hzero,
      by simpa using hrights, rfl⟩

theorem covers_of_findRange {s : State} {addr len i : Nat} {e : RangeEntry} (h : findRange s addr len = some (i, e)) : covers e addr len = true :=
  List.find?_some (p := fun x : Nat × RangeEntry => covers x.2 addr len) h

/-- A request to aperture space, and a FENCE, pass no step 5 of a plane that returns (R433). -/
theorem check37_ne_pass_of_returning {s : State} {h : ReqHdr} {k : ReqKind} (hr : returning s = true) (hm : inAperture h.addr = true ∨ k = .fence)
    (view : Option (Nat × RangeEntry × Bool)) (fwd : Bool) : check37 s h k ≠ .pass view fwd := by
  cases hap : inAperture h.addr with
  | true =>
    simp only [check37, hap, if_true, checkAp, hr]
    split
    · nofun
    · split <;> nofun
  | false =>
    have hf : k = .fence := hm.resolve_left (by simp [hap])
    simp only [check37, hap, Bool.false_eq_true, if_false, hf, if_true, hr]
    split <;> nofun

/-- No request that R504 or R433 has answered at step 5 passes steps 3 to 7. -/
theorem check37_ne_pass_of_startHolds {s : State} {h : ReqHdr} {k : ReqKind} (hh : startHolds s h k = true)
    (view : Option (Nat × RangeEntry × Bool)) (fwd : Bool) : check37 s h k ≠ .pass view fwd := by
  by_cases hm : inAperture h.addr = true ∨ k = .fence
  · refine check37_ne_pass_of_returning ?_ hm view fwd
    rcases hm with hm | hm <;> simpa [startHolds, hm] using hh
  · obtain ⟨hap, hk⟩ := not_or.mp hm
    intro hp
    obtain ⟨-, i, e, -, -, ⟨v, ha, hv⟩, -⟩ := check37_pass (by simpa using hap) hk hp
    exact not_served_of_asksStep5 (starting_of_startHolds hh) ha hv

/-! ## What becomes of a request by its verdict (R27) -/

section Verdicts
variable {s : State} {id : Nat} {r : Req} (hr : findReq s id = some r)
include hr

theorem runChecks_fail {st : Status} {n : Nat} (hc : check17 s r.hdr r.kind = .fail st n) :
    runChecks id s = finishRetire id st 0 [] (chkFail r.hdr r.kind st n s) := by
  simp only [runChecks, hr, hc]

theorem runChecks_red {view : Option (Nat × RangeEntry × Bool)} {fwd : Bool} (hc : check17 s r.hdr r.kind = .pass view fwd)
    (h8 : (step8 (isCxl r) r.hdr r.kind s).1 = .red) :
    runChecks id s = finishRetire id .retryLater 0 [] (chkFail r.hdr r.kind .retryLater 8 (step8 (isCxl r) r.hdr r.kind s).2) := by
  simp only [runChecks, hr, hc, h8, if_true]

end Verdicts

theorem check17_of_check12_none {s : State} {h : ReqHdr} {k : ReqKind} (h12 : check12 s h = none) : check17 s h k = check37 s h k := by
  simp only [check17, h12]

theorem check17_of_check12_some {s : State} {h : ReqHdr} {k : ReqKind} {st : Status} {n : Nat} (h12 : check12 s h = some (st, n))
    (hn : n ≠ 2 ∨ startHolds s h k = false) : check17 s h k = .fail st n := by
  have : ¬(n = 2 ∧ startHolds s h k = true) := by rintro ⟨rfl, hh⟩; simp [hh] at hn
  simp only [check17, h12, if_neg this]

/-- A plane that starts up or returns goes on past step 2. -/
theorem check17_of_startHolds {s : State} {h : ReqHdr} {k : ReqKind} {st : Status} (h12 : check12 s h = some (st, 2)) (hh : startHolds s h k = true) :
    check17 s h k = check37 s h k := by
  simp only [check17, h12, hh, and_self, if_true]

/-- Settles O9: each verdict of the checks leaves what the lemmas above say, and a starting plane passes nothing at step 5. -/
theorem checksAreMadeInOrder : Obligations.ChecksAreMadeInOrder := by
  unfold Obligations.ChecksAreMadeInOrder
  intro id s r hr
  exact ⟨fun st n h12 hn => runChecks_fail hr (check17_of_check12_some h12 hn),
    fun st st' n h12 hh h37 => runChecks_fail hr ((check17_of_startHolds h12 hh).trans h37),
    check37_ne_pass_of_startHolds,
    fun st n h12 h37 => runChecks_fail hr ((check17_of_check12_none h12).trans h37),
    fun view fwd h12 h37 h8 => runChecks_red hr ((check17_of_check12_none h12).trans h37) h8⟩

/-- Settles O10: what `check37_pass` finds, with the cover that the range was found by. -/
theorem passedRequestHoldsKeyAndRights : Obligations.PassedRequestHoldsKeyAndRights := by
  unfold Obligations.PassedRequestHoldsKeyAndRights
  intro s h k view fwd hap hk hp
  obtain ⟨h3, i, e, hf, hown, -, hkey, hzero, hrights, hview⟩ := check37_pass hap hk hp
  exact ⟨i, e, hf, covers_of_findRange hf, hown, hkey, hzero, hrights, h3, hview⟩

end Sys2Proof.Machine
end

section
/-! PROOFS. Rind's commands (O48): what closes with a session, what a command on an established session passes, what each command makes, then the statement. -/

namespace Sys2Proof.Machine

/-! ## What the twin and the sessions are told -/

/-- A message to the twin changes the twin link's port, the pool and the store its unit takes, the next identifier and the time of sending. -/
theorem sendTwin_frame (m : TwinMsg) (s : State) : ∃ n ps v t, sendTwin m s = { s with nextId := n, ports := ps, vat := v, twn := t } := by
  unfold sendTwin enqueueCtl
  split
  · split
    · split <;> exact ⟨_, _, _, _, rfl⟩
    · exact ⟨_, _, _, _, rfl⟩
  · exact ⟨_, _, _, _, rfl⟩

@[simp] theorem sendTwin_sec (m : TwinMsg) (s : State) : (sendTwin m s).sec = s.sec := by
  obtain ⟨n, ps, v, t, h⟩ := sendTwin_frame m s
  rw [h]

@[simp] theorem sendTwin_img (m : TwinMsg) (s : State) : (sendTwin m s).img = s.img := by
  obtain ⟨n, ps, v, t, h⟩ := sendTwin_frame m s
  rw [h]

/-- An operation that a list repeats leaves what one of it leaves. -/
theorem foldl_sec {α : Type} {f : State → α → State} (hf : ∀ s a, (f s a).sec = s.sec) (l : List α) (s : State) : (l.foldl f s).sec = s.sec := by
  induction l generalizing s with
  | nil => rfl
  | cons a l ih => exact (ih (f s a)).trans (hf s a)

@[simp] theorem keyTell_sec (aperture : Bool) (ix : Nat) (key : Word32) (s : State) : (keyTell aperture ix key s).sec = s.sec :=
  foldl_sec (fun s (x : RindSess) => tell_sec s (.rindKey x.sess aperture ix key)) _ s

@[simp] theorem rotTell_sec (s : State) (r : Rotation) : (rotTell s r).sec = s.sec := by
  unfold rotTell
  split <;> simp [rindOk]

/-! ## Sessions that close (R447, R466, R480) -/

/-- Between the two states sessions have closed, with what goes with them, and nothing else has changed. -/
def OnlyCloses (s t : State) : Prop :=
  t = { s with
    sec := { s.sec with sessions := t.sec.sessions }, out := t.out
    mgmt := { s.mgmt with sessions := t.mgmt.sessions, controller := t.mgmt.controller, uploads := t.mgmt.uploads, subs := t.mgmt.subs } }

theorem OnlyCloses.refl {s : State} : OnlyCloses s s := by simp [OnlyCloses]

theorem OnlyCloses.trans {s t u : State} (h : OnlyCloses s t) (k : OnlyCloses t u) : OnlyCloses s u := by
  unfold OnlyCloses at *
  rw [h] at k
  exact k

theorem OnlyCloses.nv {s t : State} (h : OnlyCloses s t) : t.nv = s.nv := by
  have := congrArg State.nv h
  exact this

theorem onlyCloses_foldl {α : Type} {f : State → α → State} (hf : ∀ s a, OnlyCloses s (f s a)) (l : List α) (s : State) :
    OnlyCloses s (l.foldl f s) := by
  induction l generalizing s with
  | nil => exact .refl
  | cons a l ih => exact (hf s a).trans (ih _)

theorem onlyCloses_closeSess (n : Nat) (s : State) : OnlyCloses s (closeSess n s) := by
  unfold closeSess
  split
  · exact .refl
  · simp [OnlyCloses, setMgmt, setSec, tell]

theorem onlyCloses_closeRind (n : Nat) (s : State) : OnlyCloses s (closeRind n s) := by simp [OnlyCloses, closeRind, setSec]

/-- The Prosis sessions that remain are those with another number. -/
theorem closeSess_mgmt_sessions (n : Nat) (s : State) : (closeSess n s).mgmt.sessions = s.mgmt.sessions.filter fun x => x.sess ≠ n := by
  unfold closeSess
  split
  next h =>
    have hn := List.find?_eq_none.mp h
    exact (List.filter_eq_self.mpr fun x hx => by simpa using hn x hx).symm
  · rfl

theorem closeSess_sec_sessions (n : Nat) (s : State) : (closeSess n s).sec.sessions ⊆ s.sec.sessions := by
  unfold closeSess
  split
  · exact fun _ hx => hx
  · exact List.filter_subset_self s.sec.sessions

theorem mem_closeAll_mgmt {ns : List Nat} {s : State} {x : Sess} (h : x ∈ (closeAll ns s).mgmt.sessions) : x ∈ s.mgmt.sessions ∧ x.sess ∉ ns := by
  induction ns generalizing s with
  | nil => exact ⟨h, List.not_mem_nil⟩
  | cons n ns ih =>
    obtain ⟨hx, hns⟩ := ih (s := closeSess n s) h
    rw [closeSess_mgmt_sessions, List.mem_filter] at hx
    exact ⟨hx.1, by simpa [hns] using hx.2⟩

theorem closeAll_sec_sessions (ns : List Nat) (s : State) : (closeAll ns s).sec.sessions ⊆ s.sec.sessions := by
  induction ns generalizing s with
  | nil => exact fun _ hx => hx
  | cons n ns ih => exact fun x hx => closeSess_sec_sessions n s (ih (closeSess n s) hx)

theorem mem_foldl_closeRind {ns : List Nat} {s : State} {x : RindSess} (h : x ∈ (ns.foldl (fun s n => closeRind n s) s).sec.sessions) :
    x ∈ s.sec.sessions ∧ x.sess ∉ ns := by
  induction ns generalizing s with
  | nil => exact ⟨h, List.not_mem_nil⟩
  | cons n ns ih =>
    obtain ⟨hx, hns⟩ := ih (s := closeRind n s) h
    have hx : x ∈ s.sec.sessions.filter fun x => x.sess ≠ n := hx
    rw [List.mem_filter] at hx
    exact ⟨hx.1, by simpa [hns] using hx.2⟩

@[simp] theorem foldl_closeRind_mgmt (ns : List Nat) (s : State) : (ns.foldl (fun s n => closeRind n s) s).mgmt = s.mgmt := by
  induction ns generalizing s with
  | nil => rfl
  | cons n ns ih => exact ih (closeRind n s)

/-- Prosis sessions by `p` and Rind sessions by `q` close: what CRL_SET and CLAIM do. -/
def closeWhere (p : Sess → Bool) (q : RindSess → Bool) (s : State) : State :=
  ((s.sec.sessions.filter q).map (·.sess)).foldl (fun s n => closeRind n s) (closeAll ((s.mgmt.sessions.filter p).map (·.sess)) s)

theorem onlyCloses_closeWhere (p : Sess → Bool) (q : RindSess → Bool) (s : State) : OnlyCloses s (closeWhere p q s) :=
  (onlyCloses_foldl (fun s n => onlyCloses_closeSess n s) _ s).trans (onlyCloses_foldl (fun s n => onlyCloses_closeRind n s) _ _)

theorem not_of_mem_closeWhere_mgmt {p : Sess → Bool} {q : RindSess → Bool} {s : State} {x : Sess} (h : x ∈ (closeWhere p q s).mgmt.sessions) :
    p x = false := by
  rw [closeWhere, foldl_closeRind_mgmt] at h
  obtain ⟨hx, hn⟩ := mem_closeAll_mgmt h
  exact Bool.eq_false_iff.mpr fun hp => hn (List.mem_map_of_mem (List.mem_filter.mpr ⟨hx, hp⟩))

theorem not_of_mem_closeWhere_sec {p : Sess → Bool} {q : RindSess → Bool} {s : State} {x : RindSess} (h : x ∈ (closeWhere p q s).sec.sessions) :
    q x = false := by
  obtain ⟨hx, hn⟩ := mem_foldl_closeRind h
  have hs := closeAll_sec_sessions _ _ hx
  exact Bool.eq_false_iff.mpr fun hq => hn (List.mem_map_of_mem (List.mem_filter.mpr ⟨hs, hq⟩))

/-! ## What a command on an established session passes (R446, R447, R449) -/

theorem rind_of_owner {n code : Nat} {f : RindSess → State → State} {s : State} {x : RindSess} (hx : rindAt s n = some x) (hr : x.ready = true)
    (hc : x.claim = false) (hn : code ≠ 0x20) : rind n code f s = f x s := by
  simp [rind, hx, hr, hc, hn]

theorem rind_nonce {n : Nat} {f : RindSess → State → State} {s : State} {x : RindSess} (hx : rindAt s n = some x) (hr : x.ready = true) :
    rind n 0x04 f s = f x s := by
  simp [rind, hx, hr]

theorem rind_claim {n : Nat} {f : RindSess → State → State} {s : State} {x : RindSess} (hx : rindAt s n = some x) (hr : x.ready = true)
    (hc : x.claim = true) : rind n 0x20 f s = f x s := by
  simp [rind, hx, hr, hc]

theorem ownerSigned_of_signedOk {n code : Nat} {cmd : Bytes} {g : OwnerSig} {f : State → State} {s : State} {x : RindSess} (hx : rindAt s n = some x)
    (hr : x.ready = true) (hc : x.claim = false) (hn : code ≠ 0x20) (hg : signedOk s x (natLe 1 code ++ cmd) g = true) :
    ownerSigned n code cmd g f s = f s := by
  rw [ownerSigned, rind_of_owner hx hr hc hn, if_pos hg]

theorem genLeft_of_lt {s : State} {top : Nat} (h : s.nv.ownGen < top) : genLeft s top = true := decide_eq_true h

/-! ## What the key commands make (R25, R33, R35) -/

theorem takeKey_ne_zero (s : State) : (takeKey s).1 ≠ 0 := by
  intro h
  have h : (BitVec.ofNat 32 ((takeDraw s).1 % (2 ^ 32 - 1) + 1)).toNat = 0 := congrArg BitVec.toNat h
  rw [BitVec.toNat_ofNat] at h
  omega

/-- The plane with key `k` in range `i`: the tables have changed, and the rotation is noted. -/
def keyWritten (i : Nat) (k : Word32) (r : Rotation) (s : State) : State :=
  setSec (fun c => { c with revoked := c.revoked.filter (· ≠ i), rots := c.rots ++ [r] })
    (tableChanged { s with img := { s.img with ranges := aset s.img.ranges i { rangeOf s i with key := k } } })

theorem keyWritten_key (i : Nat) (k : Word32) (r : Rotation) (s : State) : (rangeOf (keyWritten i k r s) i).key = k := by
  show (agetD (aset s.img.ranges i { rangeOf s i with key := k }) i {}).key = k
  rw [agetD_aset_self]

theorem keyWritten_rots (i : Nat) (k : Word32) (r : Rotation) (s : State) : (keyWritten i k r s).sec.rots = s.sec.rots ++ [r] := rfl

section Keys
variable {s : State} (h : live s = true)
include h

/-- A rotation by this plane: the range has a drawn key, and what was checked under the old one is noted. -/
theorem makesR_keyRotate_session {n : Nat} {x : RindSess} (hx : rindAt s n = some x) (hr : x.ready = true) (hc : x.claim = false) {i : Nat}
    (hv : (rangeOf s i).valid = true) (ht : (dev s).twinPresent = false ∨ twinUp s = true ∨ s.twn.servesTwin = true) :
    ∃ k t, k ≠ 0 ∧ MakesR (.keyRotate (.session n) i) s t ∧ (rangeOf t i).key = k ∧
      t.sec.rots = s.sec.rots ++ [{ range := i, sess := n, key := k, drain := checkedIds s }] := by
  have hn : ¬((dev s).twinPresent && !twinUp s && !s.twn.servesTwin) = true := by
    rcases ht with ht | ht | ht <;> simp [ht]
  let k := (takeKey s).1
  let t := keyWritten i k { range := i, sess := n, key := k, drain := checkedIds s } (takeKey s).2
  have he : keyRotate n i s = sendTwin (.keys [(i, k)]) t := by
    rw [keyRotate, rind_of_owner hx hr hc (by decide), if_neg hn, if_neg (by simp [hv])]
    rfl
  refine ⟨k, sendTwin (.keys [(i, k)]) t, takeKey_ne_zero s, makesR_of_runR h rfl he, ?_, ?_⟩
  · rw [rangeOf, sendTwin_img]
    exact keyWritten_key i k _ _
  · rw [sendTwin_sec]
    exact keyWritten_rots i k _ _

/-- The twin acknowledges a rotation of this plane (assumption 60). -/
theorem makesR_keyRotate_twinOk {i : Nat} {k : Word32} (hu : twinUp s = true) (ha : (s.sec.rots.any fun r => r.range == i && r.key == k) = true) :
    MakesR (.keyRotate (.twin k) i) s
      (setSec (fun c => { c with rots := c.rots.map fun r => if r.range = i ∧ r.key = k then { r with twinOk := true } else r }) s) :=
  makesR_of_runR (f := twinKey i k) h rfl (by rw [twinKey, if_neg (by simp [hu]), if_pos ha])

/-- The twin has drawn a key, which is written here (R35). -/
theorem makesR_keyRotate_twin {i : Nat} {k : Word32} (hu : twinUp s = true) (ha : (s.sec.rots.any fun r => r.range == i && r.key == k) = false)
    (hv : (rangeOf s i).valid = true) (h0 : k ≠ 0) (hne : (rangeOf s i).key ≠ k) :
    ∃ t, MakesR (.keyRotate (.twin k) i) s t ∧ (rangeOf t i).key = k ∧
      t.sec.rots = s.sec.rots ++ [{ range := i, sess := 0, key := k, drain := checkedIds s, peer := true }] := by
  have he : twinKey i k s = keyWritten i k { range := i, sess := 0, key := k, drain := checkedIds s, peer := true } s := by
    rw [twinKey, if_neg (by simp [hu]), if_neg (by simp [ha]), if_neg (not_or.mpr ⟨by simp [hv], not_or.mpr ⟨h0, hne⟩⟩)]
    rfl
  exact ⟨_, makesR_of_runR (f := twinKey i k) h rfl he, keyWritten_key i k _ s, keyWritten_rots i k _ s⟩

/-- The rotations that are complete leave; the others stay. -/
theorem makesR_accessDrainDone : ∃ t, MakesR .accessDrainDone s t ∧ t.sec.rots = s.sec.rots.filter fun r => !rotDone s r := by
  refine ⟨accessDrainDone s, makesR_of_runR h rfl rfl, ?_⟩
  rw [accessDrainDone, foldl_sec rotTell_sec]
  rfl

end Keys

/-! ## What the other commands make -/

section Established
variable {s : State} {n : Nat} {x : RindSess} (h : live s = true) (hx : rindAt s n = some x) (hr : x.ready = true)
include h hx hr

/-- NONCE draws 32 bytes, which the session keeps for its signed commands (R449). -/
theorem makes_nonce : ∃ t v, Makes (.nonce n) s t ∧ (∀ y ∈ t.sec.sessions, y.sess = n → y.nonce = some v) ∧
    t = { s with freeIx := s.freeIx + 1, sec := { s.sec with sessions := t.sec.sessions }, out := t.out } := by
  refine ⟨_, BitVec.ofNat 256 (Config.draw s.freeIx), makes_of_run h rfl (rind_nonce hx hr), ?_, rfl⟩
  intro y hy hn
  obtain ⟨z, -, rfl⟩ := List.mem_map.mp hy
  by_cases hz : z.sess = n
  · simp only [hz, if_true]
  · rw [if_neg hz] at hn
    exact absurd hn hz

/-- CLAIM installs the first owner key and the management CA, and every claim session closes (R446, R447). -/
theorem makes_claim (hc : x.claim = true) (ho : claimOpen s = true) (i : Nat) (k ca : Bytes) : ∃ t, Makes (.claim n i k ca) s t ∧
    t.nv.owned = true ∧ t.nv.ownerKeys = [(i, k)] ∧ t.nv.mgmtCa = ca ∧
    (∀ y ∈ t.sec.sessions, y.claim = false) ∧ (∀ y ∈ t.mgmt.sessions, y.claim = false) ∧
    t = { s with nv := { s.nv with owned := true, ownerKeys := [(i, k)], mgmtCa := ca }, sec := { s.sec with sessions := t.sec.sessions }, out := t.out
                 mgmt := { s.mgmt with sessions := t.mgmt.sessions, controller := t.mgmt.controller, uploads := t.mgmt.uploads, subs := t.mgmt.subs } } := by
  let u := rindOk n 0x20 [] (setNv (fun v => { v with owned := true, ownerKeys := [(i, k)], mgmtCa := ca }) s)
  have hu : claimCmd n i k ca s = closeWhere (·.claim) (·.claim) u := by
    rw [claimCmd, rind_claim hx hr hc, if_neg (by simp [ho])]
    rfl
  have ht : OnlyCloses u (closeWhere (·.claim) (·.claim) u) := onlyCloses_closeWhere _ _ u
  have hnv : (closeWhere (·.claim) (·.claim) u).nv = u.nv := ht.nv
  exact ⟨_, makes_of_run h rfl hu, congrArg Nv.owned hnv, congrArg Nv.ownerKeys hnv, congrArg Nv.mgmtCa hnv,
    fun y => not_of_mem_closeWhere_sec, fun y => not_of_mem_closeWhere_mgmt, ht⟩

variable (hc : x.claim = false)
include hc

theorem makes_keyReport (p : Nat) : Makes (.keyReport n p) s (rindOk n 0x02 (natLe 4 (agetD s.eng.apKeys p 0).toNat ++
    (s.img.ranges.filter fun e => e.2.valid && e.2.owner == p).flatMap fun e => natLe 2 e.1 ++ natLe 4 e.2.key.toNat) s) :=
  makes_of_run h rfl (rind_of_owner hx hr hc (by decide))

theorem makesR_calve (l : List Nat) : MakesR (.calve n l) s (rindOk n 0x03 [] (calveSome 0 l s)) :=
  makesR_of_runR h rfl (rind_of_owner hx hr hc (by decide))

theorem makes_sealExport {k : BitVec 256} (hk : s.nv.sealSecret = some k) :
    Makes (.sealExport n) s (rindOk n 0x06 (Config.wrap k.toNat (dev s).domainId (pairNo s) (packNonces s.nv.nonces)) s) :=
  makes_of_run h rfl ((rind_of_owner hx hr hc (by decide)).trans (by rw [hk]))

theorem makes_sealSecretSet {v : BitVec 256} {g : OwnerSig} (hg : signedOk s x (natLe 1 0x05 ++ natLe 32 v.toNat) g = true)
    (hl : s.nv.ownGen < 4094) (hs : (s.img.ranges.any fun e => e.2.valid && e.2.sealed) = false) :
    Makes (.sealSecretSet n v g) s
      (rindOk n 0x05 [] (setNv (fun w => { w with sealSecret := some v, ownGen := w.ownGen + 1, storeGen := w.ownGen + 1 }) s)) := by
  refine makes_of_run h rfl ((ownerSigned_of_signedOk hx hr hc (by decide) hg).trans ?_)
  rw [if_neg (by simp [genLeft_of_lt hl]), if_neg (by simp [hs])]

theorem makes_sealImport {b d : Bytes} {g : OwnerSig} {k : BitVec 256} (hg : signedOk s x (natLe 1 0x07 ++ b) g = true)
    (hk : s.nv.sealSecret = some k) (hd : Config.unwrap k.toNat (dev s).domainId (pairNo s) b = some d) (hn : s.nv.nonces = []) :
    Makes (.sealImport n b g) s (rindOk n 0x07 [] (setNv (fun v => { v with nonces := nonceList d.length d }) s)) := by
  refine makes_of_run h rfl ((ownerSigned_of_signedOk hx hr hc (by decide) hg).trans ?_)
  simp only [hk, Option.bind_some, hd, hn, if_true]

theorem makes_ownerKeyAdd {i : Nat} {k : Bytes} {g : OwnerSig} (hg : signedOk s x (natLe 1 0x10 ++ (natLe 4 i ++ k)) g = true)
    (hl : s.nv.ownerKeys.length < 4) (hi : aget s.nv.ownerKeys i = none) :
    Makes (.ownerKeyAdd n i k g) s (rindOk n 0x10 [] (setNv (fun v => { v with ownerKeys := v.ownerKeys ++ [(i, k)] }) s)) := by
  refine makes_of_run h rfl ((ownerSigned_of_signedOk hx hr hc (by decide) hg).trans ?_)
  rw [if_neg (by simp [hi, hl])]

theorem makes_ownerKeyRevoke {i : Nat} {g : OwnerSig} (hg : signedOk s x (natLe 1 0x11 ++ natLe 4 i) g = true) (hl : s.nv.ownGen < 4094)
    (hne : g.keyId ≠ i) (hi : (aget s.nv.ownerKeys i).isSome = true) (hlen : 1 < s.nv.ownerKeys.length) :
    Makes (.ownerKeyRevoke n i g) s
      (rindOk n 0x11 [] (setNv (fun v => { v with ownerKeys := adel v.ownerKeys i, ownGen := v.ownGen + 1, storeGen := v.ownGen + 1 }) s)) := by
  have hsome : aget s.nv.ownerKeys i ≠ none := Option.isSome_iff_ne_none.mp hi
  refine makes_of_run h rfl ((ownerSigned_of_signedOk hx hr hc (by decide) hg).trans ?_)
  rw [if_neg (by simp [genLeft_of_lt hl]), if_neg (by simp [hne, hsome, hlen])]

theorem makes_mgmtCaSet {ca : Bytes} {g : OwnerSig} (hg : signedOk s x (natLe 1 0x12 ++ ca) g = true) :
    Makes (.mgmtCaSet n ca g) s (closeAll (s.mgmt.sessions.map (·.sess)) (rindOk n 0x12 [] (setNv (fun v => { v with mgmtCa := ca }) s))) :=
  makes_of_run h rfl (ownerSigned_of_signedOk hx hr hc (by decide) hg)

/-- CRL_SET replaces the revocation list, and the sessions of the clients it names close (R466). -/
theorem makes_crlSet {l : List Nat} {g : OwnerSig} (hg : signedOk s x (natLe 1 0x13 ++ l.flatMap (natLe 20)) g = true) (hl : l.length ≤ 256) :
    ∃ t, Makes (.crlSet n l g) s t ∧ t.nv.crl = l ∧
      (∀ y ∈ t.mgmt.sessions, y.claim = false → ∀ c ∈ y.cert :: y.issuers, c ∉ l) ∧
      (∀ y ∈ t.sec.sessions, y.claim = false → ∀ c ∈ y.cert :: y.issuers, c ∉ l) ∧
      t = { s with nv := { s.nv with crl := l }, sec := { s.sec with sessions := t.sec.sessions }, out := t.out
                   mgmt := { s.mgmt with sessions := t.mgmt.sessions, controller := t.mgmt.controller, uploads := t.mgmt.uploads, subs := t.mgmt.subs } } := by
  let p (y : Sess) : Bool := (y.cert :: y.issuers).any (· ∈ l) && !y.claim
  let q (y : RindSess) : Bool := (y.cert :: y.issuers).any (· ∈ l) && !y.claim
  let u := rindOk n 0x13 [] (setNv (fun v => { v with crl := l }) s)
  have keeps : ∀ {cs : List Nat} {claim : Bool}, (cs.any (· ∈ l) && !claim) = false → claim = false → ∀ c ∈ cs, c ∉ l := by
    intro cs claim hf hc c hm hl
    rw [hc, Bool.not_false, Bool.and_true] at hf
    exact Bool.eq_false_iff.mp hf (List.any_eq_true.mpr ⟨c, hm, decide_eq_true hl⟩)
  have hu : crlSet n l g s = closeWhere p q u := by
    rw [crlSet, ownerSigned_of_signedOk hx hr hc (by decide) hg, if_neg (by omega)]
    rfl
  have ht : OnlyCloses u (closeWhere p q u) := onlyCloses_closeWhere p q u
  have hnv : (closeWhere p q u).nv = u.nv := ht.nv
  exact ⟨_, makes_of_run h rfl hu, congrArg Nv.crl hnv, fun y hy => keeps (not_of_mem_closeWhere_mgmt hy),
    fun y hy => keeps (not_of_mem_closeWhere_sec hy), ht⟩

end Established

/-- Settles O48: each command's effect on an established session, by the lemmas above. -/
theorem rindCommands : Obligations.RindCommands := by
  unfold Obligations.RindCommands
  intro s n x h hx hr
  refine ⟨fun hc => ⟨fun _ => makesR_keyRotate_session h hx hr hc, makes_keyReport h hx hr hc, makesR_calve h hx hr hc,
      fun _ => makes_sealExport h hx hr hc, fun _ _ => makes_sealSecretSet h hx hr hc, fun _ _ _ _ => makes_sealImport h hx hr hc,
      fun _ _ _ => makes_ownerKeyAdd h hx hr hc, fun _ _ => makes_ownerKeyRevoke h hx hr hc, fun _ _ => makes_mgmtCaSet h hx hr hc,
      fun _ _ => makes_crlSet h hx hr hc⟩,
    makes_nonce h hx hr, makes_claim h hx hr,
    fun _ _ hu => ⟨makesR_keyRotate_twinOk h hu, makesR_keyRotate_twin h hu⟩, makesR_accessDrainDone h⟩

end Sys2Proof.Machine
end

section
/-! PROOFS. How a request enters: what credits, discarded payloads and units of Whey leave alone, the request at the head of its command FIFO, its checks, and
that a request which passes them is admitted where its staging unit's identifier is a new one. -/

namespace Sys2Proof.Machine

/-! ## Credits (R120, R364, Table 12.10) -/

theorem port_setPort (s : State) (p x : Nat) (f : Port → Port) : port (setPort p f s) x = if x = p then f (port s p) else port s x := by
  unfold port setPort
  split
  next hx => subst hx; exact agetD_amod_self _ _ _ _
  next hx => exact agetD_amod_other _ _ _ _ _ hx

/-- Only credits and what is sent of them differ: no port's link, and nothing that is staged. -/
def SameStaging (s a : State) : Prop :=
  (∃ ps w, a = { s with ports := ps, wire := w }) ∧ ∀ p, (port a p).link = (port s p).link ∧ (port a p).stg = (port s p).stg

theorem SameStaging.refl (s : State) : SameStaging s s := ⟨⟨s.ports, s.wire, rfl⟩, fun _ => ⟨rfl, rfl⟩⟩

theorem SameStaging.trans {s a b : State} (h : SameStaging s a) (k : SameStaging a b) : SameStaging s b := by
  obtain ⟨⟨ps, w, rfl⟩, h⟩ := h
  obtain ⟨⟨qs, v, rfl⟩, k⟩ := k
  exact ⟨⟨qs, v, rfl⟩, fun p => ⟨(k p).1.trans (h p).1, (k p).2.trans (h p).2⟩⟩

theorem sameStaging_setPort (p : Nat) (s : State) {f : Port → Port} (hf : ∀ q, (f q).link = q.link ∧ (f q).stg = q.stg) :
    SameStaging s (setPort p f s) := by
  refine ⟨⟨_, s.wire, rfl⟩, fun x => ?_⟩
  rw [port_setPort]
  split
  next hx => subst hx; exact hf _
  · exact ⟨rfl, rfl⟩

theorem sameStaging_wireOut (p : Nat) (w : Wire) (s : State) : SameStaging s (wireOut p w s) := ⟨⟨s.ports, _, rfl⟩, fun _ => ⟨rfl, rfl⟩⟩

theorem sameStaging_sendItem (p : Nat) (i : LinkItem) (s : State) : SameStaging s (sendItem p i s) := by
  unfold sendItem sendUnit
  split
  · extract_lets t
    split
    · exact (sameStaging_wireOut p (.item i) s).trans (sameStaging_setPort p _ fun _ => by simp)
    · exact sameStaging_wireOut p (.item i) s
  · exact sameStaging_setPort p s fun _ => by simp

theorem sameStaging_returnCredits (p req msgs : Nat) (s : State) : SameStaging s (returnCredits p req msgs s) := by
  unfold returnCredits
  extract_lets q r m
  split
  · exact (sameStaging_setPort p s fun _ => by simp).trans (sameStaging_sendItem p _ _)
  · exact .refl s

theorem sameStaging_cxlReturn (p : Nat) (s : State) : SameStaging s (cxlReturn p s) := by
  unfold cxlReturn
  split
  · extract_lets n
    exact sameStaging_setPort p s fun _ => by simp
  · exact .refl s

/-! ## Units that leave staging unread, and units that come back from Whey (R119, R122) -/

/-- Of the units staged at `p` those stay that `keep` names, and nothing else of staging changes. -/
def KeepsUnits (p : Nat) (keep : StgUnit → Bool) (s a : State) : Prop :=
  SameStaging (setPort p (fun q => { q with stg := q.stg.filter keep }) s) a

/-- A unit that shares its identifier with no discarded payload stays. -/
theorem dropDead_keeps (p : Nat) (s : State) : ∃ keep, KeepsUnits p keep s (dropDead p s) ∧
    ∀ u, (∀ g ∈ (port s p).stg, g.item = .dead → g.uid ≠ u.uid) → keep u = true := by
  unfold dropDead
  extract_lets gone
  split
  · refine ⟨fun _ => true, ⟨⟨s.ports, s.wire, rfl⟩, fun x => ?_⟩, fun _ _ => rfl⟩
    rw [port_setPort]
    split
    next hx => subst hx; simp
    · exact ⟨rfl, rfl⟩
  · refine ⟨fun u => !gone.any fun g => g.uid == u.uid, (sameStaging_returnCredits _ _ _ _).trans (sameStaging_cxlReturn _ _), fun u hu => ?_⟩
    rw [Bool.not_eq_true', List.any_eq_false]
    intro g hg
    obtain ⟨hm, hd⟩ := List.mem_filter.mp hg
    simpa using hu g (List.takeWhile_subset _ hm) (by simpa using hd)

/-- Where a unit stands does not change when it comes back from Whey: its FIFO and what it is. -/
theorem unspillList_map (l : List StgUnit) (used : Nat) (held : List Nat) :
    (unspillList used held l).map (fun u => (u.item, u.fifo)) = l.map fun u => (u.item, u.fifo) := by
  induction l generalizing used held with
  | nil => rfl
  | cons u t ih =>
    unfold unspillList
    split
    · split <;> simp [ih]
    · simp [ih]

/-! ## The head of a command FIFO (R118) -/

theorem head?_filterMap_of_unique {α β : Type} {f : α → Option β} {l : List α} {b : β} (hex : ∃ x ∈ l, f x = some b)
    (huniq : ∀ x ∈ l, ∀ c, f x = some c → c = b) : (l.filterMap f).head? = some b := by
  rw [List.head?_filterMap]
  cases hf : l.findSome? f with
  | none =>
    obtain ⟨x, hx, he⟩ := hex
    exact absurd (List.findSome?_eq_none_iff.mp hf x hx) (by simp [he])
  | some c =>
    obtain ⟨x, hx, hc⟩ := List.exists_of_findSome?_eq_some hf
    rw [huniq x hx c hc]

/-- The request at the head of a port's command FIFO, when every request that has not left it is that one. -/
theorem fifoHead_of_unique {s : State} {p : Nat} {r : Req} (hr : findReq s r.id = some r) (hin : inHead s r = true)
    (hex : (StgItem.req r.id, 0) ∈ (port s p).stg.map fun u => (u.item, u.fifo))
    (huniq : ∀ id q, (StgItem.req id, 0) ∈ (port s p).stg.map (fun u => (u.item, u.fifo)) → findReq s id = some q → inHead s q = true → q = r) :
    fifoHead s p = some r := by
  obtain ⟨u, hu, he⟩ := List.mem_map.mp hex
  obtain ⟨hitem, hfifo⟩ := Prod.mk.inj he
  refine head?_filterMap_of_unique ⟨u, hu, ?_⟩ ?_
  · simp only [hitem, hfifo, if_true, hr, Option.bind_some, hin]
  · intro v hv c hc
    split at hc
    next id hid =>
      split at hc
      next hv0 =>
        obtain ⟨q, hq, hqc⟩ := Option.bind_eq_some_iff.mp hc
        split at hqc
        next hi =>
          cases hqc
          exact huniq id c (List.mem_map.mpr ⟨v, hv, by rw [hid, hv0]⟩) hq hi
        · cases hqc
      · cases hc
    · cases hc

/-- With no request at the head of a command FIFO none that has not left it is staged there. -/
theorem inHead_false_of_fifoHead_none {s : State} {p id : Nat} {q : Req} (hn : fifoHead s p = none)
    (hm : (StgItem.req id, 0) ∈ (port s p).stg.map fun u => (u.item, u.fifo)) (hq : findReq s id = some q) : inHead s q = false := by
  obtain ⟨u, hu, he⟩ := List.mem_map.mp hm
  obtain ⟨hitem, hfifo⟩ := Prod.mk.inj he
  have hu := List.filterMap_eq_nil_iff.mp (List.head?_eq_none_iff.mp hn) u hu
  simp only [hitem, hfifo, if_true, hq, Option.bind_some] at hu
  split at hu
  · cases hu
  next hi => exact Bool.eq_false_iff.mpr hi

/-! ## A request that is accepted (R38, R118) -/

/-- With room in staging and nothing ahead a request is staged, and its FIFO is seen to. -/
theorem arrive_accepted {h : ReqHdr} {k : ReqKind} {s : State} (ho : StagingOpen h k s) (src : ReqSrc) (dpa : Nat) :
    arrive h k src dpa s = pump h.port (s.mem.reqs.length + 2) (accepted h k src dpa s) := by
  obtain ⟨hroom, hspill, -, -⟩ := ho
  have hst : ∀ due, stage h.port 0 (reqUnits k) due (.req s.nextId) { s with nextId := s.nextId + 1 } =
      (true, setPort h.port (fun q => { q with stg := q.stg ++ [
        { uid := s.nextId + 1, fifo := 0, item := .req s.nextId, units := reqUnits k, since := s.now, ft := ft s }] }) { s with nextId := s.nextId + 2 }) :=
    fun _ => if_pos ⟨hroom, by rw [Bool.not_eq_true']; exact hspill⟩
  have hlen : (s.mem.reqs ++ [entered h k src dpa s]).length + 1 = s.mem.reqs.length + 2 := by simp
  unfold arrive takeId
  dsimp -zeta only
  extract_lets units t
  have ht : t = _ := hst _
  clear_value t
  subst ht
  rw [← hlen]
  rfl

/-- The plane as the request finds it when its FIFO is seen to first: accepted, dead payloads ahead of it gone, units of Whey back in staging. -/
def entering (h : ReqHdr) (k : ReqKind) (src : ReqSrc) (dpa : Nat) (s : State) : State :=
  unspill h.port (dropDead h.port (accepted h k src dpa s))

section Entering
variable {h : ReqHdr} {k : ReqKind} {src : ReqSrc} {dpa : Nat} {s : State}

theorem port_accepted (p : Nat) : port (accepted h k src dpa s) p = if p = h.port then { port s h.port with
      stg := (port s h.port).stg ++ [
        { uid := s.nextId + 1, fifo := 0, item := .req s.nextId, units := reqUnits k, since := s.now, ft := ft s }]
      farReq := (port s h.port).farReq - reqUnits k, reissued := (port s h.port).reissued + b2n h.reissue } else port s p := by
  have hp : port (accepted h k src dpa s) p =
      port (setPort h.port (fun q => { q with farReq := q.farReq - reqUnits k, reissued := q.reissued + b2n h.reissue })
        (setPort h.port (fun q => { q with stg := q.stg ++ [
          { uid := s.nextId + 1, fifo := 0, item := .req s.nextId, units := reqUnits k, since := s.now, ft := ft s }] }) s)) p := rfl
  rw [hp, port_setPort, port_setPort, port_setPort, if_pos rfl]
  split <;> rfl

theorem accepted_link (p : Nat) : (port (accepted h k src dpa s) p).link = (port s p).link := by
  rw [port_accepted]
  split
  next hp => rw [hp]
  · rfl

/-- Entering changes identifiers, ports, the wire and the list of requests, and leaves every link as it is. -/
theorem entering_frame : (∃ ps w, entering h k src dpa s = { s with
      nextId := s.nextId + 2, ports := ps, wire := w, mem := { s.mem with reqs := s.mem.reqs ++ [entered h k src dpa s] } }) ∧
    ∀ p, (port (entering h k src dpa s) p).link = (port s p).link := by
  obtain ⟨keep, ⟨⟨ps, w, hd⟩, hkept⟩, -⟩ := dropDead_keeps h.port (accepted h k src dpa s)
  refine ⟨⟨_, w, by rw [entering, hd]; rfl⟩, fun p => ?_⟩
  rw [entering, unspill, port_setPort]
  rw [← accepted_link (h := h) (k := k) (src := src) (dpa := dpa) p]
  have hl := (hkept p).1
  rw [port_setPort] at hl
  split
  next hp => subst hp; rw [if_pos rfl] at hl; exact hl
  next hp => rw [if_neg hp] at hl; exact hl

/-- No payload that waits at the head of the port to be discarded carries the identifier that the request's unit is given. -/
def FreshUnit (p : Nat) (s : State) : Prop := ∀ u ∈ (port s p).stg, u.item = .dead → u.uid ≠ s.nextId + 1

/-- What the port's staging holds for the request that enters: itself, and of the others at most those that were there. -/
theorem entering_stg (hf : FreshUnit h.port s) : ∃ keep : StgUnit → Bool,
    (port (entering h k src dpa s) h.port).stg.map (fun u => (u.item, u.fifo)) =
      ((port s h.port).stg.filter keep).map (fun u => (u.item, u.fifo)) ++ [(.req s.nextId, 0)] := by
  obtain ⟨keep, ⟨-, hkept⟩, hkeep⟩ := dropDead_keeps h.port (accepted h k src dpa s)
  refine ⟨keep, ?_⟩
  have hnew : keep { uid := s.nextId + 1, fifo := 0, item := .req s.nextId, units := reqUnits k, since := s.now, ft := ft s } = true := by
    refine hkeep _ fun g hg hd => ?_
    rw [port_accepted, if_pos rfl] at hg
    rcases List.mem_append.mp hg with hg | hg
    · exact hf g hg hd
    · rw [List.mem_singleton.mp hg] at hd
      cases hd
  have hstg := (hkept h.port).2
  rw [port_setPort, if_pos rfl, port_accepted, if_pos rfl] at hstg
  rw [entering, unspill, port_setPort, if_pos rfl]
  simp only [unspillList_map, hstg, List.filter_append, List.map_append, List.filter_singleton, hnew, cond_true, List.map_singleton]

theorem findReq_entering (hn : findReq s s.nextId = none) (id : Nat) :
    findReq (entering h k src dpa s) id = if id = s.nextId then some (entered h k src dpa s) else findReq s id := by
  obtain ⟨⟨ps, w, he⟩, -⟩ := entering_frame (h := h) (k := k) (src := src) (dpa := dpa) (s := s)
  rw [he]
  show (s.mem.reqs ++ [entered h k src dpa s]).find? (fun r => decide (r.id = id)) = _
  rw [List.find?_append]
  split
  next hid =>
    subst hid
    rw [show s.mem.reqs.find? (fun r => decide (r.id = s.nextId)) = none from hn]
    simp [entered]
  next hid =>
    simp [entered, Ne.symm hid, findReq]

theorem inHead_entering (q : Req) : inHead (entering h k src dpa s) q = inHead s q := by
  obtain ⟨⟨ps, w, he⟩, -⟩ := entering_frame (h := h) (k := k) (src := src) (dpa := dpa) (s := s)
  rw [he]
  rfl

/-- The request that enters is at the head of its command FIFO. -/
theorem fifoHead_entering (ho : StagingOpen h k s) (hf : FreshUnit h.port s) :
    fifoHead (entering h k src dpa s) h.port = some (entered h k src dpa s) := by
  obtain ⟨-, -, hhead, hn⟩ := ho
  obtain ⟨keep, hstg⟩ := entering_stg (h := h) (k := k) (src := src) (dpa := dpa) hf
  have hfind := findReq_entering (h := h) (k := k) (src := src) (dpa := dpa) hn
  refine fifoHead_of_unique ?_ rfl ?_ ?_
  · exact (hfind _).trans (if_pos rfl)
  · rw [hstg]
    simp [entered]
  · intro id q hid hq hin
    rw [hfind] at hq
    split at hq
    next => exact (Option.some.inj hq).symm
    next hne =>
      rw [hstg] at hid
      have hold : (StgItem.req id, 0) ∈ (port s h.port).stg.map fun u => (u.item, u.fifo) := by
        rcases List.mem_append.mp hid with hid | hid
        · exact List.map_subset _ (List.filter_subset_self _) hid
        · simp [hne] at hid
      rw [inHead_entering, inHead_false_of_fifoHead_none hhead hold hq] at hin
      cases hin

theorem limitHeld_entering (g : ReqHdr) : limitHeld (entering h k src dpa s) g = limitHeld s g := by
  obtain ⟨⟨ps, w, he⟩, -⟩ := entering_frame (h := h) (k := k) (src := src) (dpa := dpa) (s := s)
  rw [he]
  rfl

end Entering

/-! ## The checks of a request do not depend on what is staged or in flight -/

/-- The two states differ in identifiers, ports, requests and the wire only, and the same links are UP. -/
def SameChecks (s a : State) : Prop :=
  (∃ n ps m w, a = { s with nextId := n, ports := ps, mem := m, wire := w }) ∧ ∀ p, portUp a p = portUp s p

/-- The colour of step 8 is that of the policer, but that a red CXL unit goes on as yellow (R160). -/
theorem step8_colour (cxl : Bool) (h : ReqHdr) (k : ReqKind) (s : State) : (step8 cxl h k s).1 =
    let c := (charge (polIndex h.part h.cls (subOf s h.rid)) (kindCharge k) false s).1
    if cxl && decide (c = .red) then .yellow else c := by
  unfold step8
  extract_lets b i
  dsimp only
  split <;> rfl

section Checks
variable {s a : State} (hs : SameChecks s a)
include hs

theorem twinUp_of_sameChecks : twinUp a = twinUp s := by
  obtain ⟨⟨n, ps, m, w, rfl⟩, hup⟩ := hs
  unfold twinUp
  simp only [hup]
  rfl

theorem serve_of_sameChecks (plane : Nat) : serve a plane = serve s plane := by
  have hu := twinUp_of_sameChecks hs
  obtain ⟨⟨n, ps, m, w, rfl⟩, hup⟩ := hs
  unfold serve
  rw [hu]
  rfl

theorem serveFlush_of_sameChecks (e : RangeEntry) (addr len : Nat) : serveFlush a e addr len = serveFlush s e addr len := by
  have hsv := serve_of_sameChecks hs
  obtain ⟨⟨n, ps, m, w, rfl⟩, hup⟩ := hs
  unfold serveFlush
  simp only [hsv]
  rfl

theorem check12_of_sameChecks (h : ReqHdr) : check12 a h = check12 s h := by
  obtain ⟨⟨n, ps, m, w, rfl⟩, -⟩ := hs
  rfl

theorem check37_of_sameChecks (h : ReqHdr) (k : ReqKind) : check37 a h k = check37 s h k := by
  have hsv := serve_of_sameChecks hs
  have hsf := serveFlush_of_sameChecks hs
  obtain ⟨⟨n, ps, m, w, rfl⟩, -⟩ := hs
  unfold check37
  simp only [hsv, hsf]
  rfl

theorem charge_colour_of_sameChecks (i b : Nat) (y : Bool) : (charge i b y a).1 = (charge i b y s).1 := by
  obtain ⟨⟨n, ps, m, w, rfl⟩, -⟩ := hs
  unfold charge
  rw [show policersNow { s with nextId := n, ports := ps, mem := m, wire := w } = policersNow s from rfl]
  split <;> rfl

theorem step8_colour_of_sameChecks (cxl : Bool) (h : ReqHdr) (k : ReqKind) : (step8 cxl h k a).1 = (step8 cxl h k s).1 := by
  have hsub : subOf a h.rid = subOf s h.rid := by
    obtain ⟨⟨n, ps, m, w, rfl⟩, -⟩ := hs
    rfl
  rw [step8_colour, step8_colour, hsub, charge_colour_of_sameChecks hs]

end Checks

/-! ## A request that leaves its FIFO and passes (R27, R153) -/

theorem find?_modFirst {α : Type} {p : α → Bool} {f : α → α} (hf : ∀ x, p x = true → p (f x) = true) (l : List α) :
    (modFirst p f l).find? p = (l.find? p).map f := by
  induction l with
  | nil => rfl
  | cons x l ih =>
    unfold modFirst
    cases hx : p x with
    | true => simp [hx, hf x hx]
    | false => simp [hx, ih]

theorem findReq_setReq {s : State} {id : Nat} {r : Req} {f : Req → Req} (hr : findReq s id = some r) (hf : ∀ q, (f q).id = q.id) :
    findReq (setReq id f s) id = some (f r) := by
  have hm := find?_modFirst (p := fun r : Req => decide (r.id = id)) (f := f) (fun q hq => by simpa [hf] using hq) s.mem.reqs
  exact hm.trans (by rw [show s.mem.reqs.find? (fun r => decide (r.id = id)) = some r from hr]; rfl)

theorem modFirst_self {α : Type} {p : α → Bool} {f : α → α} {l : List α} {x : α} (hx : l.find? p = some x) (hf : f x = x) : modFirst p f l = l := by
  induction l with
  | nil => rfl
  | cons y l ih =>
    unfold modFirst
    cases hy : p y with
    | true =>
      rw [List.find?_cons_of_pos hy] at hx
      rw [Option.some.inj hx]
      simp [hf]
    | false =>
      rw [List.find?_cons_of_neg (by simp [hy])] at hx
      simp [ih hx]

/-- A request that already is what a change makes of it stays as it is. -/
theorem setReq_self {s : State} {id : Nat} {r : Req} {f : Req → Req} (hr : findReq s id = some r) (hf : f r = r) : setReq id f s = s := by
  rw [setReq, modFirst_self hr hf]

/-- The request becomes outstanding, is charged and recorded, and is dispatched. -/
theorem leaveFifo_of_pass {a : State} {r : Req} {view : Option (Nat × RangeEntry × Bool)} {fwd : Bool} (hr : findReq a r.id = some r)
    (hat : r.accAt = a.now) (hft : r.accFt = ft a) (h12 : check12 a r.hdr = none) (h37 : check37 a r.hdr r.kind = .pass view fwd)
    (h8 : (step8 (isCxl r) r.hdr r.kind a).1 ≠ .red) :
    leaveFifo r.id r.hdr a = dispatch r.id fwd (checked r.hdr r.kind (isCxl r) r.id view a) := by
  let b := setReq r.id (fun q => { q with counted := true, phase := .lock }) (outInc r.hdr.rid r.hdr.part a)
  have hs : SameChecks a b := ⟨⟨a.nextId, a.ports, _, a.wire, rfl⟩, fun _ => rfl⟩
  have hb : findReq b r.id = some { r with counted := true, phase := .lock } := findReq_setReq hr fun _ => rfl
  have hpass : check17 b r.hdr r.kind = .pass view fwd := by
    rw [check17, check12_of_sameChecks hs, h12, check37_of_sameChecks hs]
    exact h37
  have hcol : (step8 (isCxl r) r.hdr r.kind b).1 ≠ .red := by
    rw [step8_colour_of_sameChecks hs]
    exact h8
  show runChecks r.id b = _
  simp only [runChecks, hb, hpass]
  rw [if_neg (show ¬(step8 (isCxl { r with counted := true, phase := .lock }) r.hdr r.kind b).1 = .red from hcol), hat, hft]
  rfl

/-- The request at the head of a command FIFO leaves it when no limit holds it. -/
theorem pump_of_head {p n : Nat} {s a : State} {r : Req} (ha : unspill p (dropDead p s) = a) (hhead : fifoHead a p = some r) (hp : r.phase = .fifo)
    (hone : stepOne a r = some (r.hdr, r.kind)) (hr : findReq a r.id = some r) (hl : limitHeld a r.hdr = false) :
    pump p (n + 1) s = pump p n (leaveFifo r.id r.hdr a) := by
  have hself : (if isCxl r = true then setReq r.id (fun q => { q with hdr := r.hdr, kind := r.kind }) a else a) = a := by
    split
    · exact setReq_self hr rfl
    · rfl
  simp only [pump, ha, hhead, hp, ne_eq, not_true_eq_false, if_false, hone, hself, hl, Bool.false_eq_true]

/-- A request that arrives with nothing ahead, is held by no limit and passes every check is admitted. -/
theorem arrive_admitted {h : ReqHdr} {k : ReqKind} {src : ReqSrc} {dpa : Nat} {s : State} {view : Option (Nat × RangeEntry × Bool)}
    {fwd cxl : Bool} (hcxl : isCxl (entered h k src dpa s) = cxl) (ho : StagingOpen h k s) (hf : FreshUnit h.port s) (hl : limitHeld s h = false)
    (h12 : check12 s h = none) (h37 : check37 s h k = .pass view fwd)
    (h8 : (step8 cxl h k s).1 ≠ .red) (hone : stepOne (entering h k src dpa s) (entered h k src dpa s) = some (h, k)) :
    arrive h k src dpa s = admitted h k src dpa cxl view fwd s := by
  subst hcxl
  have hn := ho.2.2.2
  have hr : findReq (entering h k src dpa s) (entered h k src dpa s).id = some (entered h k src dpa s) := (findReq_entering hn _).trans (if_pos rfl)
  obtain ⟨⟨ps, w, he⟩, hlink⟩ := entering_frame (h := h) (k := k) (src := src) (dpa := dpa) (s := s)
  have hs : SameChecks s (entering h k src dpa s) := ⟨⟨_, ps, _, w, he⟩, fun p => by simp only [portUp, hlink]⟩
  have hleave := leaveFifo_of_pass (view := view) (fwd := fwd) hr (by rw [he]; rfl) (by rw [he]; rfl) ((check12_of_sameChecks hs h).trans h12)
    ((check37_of_sameChecks hs h k).trans h37) (by rw [step8_colour_of_sameChecks hs]; exact h8)
  rw [arrive_accepted ho, pump_of_head rfl (fifoHead_entering ho hf) rfl hone hr ((limitHeld_entering h).trans hl), ← entering, hleave]
  rfl

end Sys2Proof.Machine
end

section
/-! PROOFS. The twenty memory requests and the four CXL.mem transactions as they arrive: each is admitted as O8 and O11 say where its staging unit's
identifier is a new one. -/

namespace Sys2Proof.Machine

/-! ## What a memory request makes (R27, R38, R42) -/

theorem exec_of_memReqOf {c : Instr} {h : ReqHdr} {k : ReqKind} (hc : memReqOf c = some (h, k)) (s : State) : exec c s = runE (arriveBamom h k) s := by
  unfold memReqOf at hc
  split at hc <;> cases hc <;> rfl

/-- A memory request whose unit's identifier is a new one is admitted: O8 with that hypothesis. -/
theorem makesE_memoryRequest {c : Instr} {h : ReqHdr} {k : ReqKind} {s : State} {view : Option (Nat × RangeEntry × Bool)} {fwd : Bool}
    (hc : memReqOf c = some (h, k)) (hlive : live s = true) (hport : portIs s h.port 1 0 = true) (hup : portUp s h.port = true)
    (ho : StagingOpen h k s) (hf : FreshUnit h.port s) (hl : limitHeld s h = false) (h12 : check12 s h = none)
    (h37 : check37 s h k = .pass view fwd) (h8 : (step8 false h k s).1 ≠ .red) : MakesE c s (admitted h k .bamom 0 false view fwd s) := by
  rw [MakesE, Makes, exec_of_memReqOf hc, runE_live _ s hlive, arriveBamom, if_pos (by rw [hport, hup]; rfl),
    arrive_admitted (src := .bamom) (cxl := false) rfl ho hf hl h12 h37 h8 rfl]

/-! ## What a CXL.mem transaction makes (R29, R74, R233) -/

theorem slice_length (b : Bytes) (off n : Nat) : (slice b off n).length = n := by
  simp only [slice, List.length_append, List.length_replicate, List.length_take]
  omega

theorem slice_self {b : Bytes} {n : Nat} (h : b.length = n) : slice b 0 n = b := by
  simp [slice, ← h]

/-- A full-line write keeps its line when its window is looked up again. -/
theorem natLe_toNat_line (data : Bytes) : natLe 64 (BitVec.ofNat 512 (leNat (slice data 0 64))).toNat = slice data 0 64 := by
  have hl := slice_length data 0 64
  have hlt := leNat_lt (slice data 0 64)
  rw [hl] at hlt
  rw [BitVec.toNat_ofNat, Nat.mod_eq_of_lt (by omega)]
  calc natLe 64 (leNat (slice data 0 64)) = natLe (slice data 0 64).length (leNat (slice data 0 64)) := by rw [hl]
    _ = slice data 0 64 := natLe_leNat _

theorem fullLine_slice (data : Bytes) (h : ReqHdr) : fullLine (slice data 0 64) h = fullLine data h := by
  simp only [fullLine, slice_self (slice_length data 0 64)]

/-- The kind of request each CXL.mem transaction is (R74): it asks for the same when its window is looked up again at step 1. -/
def CxlKind (h : ReqHdr) (k : ReqKind) : Prop := k = .loadLine ∨ (∃ d m, k = .storeMasked d m) ∨ ∃ d, k = fullLine d h

theorem stepOne_cxl {a : State} {r : Req} {w : WindowRec} (hx : isCxl r = true) (hw : windowAt a r.hdr.port r.dpa = some w)
    (hh : windowHdr a w r.hdr.port r.dpa r.hdr.poison = r.hdr) (hk : CxlKind r.hdr r.kind) : stepOne a r = some (r.hdr, r.kind) := by
  simp only [stepOne, hx, Bool.not_true, Bool.false_eq_true, if_false, hw, Option.map_some, hh]
  rcases hk with hk | ⟨d, m, hk⟩ | ⟨d, hk⟩
  · simp only [hk]
  · simp only [hk]
  · rw [hk]
    cases hap : inAperture r.hdr.addr with
    | true =>
      have he : fullLine d r.hdr = .opFlit (BitVec.ofNat 512 (leNat (slice d 0 64))) := if_pos hap
      simp only [he, natLe_toNat_line, fullLine_slice]
    | false =>
      have he : fullLine d r.hdr = .storeLine (slice d 0 64) := if_neg (by simp [hap])
      simp only [he, fullLine_slice]

/-- Taking a transaction's credits, at 64 GT/s after RS FEC has run, changes ports, their counters and the free values. -/
theorem cxlTake_frame (p : Nat) (wr : Bool) (s : State) : ∃ ps pc i,
    cxlTake p wr (if (port s p).rateNow = 5 then fecSeen p s else s) = { s with ports := ps, pctr := pc, freeIx := i } := by
  split
  · obtain ⟨l, hl⟩ := fecSeen_eq p s
    exact ⟨_, l, _, by rw [hl]; rfl⟩
  · exact ⟨_, s.pctr, s.freeIx, rfl⟩

section Cxl
variable {s u : State} {p dpa : Nat} {w : WindowRec} {psn : Bool} {h : ReqHdr} {k : ReqKind}

/-- A plane that has taken a transaction's credits finds the same window and makes the same header. -/
theorem window_of_cxlTake {wr : Bool} (hw : windowAt s p dpa = some w)
    (hu : cxlTake p wr (if (port s p).rateNow = 5 then fecSeen p s else s) = u) :
    windowAt u p dpa = some w ∧ windowHdr u w p dpa psn = windowHdr s w p dpa psn := by
  obtain ⟨ps, pc, i, he⟩ := cxlTake_frame p wr s
  rw [he] at hu
  subst hu
  exact ⟨hw, rfl⟩

/-- Inside a window a transaction takes its credits and arrives as the request of R29. -/
theorem cxlArrive_of_window {K : ReqHdr → ReqKind} (hport : portIs s p 2 0 = true) (hup : portUp s p = true) (hreq : 1 ≤ (port s p).cxlReq)
    (hw : windowAt s p dpa = some w) (hh : windowHdr s w p dpa psn = h) (hk : K h = k) (hload : ∀ g, kindLoad (K g) = kindLoad k)
    (hdat : kindLoad k = true ∨ 1 ≤ (port s p).cxlDat) (hu : cxlTake p (!kindLoad k) (if (port s p).rateNow = 5 then fecSeen p s else s) = u) :
    cxlArrive p dpa psn K s = cxlCredits p (arrive h k (.cxl (!kindLoad k)) dpa u) := by
  obtain ⟨hwu, hhu⟩ := window_of_cxlTake (psn := psn) hw hu
  have hcr : (portIs s p 2 0 && portUp s p && decide (1 ≤ (port s p).cxlReq) && (kindLoad k || decide (1 ≤ (port s p).cxlDat))) = true := by
    rcases hdat with hdat | hdat <;> simp [hport, hup, hreq, hdat]
  simp only [cxlArrive, hload, hcr, if_true, hu, hwu, hhu, hh, hk]

/-- A transaction inside a window whose unit's identifier is a new one is admitted as the request it is. -/
theorem cxlArrive_admitted {K : ReqHdr → ReqKind} {view : Option (Nat × RangeEntry × Bool)} {fwd : Bool} (hport : portIs s p 2 0 = true)
    (hup : portUp s p = true) (hreq : 1 ≤ (port s p).cxlReq) (hw : windowAt s p dpa = some w) (hh : windowHdr s w p dpa psn = h) (hk : K h = k)
    (hkind : CxlKind h k) (hload : ∀ g, kindLoad (K g) = kindLoad k) (hdat : kindLoad k = true ∨ 1 ≤ (port s p).cxlDat)
    (hu : cxlTake p (!kindLoad k) (if (port s p).rateNow = 5 then fecSeen p s else s) = u) (ho : StagingOpen h k u) (hf : FreshUnit p u)
    (hl : limitHeld u h = false) (h12 : check12 u h = none) (h37 : check37 u h k = .pass view fwd) (h8 : (step8 true h k u).1 ≠ .red) :
    cxlArrive p dpa psn K s = cxlCredits p (admitted h k (.cxl (!kindLoad k)) dpa true view fwd u) := by
  have hp : h.port = p := by rw [← hh]; rfl
  obtain ⟨hwu, hhu⟩ := window_of_cxlTake (psn := psn) hw hu
  obtain ⟨⟨ps, v, he⟩, -⟩ := entering_frame (h := h) (k := k) (src := .cxl (!kindLoad k)) (dpa := dpa) (s := u)
  have hone : stepOne (entering h k (.cxl (!kindLoad k)) dpa u) (entered h k (.cxl (!kindLoad k)) dpa u) = some (h, k) := by
    refine stepOne_cxl (w := w) rfl ?_ ?_ hkind
    · rw [he]
      show windowAt u h.port dpa = some w
      rw [hp, hwu]
    · rw [he]
      show windowHdr u w h.port dpa h.poison = h
      rw [hp, show h.poison = psn by rw [← hh]; rfl, hhu, hh]
  rw [cxlArrive_of_window hport hup hreq hw hh hk hload hdat hu,
    arrive_admitted (cxl := true) rfl ho (by rw [hp]; exact hf) hl h12 h37 h8 hone]

end Cxl

theorem kindLoad_fullLine (data : Bytes) (h : ReqHdr) : kindLoad (fullLine data h) = false := by
  unfold fullLine
  split <;> rfl

/-- The four CXL.mem transactions are admitted where the unit's identifier is a new one: O11 with that hypothesis. -/
theorem makesE_cxlTransaction {s : State} {p dpa : Nat} {w : WindowRec} {data : Bytes} {mask : Word64} {view : Option (Nat × RangeEntry × Bool)}
    {fwd : Bool} (hlive : live s = true) (hport : portIs s p 2 0 = true) (hup : portUp s p = true) (hreq : 1 ≤ (port s p).cxlReq)
    (hw : windowAt s p dpa = some w) {c : Instr} {k : ReqKind} {psn : Bool} {h : ReqHdr} {u : State} (hh : windowHdr s w p dpa psn = h)
    (hu : cxlTake p (!kindLoad k) (if (port s p).rateNow = 5 then fecSeen p s else s) = u) (hdat : kindLoad k = true ∨ 1 ≤ (port s p).cxlDat)
    (hc : (c, k, psn) ∈ [(.cxlMemrd p dpa, .loadLine, false), (.cxlMemwr p dpa data, fullLine data h, false),
        (.cxlMemwrptl p dpa data mask, .storeMasked (slice data 0 64) mask, false), (.cxlMemwrPoison p dpa data, fullLine data h, true)])
    (ho : StagingOpen h k u) (hf : FreshUnit p u) (hl : limitHeld u h = false) (h12 : check12 u h = none) (h37 : check37 u h k = .pass view fwd)
    (h8 : (step8 true h k u).1 ≠ .red) : MakesE c s (cxlCredits p (admitted h k (.cxl (!kindLoad k)) dpa true view fwd u)) := by
  have key : ∀ K : ReqHdr → ReqKind, K h = k → CxlKind h k → (∀ g, kindLoad (K g) = kindLoad k) → exec c s = runE (cxlArrive p dpa psn K) s →
      MakesE c s (cxlCredits p (admitted h k (.cxl (!kindLoad k)) dpa true view fwd u)) := fun K hk hkind hload he =>
    makesE_of_runE hlive he (cxlArrive_admitted hport hup hreq hw hh hk hkind hload hdat hu ho hf hl h12 h37 h8)
  simp only [List.mem_cons, List.not_mem_nil, or_false, Prod.mk.injEq] at hc
  rcases hc with ⟨rfl, rfl, rfl⟩ | ⟨rfl, rfl, rfl⟩ | ⟨rfl, rfl, rfl⟩ | ⟨rfl, rfl, rfl⟩
  · exact key (fun _ => .loadLine) rfl (.inl rfl) (fun _ => rfl) rfl
  · exact key (fullLine data) rfl (.inr (.inr ⟨data, rfl⟩)) (fun g => by rw [kindLoad_fullLine, kindLoad_fullLine]) rfl
  · exact key (fun _ => .storeMasked (slice data 0 64) mask) rfl (.inr (.inl ⟨_, _, rfl⟩)) (fun _ => rfl) rfl
  · exact key (fullLine data) rfl (.inr (.inr ⟨data, rfl⟩)) (fun g => by rw [kindLoad_fullLine, kindLoad_fullLine]) rfl

end Sys2Proof.Machine
end

section
/-! PROOFS. O8 and O11 fail: a plane whose port stages a discarded payload under the identifier that the next request's unit is given loses that unit with
it, so that the request stays in its FIFO where the obligations have it dispatched. The model takes identifiers in turn, so the counterexample is a state that the
obligations do not exclude and not a course of the plane; `makesE_memoryRequest` and `makesE_cxlTransaction` prove what they say wherever the next identifier is
a new one, and are applied below to the same plane with such an identifier. -/

namespace Sys2Proof.Machine

/-- The window of the host's port onto aperture space. -/
def apertureWindow : WindowRec := { valid := true, port := 1, rid := 2, size := 4, fabricBase := apBase / mib2 }

/-- The payload of an answered request, under identifier 1. -/
def deadUnit : StgUnit := { uid := 1, fifo := 0, item := .dead, units := 1 }

/-- A plane whose next identifier is `n`, with partition 1 ACTIVE, a requester's port 0 and a host's port 1, on each of which a payload waits to
be discarded. -/
def deadPlane (n : Nat) : State := { State.reset with
  nextId := n
  img := {
    ports := [(0, { protocol := 1 }), (1, { protocol := 2 })]
    parts := [(1, {})]
    reqs := [(1, { enabled := true, port := 0, part := 1 }), (2, { enabled := true, port := 1, part := 1 })]
    windows := [(0, apertureWindow)] }
  pstate := [(1, 1)]
  ports := [(0, { link := .up, stg := [deadUnit] }), (1, { link := .up, cxlReq := 1, stg := [deadUnit] })]
  eng := { apKeys := [(1, 3)] } }

/-- The plane once a read of the host has taken its credits. -/
def deadPlaneRead (n : Nat) : State := cxlTake 1 false (deadPlane n)

/-- A FENCE of requester 1. -/
def fenceHdr : ReqHdr :=
  { port := 0, rid := 1, part := 1, cls := 0, cmark := false, poison := false, tag := 0, reissue := false, addr := 0, key := 0 }

/-- The DPA of the first status line of partition 1, and the host's load of that line. -/
def statusDpa : Nat := 65536 + 0x8000
def statusHdr : ReqHdr := windowHdr (deadPlane 0) apertureWindow 1 statusDpa false

theorem stagingOpen_deadPlane : StagingOpen fenceHdr .fence (deadPlane 0) ∧ StagingOpen fenceHdr .fence (deadPlane 1) := by
  unfold StagingOpen
  decide +kernel

theorem stagingOpen_deadPlaneRead : StagingOpen statusHdr .loadLine (deadPlaneRead 0) ∧ StagingOpen statusHdr .loadLine (deadPlaneRead 1) := by
  unfold StagingOpen
  decide +kernel

/-! ## With a new identifier both are admitted -/

theorem makesE_fence_deadPlane : MakesE (.fence fenceHdr) (deadPlane 1) (admitted fenceHdr .fence .bamom 0 false none false (deadPlane 1)) :=
  makesE_memoryRequest rfl (by decide +kernel) (by decide +kernel) (by decide +kernel) stagingOpen_deadPlane.2 (by unfold FreshUnit; decide +kernel)
    (by decide +kernel) (by decide +kernel) (by decide +kernel) (by decide +kernel)

theorem makesE_cxlMemrd_deadPlane : MakesE (.cxlMemrd 1 statusDpa) (deadPlane 1)
    (cxlCredits 1 (admitted statusHdr .loadLine (.cxl false) statusDpa true none false (deadPlaneRead 1))) :=
  makesE_cxlTransaction (w := apertureWindow) (data := []) (mask := 0) (by decide +kernel) (by decide +kernel) (by decide +kernel) (by decide +kernel)
    (by decide +kernel) rfl rfl (.inl rfl) List.mem_cons_self stagingOpen_deadPlaneRead.2 (by unfold FreshUnit; decide +kernel) (by decide +kernel)
    (by decide +kernel) (by decide +kernel) (by decide +kernel)

/-! ## With the identifier of the discarded payload neither is -/

/-- Outstanding requests of each requester after a step. -/
def outstanding : Host.Outcome State Fault Refusal → List (Nat × Nat)
  | .next t => t.mem.outReq
  | _ => []

/-- The FENCE is not outstanding after its command, where the obligation has it outstanding. -/
theorem outstanding_fence : outstanding (exec (.fence fenceHdr) (deadPlane 0)) = [] ∧
    outstanding (.next (afterCmd (deadPlane 0) (settleAll (admitted fenceHdr .fence .bamom 0 false none false (deadPlane 0))))) = [(1, 1)] := by
  decide +kernel

/-- Nor is the load of a status line. -/
theorem outstanding_cxlMemrd : outstanding (exec (.cxlMemrd 1 statusDpa) (deadPlane 0)) = [] ∧
    outstanding (.next (afterCmd (deadPlane 0) (settleAll
      (cxlCredits 1 (admitted statusHdr .loadLine (.cxl false) statusDpa true none false (deadPlaneRead 0)))))) = [(2, 1)] := by
  decide +kernel

/-- Refutes O8: the FENCE's unit is staged under identifier 1, goes with the discarded payload of that identifier, and the FENCE is never dispatched. With a
new identifier the statement holds (`makesE_memoryRequest`). -/
theorem not_memoryRequestIsAdmitted : ¬ Obligations.MemoryRequestIsAdmitted := by
  unfold Obligations.MemoryRequestIsAdmitted
  intro hall
  have hmakes : exec (.fence fenceHdr) (deadPlane 0) = _ := hall (.fence fenceHdr) fenceHdr .fence (deadPlane 0) none false rfl (by decide +kernel)
    (by decide +kernel) (by decide +kernel) stagingOpen_deadPlane.1 (by decide +kernel) (by decide +kernel) (by decide +kernel) (by decide +kernel)
  obtain ⟨hmodel, hclaim⟩ := outstanding_fence
  rw [hmakes] at hmodel
  exact absurd (hmodel.symm.trans hclaim) (by decide)

/-- Refutes O11: the unit of a host's load of a status line is lost in the same way. With a new identifier the statement holds (`makesE_cxlTransaction`). -/
theorem not_cxlTransactionIsAdmitted : ¬ Obligations.CxlTransactionIsAdmitted := by
  unfold Obligations.CxlTransactionIsAdmitted
  intro hall
  have hmakes : exec (.cxlMemrd 1 statusDpa) (deadPlane 0) = _ := hall (deadPlane 0) 1 statusDpa apertureWindow [] 0 none false (by decide +kernel)
    (by decide +kernel) (by decide +kernel) (by decide +kernel) (by decide +kernel) (.cxlMemrd 1 statusDpa) .loadLine false (.inl rfl)
    List.mem_cons_self stagingOpen_deadPlaneRead.1 (by decide +kernel) (by decide +kernel) (by decide +kernel) (by decide +kernel)
  obtain ⟨hmodel, hclaim⟩ := outstanding_cxlMemrd
  rw [hmakes] at hmodel
  exact absurd (hmodel.symm.trans hclaim) (by decide)

end Sys2Proof.Machine
end

section
/-! PROOFS. The LOAD window and the LOAD field (O6, O7, O19): every command answers a state that is tracked, and so does a nanosecond that passes; the device
level is read off the branches of Table 2.6. -/

namespace Sys2Proof.Machine

/-! ## The window keeps the worst (R72) -/

/-- Tracking records all of the present device state. -/
theorem tracked_track (s : State) : Tracked (track s) :=
  ⟨Nat.le_max_right _ _, Nat.le_max_right _ _, Nat.le_max_right _ _, fun (h : throttled s = true) => by
    show (s.mem.winThrottle || throttled s) = true
    rw [h, Bool.or_true]⟩

/-- The queue and the 1 ns counter, which a command gives back, are no part of the device state. -/
theorem tracked_afterCmd (s t : State) : Tracked (afterCmd s t) := tracked_track t

theorem tracked_tick (s : State) : Tracked (tick s) := tracked_track _

/-- The outcome is what a command leaves of some state: tracked, with the queue and the 1 ns counter of `s`. -/
def AnswersAfter (s : State) (o : Outcome) : Prop := ∃ t, o = .next (afterCmd s t)

theorem answersAfter_runT (f : State → State) (s : State) : AnswersAfter s (runT f s) := by
  unfold runT
  split
  · exact ⟨_, rfl⟩
  · exact ⟨_, rfl⟩

/-- Every command answers so: those of the time unit by `runT`, all others by `run` or `afterCmd` itself. -/
theorem answersAfter_exec (c : Instr) (s : State) : AnswersAfter s (exec c s) := by
  cases c
  case ppsEdge | ptpSync | tosServoUpdate | sourceQualify | sourceDisqualify | holdoverExpire | schedActivate | ppsOutRise | ppsOutFall =>
    exact answersAfter_runT _ s
  all_goals exact ⟨_, rfl⟩

/-- Settles O6: a step is a nanosecond or a command, and both leave a tracked state. -/
theorem loadWindowKeepsTheWorst : Obligations.LoadWindowKeepsTheWorst := by
  unfold Obligations.LoadWindowKeepsTheWorst
  intro s t _ hstep
  unfold step at hstep
  split at hstep
  · cases hstep
    exact tracked_tick s
  · next c rest _ =>
    obtain ⟨u, hu⟩ := answersAfter_exec c { s with pending := rest }
    rw [hu] at hstep
    cases hstep
    exact tracked_afterCmd _ u

/-- Settles O7: at reset nothing is in use and nothing is throttled. -/
theorem loadWindowHoldsAtReset : Obligations.LoadWindowHoldsAtReset := by
  unfold Obligations.LoadWindowHoldsAtReset Tracked
  decide

/-! ## The device level (Table 2.6) -/

theorem levelNow_of_worst {s : State} (h : wheyCarve s < 4 * wheyUsed s ∨ throttled s = true) : levelNow s = 3 := if_pos h

/-- With neither of the causes of level 3 the Vat and any use of Whey decide. -/
theorem levelNow_of_not_worst {s : State} (hw : 4 * wheyUsed s ≤ wheyCarve s) (ht : throttled s = false) : levelNow s =
    if 3 * vatCells s ≤ 4 * vatUsed s ∨ 0 < wheyUsed s then 2 else if vatCells s ≤ 2 * vatUsed s then 1 else 0 :=
  if_neg (by simp [ht, hw])

/-- Settles O19: the branches of `levelNow` by the lemmas above, and the two parts of `loadField`. -/
theorem loadFieldOfTable26 : Obligations.LoadFieldOfTable26 := by
  unfold Obligations.LoadFieldOfTable26
  intro s
  refine ⟨levelNow_of_worst, fun hw ht h2 => ?two, fun hw ht h2 h1 => ?one, fun hw ht h1 => ?zero, fun part self => ⟨rfl, Nat.min_le_left _ _⟩⟩
  case two => rw [levelNow_of_not_worst hw ht, if_pos h2]
  case one => rw [levelNow_of_not_worst (by omega) ht, if_neg (by omega), if_pos h1]
  case zero => rw [levelNow_of_not_worst (by omega) ht, if_neg (by omega), if_neg (by omega)]

end Sys2Proof.Machine
end

section
/-! PROOFS. What a load, an atomic request and a tray's answer make (O12, O13, O16). -/

namespace Sys2Proof.Machine

/-! ## A load whose pieces are in (R17, R45) -/

section Plain
variable {e : RangeEntry} (he : e.sealed = false) (s : State) (r : Req) (addr : Nat)
include he

theorem readBytes_of_plain (len : Nat) : readBytes s r e addr len = some (slice (joinPieces r.pieces) 0 len) := by
  simp [readBytes, he]

theorem macFirst_of_plain : macFirst s r e addr = false := by
  simp [macFirst, he]

end Plain

theorem kindLoad_cases {k : ReqKind} (h : kindLoad k = true) : k = .loadLine ∨ ∃ n, k = .loadStream n := by
  cases k with
  | loadLine => exact .inl rfl
  | loadStream n => exact .inr ⟨n, rfl⟩
  | _ => cases h

/-- A load of plain memory with all its pieces back is answered with their bytes. -/
theorem progress_of_plain_load {s : State} {id range : Nat} {e : RangeEntry} {odd : Bool} {r : Req} (hr : findReq s id = some r)
    (hv : r.view = some (range, e, odd)) (he : e.sealed = false) (hk : kindLoad r.kind = true) (hp : r.phase = .queued ∨ r.phase = .exec)
    (hs : pieceStatus r = .ok) : progress id s = finishRetire id .ok 0 (slice (joinPieces r.pieces) 0 (kindLen r.kind)) s := by
  obtain hk | ⟨n, hk⟩ := kindLoad_cases hk
  all_goals
    rcases hp with hp | hp <;>
      simp only [progress, hr, hv, hp, hk, hs, macFirst_of_plain he, readBytes_of_plain he, Bool.false_eq_true, if_false, ne_eq, not_true_eq_false]

/-! ## A response joins its port's queue (R43, R133) -/

/-- The response as it joins the queue of a port that is UP. -/
def rspDesc (id res : Nat) (counted : Bool) (r : Rsp) (s : State) : Desc :=
  { uid := s.nextId, item := .rsp id r, pool := .rsp, cells := max res (ceilDiv (16 + r.data.length) 16), bytes := 16 + r.data.length, part := r.part
    counted := counted }

theorem port_descTake (s : State) (p : Nat) : port (descTake s) p = port s p := rfl

section Queue
variable {s : State} {p : Nat} (hu : portUp s p = true) (id res : Nat) (counted : Bool) (r : Rsp)
include hu

theorem queueRsp_up :
    let d := rspDesc id res counted r s
    queueRsp p id res counted r s = descTake (setPort p (fun q => { q with rspQ := q.rspQ ++ [d], rspUsed := q.rspUsed + (d.cells - res) })
      (poolTake .rsp (d.cells - res) { s with nextId := s.nextId + 1 })) := if_pos hu

theorem rspQ_queueRsp : (port (queueRsp p id res counted r s) p).rspQ = (port s p).rspQ ++ [rspDesc id res counted r s] := by
  rw [queueRsp_up hu, port_descTake, port_setPort, if_pos rfl]
  rfl

end Queue

/-- Settles O12: a load's answer by `progress_of_plain_load`, the queue by `rspQ_queueRsp`. -/
theorem loadAnswerCarriesItsBytes : Obligations.LoadAnswerCarriesItsBytes := by
  unfold Obligations.LoadAnswerCarriesItsBytes
  exact ⟨fun s id range e odd r => progress_of_plain_load,
    fun s p id res counted r hu => ⟨rspDesc id res counted r s, rspQ_queueRsp hu id res counted r, rfl, rfl, rfl, rfl⟩⟩

/-! ## The atomic unit (R62, Table 2.2) -/

/-- The 64-bit word of a line at byte `off`. -/
def wordAt (line : Bytes) (off : Nat) : Word64 := BitVec.ofNat 64 (fieldAt line off 8)

/-- The line with a 64-bit word written at byte `off`. -/
def withWord (line : Bytes) (off : Nat) (v : Word64) : Bytes := overlay line off (natLe 8 v.toNat)

section AtomicUnit
variable (off : Nat) (line : Bytes)

theorem auCompute_atomic (op : AtOp) (opa : Word64) : auCompute (.atomic op opa) off line =
    { st := .ok, res := (wordAt line off).setWidth 128
      line := if atApply op (wordAt line off) opa = wordAt line off then none else some (withWord line off (atApply op (wordAt line off) opa)) } := rfl

theorem auCompute_cas64 (cmp swp : Word64) : auCompute (.cas64 cmp swp) off line =
    { st := .ok, res := (wordAt line off).setWidth 128
      line := if wordAt line off = cmp ∧ swp ≠ wordAt line off then some (withWord line off swp) else none } := rfl

theorem auCompute_storeGuarded (d : Bytes) : auCompute (.storeGuarded d) off line =
    if guardWord line = 0 then { st := .ok, res := 0, line := some (slice d 0 64) }
    else { st := .versionConflict, res := (guardWord line).setWidth 128, line := none } := rfl

theorem auCompute_publish (rb rl : Nat) (e n : Word64) : auCompute (.publish rb rl e n) off line =
    if wordAt line off = e then { st := .ok, res := 0, line := if n = wordAt line off then none else some (withWord line off n) }
    else { st := .versionConflict, res := (wordAt line off).setWidth 128, line := none } := rfl

end AtomicUnit

section Operations
variable (a b : Word64)

theorem toInt_atApply_min : (atApply .min a b).toInt = min a.toInt b.toInt := by
  simp only [atApply]
  split <;> omega

theorem toInt_atApply_max : (atApply .max a b).toInt = max a.toInt b.toInt := by
  simp only [atApply]
  split <;> omega

theorem toNat_atApply_umin : (atApply .umin a b).toNat = min a.toNat b.toNat := by
  simp only [atApply]
  split <;> omega

theorem toNat_atApply_umax : (atApply .umax a b).toNat = max a.toNat b.toNat := by
  simp only [atApply]
  split <;> omega

end Operations

/-- Settles O13: the atomic unit's result for each kind of request, under the condition each clause gives. -/
theorem atomicUnitResults : Obligations.AtomicUnitResults := by
  unfold Obligations.AtomicUnitResults
  refine ⟨fun off line => ⟨?rmw, ?cas, ?guardOpen, ?guardHeld, ?publishOther, ?publishExpected⟩,
    fun a b => ⟨rfl, rfl, rfl, rfl, rfl, toInt_atApply_min a b, toInt_atApply_max a b, toNat_atApply_umin a b, toNat_atApply_umax a b⟩⟩
  case rmw =>
    intro op opa
    rw [auCompute_atomic]
    exact ⟨rfl, rfl, rfl⟩
  case cas =>
    intro cmp swp
    rw [auCompute_cas64]
    exact ⟨rfl, fun hc => if_neg fun h => hc h.1, fun hc hs => if_pos ⟨hc, hs⟩⟩
  case guardOpen => exact fun d h => (auCompute_storeGuarded off line d).trans (if_pos h)
  case guardHeld => exact fun d h => (auCompute_storeGuarded off line d).trans (if_neg h)
  case publishOther => exact fun rb rl e n h => (auCompute_publish off line rb rl e n).trans (if_neg h)
  case publishExpected =>
    intro rb rl e n (h : wordAt line off = e) (hn : n ≠ wordAt line off)
    rw [auCompute_publish, if_pos h, if_neg hn]
    rfl

/-! ## Answers of trays (R44, R45, R222, R537) -/

section Tray
variable {s : State} {a : Acc} (ha : findAcc s a.aid = some a)
include ha

/-- The answer of an access that is out for a piece of a request ends it and completes the piece. -/
theorem trayBack_of_req {id i : Nat} (ho : a.owner = .req id i) (hs : a.state = .sent)
    (hk : a.kind = .load ∨ a.kind = .store ∨ a.kind = .storeMasked ∨ a.kind = .flush) (st : Status) (data : Bytes) :
    trayBack a.eng a.aid st data s = reqPiece id i false st (if a.kind = .load ∧ st = .ok then slice data 0 a.len else []) (accGone a s) := by
  have hown : engOwn a = a.eng := by simp [engOwn, ho]
  have hout : ¬(engOwn a ≠ a.eng ∨ a.state = .queued ∨ a.state = .held ∨ a.kind = .flRead ∨ a.kind = .flProg ∨ a.kind = .flErase ∨
      a.kind = .flGeom) := by
    rcases hk with hk | hk | hk | hk <;> simp [hown, hs, hk]
  have hlate : ¬a.state = .late := by rw [hs]; nofun
  simp only [trayBack, ha, if_neg hout, if_neg hlate, deliverAcc, ho]

theorem makesE_trayAnswerTimeout (h : live s = true) (hq : a.state ≠ .queued) (hh : a.state ≠ .held) (hv : a.viaTwin = false) (he : a.execEnd ≠ 0)
    (ht : a.execEnd + 1000000 ≤ s.now) : MakesE (.trayAnswerTimeout a.aid) s (portGoesDown a.port 9 s) := by
  have hd : a.state ≠ .queued ∧ a.state ≠ .held ∧ (!a.viaTwin) = true ∧ a.execEnd ≠ 0 ∧ s.now ≥ a.execEnd + 1000000 :=
    ⟨hq, hh, by rw [hv]; rfl, he, ht⟩
  show execTrayAnswerTimeout a.aid s = _
  rw [execTrayAnswerTimeout, runE_live _ s h]
  simp only [ha, if_pos hd]

end Tray

/-- Settles O16: TRAY_RESPONSE and ENGINE_ACCESS_RETURN are `trayBack` for their own accesses, and the timeout is the lemma above. -/
theorem trayAnswers : Obligations.TrayAnswers := by
  unfold Obligations.TrayAnswers
  intro s a st data id i h ha
  refine ⟨fun ho hs hk => ?answer, makesE_trayAnswerTimeout ha h⟩
  have hback := trayBack_of_req ha ho hs hk st data
  exact ⟨fun he => makesE_of_runE h rfl (he ▸ hback), fun he => makesE_of_runE h rfl (he ▸ hback)⟩

end Sys2Proof.Machine
end

section
/-! PROOFS. Mirroring of tagged requests and the ageing of their entries (O17): one lemma for what each command makes, then the statement. -/

namespace Sys2Proof.Machine

/-- The plane with an entry of the twin held as a shadow entry, in place of an older one of the same tag, and acknowledged (R59). -/
def shadowHeld (e : MirrorEnt) (s : State) : State :=
  sendTwin (.mirrorAck e.rid e.tag) { s with mem := { s.mem with
    shadow := (s.mem.shadow.filter fun x => !(x.ent.rid == e.rid && x.ent.tag == e.tag)) ++ [{ ent := e, storedAt := s.now }] } }

/-- An entry of a reachable twin is held; its claims are noted once the twin is known, and compared unless claims rest. -/
theorem mirrorIn_of_twinUp {s : State} (hu : twinUp s = true) (e : MirrorEnt) (cl : List Claim) :
    let a := shadowHeld e s
    let b := setTwn (fun t => { t with peer := cl }) a
    mirrorIn e cl s = if a.twn.twinInService = none then a else if claimsRest b then b else cl.foldl checkClaim b := by
  rw [mirrorIn, if_neg (by simp [hu]), shadowHeld]
  generalize sendTwin _ _ = a
  cases hn : a.twn.twinInService with
  | none => simp [hn]
  | some v => simp [hn]

section Mirror
variable {s : State} (h : live s = true)
include h

/-! ## The steps of Table 2.4 -/

theorem makesR_mirrorEntry (hu : twinUp s = true) (e : MirrorEnt) (cl : List Claim) :
    let a := shadowHeld e s
    let b := setTwn (fun t => { t with peer := cl }) a
    MakesR (.mirrorEntry { ent := e, claims := cl }) s (if a.twn.twinInService = none then a else if claimsRest b then b else cl.foldl checkClaim b) :=
  makesR_of_runR h rfl (mirrorIn_of_twinUp hu e cl)

theorem makesE_mirrorAck {id : Nat} {r : Req} (hr : findReq s id = some r) (hp : r.phase = .auMirror) : MakesE (.mirrorAck id) s
    (mirrorPast id (setReq id (fun r => { r with mirAck := true }) { s with mem := { s.mem with
      mirrorRtt := s.now - agetD s.mem.mirrorAt id s.now, mirrorAt := adel s.mem.mirrorAt id } })) := by
  show execMirrorAck id s = _
  rw [execMirrorAck, runE_live _ s h]
  simp only [hr, hp, ne_eq, not_true_eq_false, if_false]

theorem makesE_mirrorDone (hu : twinUp s = true) (rid tag : Nat) : MakesE (.mirrorDone rid tag) s
    (sendTwin (.doneAck rid tag) (setShadow rid tag (fun e => { e with ent := { e.ent with done := true } }) s)) := by
  show execMirrorDone rid tag s = _
  rw [execMirrorDone, runE_live _ s h]
  simp only [hu, Bool.not_true, Bool.false_eq_true, if_false]

theorem makesE_mirrorDoneAck {id : Nat} {r : Req} (hr : findReq s id = some r) (hp : r.phase = .auDone) (hl : r.released = true) :
    MakesE (.mirrorDoneAck id) s (retire id s) := by
  show execMirrorDoneAck id s = _
  rw [execMirrorDoneAck, runE_live _ s h]
  simp only [hr, hp, hl, and_self, if_true]

/-! ## Entries after 256 us (R55, R59) -/

section Idem
variable {rid tag t : Nat} {e : IdemEnt} (he : findIdem s rid tag = some e) (ha : e.ansAt = some t)
include he ha

theorem makesE_idemEntryExpire (ht : t + 256000 ≤ s.now) : MakesE (.idemEntryExpire rid tag) s
    { s with mem := { s.mem with idem := s.mem.idem.filter fun e => !(e.rid == rid && e.tag == tag) } } := by
  show execIdemEntryExpire rid tag s = _
  rw [execIdemEntryExpire, runE_live _ s h]
  simp only [he, ha, if_neg (Nat.not_lt.mpr ht)]

theorem makesE_idemEntryExpire_early (ht : s.now < t + 256000) : MakesE (.idemEntryExpire rid tag) s s := by
  show execIdemEntryExpire rid tag s = _
  rw [execIdemEntryExpire, runE_live _ s h]
  simp only [he, ha, if_pos ht]

end Idem

section Shadow
variable {rid tag : Nat} {e : ShadowEnt} (he : (s.mem.shadow.find? fun e => e.ent.rid = rid ∧ e.ent.tag = tag) = some e)
  (ht : e.storedAt + 256000 ≤ s.now)
include he ht

theorem makesE_shadowEntryFree (hd : e.ent.done = true ∨ e.ent.running = true) : MakesE (.shadowEntryFree rid tag) s
    { s with mem := { s.mem with shadow := s.mem.shadow.filter fun e => !(e.ent.rid == rid && e.ent.tag == tag) } } := by
  show execShadowEntryFree rid tag s = _
  rw [execShadowEntryFree, runE_live _ s h]
  simp only [he, if_neg (Nat.not_lt.mpr ht), if_pos (Bool.or_eq_true_iff.mpr hd)]

theorem makesE_shadowEntryFree_overdue (hd : e.ent.done = false) (hr : e.ent.running = false) :
    MakesE (.shadowEntryFree rid tag) s (setShadow rid tag (fun e => { e with overdue := true }) s) := by
  show execShadowEntryFree rid tag s = _
  rw [execShadowEntryFree, runE_live _ s h]
  simp only [he, if_neg (Nat.not_lt.mpr ht), hd, hr, Bool.or_self, Bool.false_eq_true, if_false]

end Shadow

/-! ## The catch-up (R61) -/

theorem makesE_mirrorCatchupDone (hc : s.mem.catchup ≠ []) (hm : s.mem.mirrorEn = true) (hu : twinUp s = true) :
    MakesE .mirrorCatchupDone s (startCatchup { s with mem := { s.mem with
      catchup := [], idem := s.mem.idem.map fun e => if (e.rid, e.tag) ∈ s.mem.catchup then { e with mirrored := true } else e } }) :=
  makesE_of_runE h rfl (if_neg (by simp [hc, hm, hu]))

end Mirror

/-- Settles O17: what each of the seven commands makes, by the lemmas above. -/
theorem idempotencyAndMirroring : Obligations.IdempotencyAndMirroring := by
  unfold Obligations.IdempotencyAndMirroring
  exact ⟨fun s e rid tag id h => ⟨fun hu => makesR_mirrorEntry h hu e, fun r => makesE_mirrorAck h, fun hu => makesE_mirrorDone h hu rid tag,
      fun r => makesE_mirrorDoneAck h⟩,
    fun s rid tag h => ⟨fun e t => makesE_idemEntryExpire h, fun e t => makesE_idemEntryExpire_early h, fun e => makesE_shadowEntryFree h,
      fun e => makesE_shadowEntryFree_overdue h, makesE_mirrorCatchupDone h⟩⟩

end Sys2Proof.Machine
end

section
/-! PROOFS. The 8+2 code of a stripe (O20): a product by a field element is linear in the byte and is inverted by a check on eight basis bytes; the sum of P (or
Q) with that of the units in hand is what the lost units add to it; the two together give back one or two lost units. -/

namespace Sys2Proof.Machine

/-! ## Products in GF(2^8) as linear maps of bytes -/

/-- What the lowest bit adds is the sum of what the lowest bits add. -/
theorem ite_odd_xor (a b c : Nat) :
    (if (b ^^^ c) % 2 = 1 then a else 0) = (if b % 2 = 1 then a else 0) ^^^ (if c % 2 = 1 then a else 0) := by
  rw [Nat.xor_mod_two_eq, Nat.add_mod]
  rcases Nat.mod_two_eq_zero_or_one b with hb | hb <;> rcases Nat.mod_two_eq_zero_or_one c with hc | hc <;> simp [hb, hc]

theorem gfMulN_xor (n a b c : Nat) : gfMulN n a (b ^^^ c) = gfMulN n a b ^^^ gfMulN n a c := by
  induction n generalizing a b c with
  | zero => simp [gfMulN]
  | succ n ih =>
    rw [gfMulN, ite_odd_xor, Nat.xor_div_two, ih, gfMulN, gfMulN]
    ac_rfl

/-- A byte multiplied by a field element, as `gfScale` multiplies each byte of a string. -/
def scaleByte (k : Nat) (x : Byte) : Byte := BitVec.ofNat 8 (gfMul k x.toNat)

theorem scaleByte_xor (k : Nat) (x y : Byte) : scaleByte k (x ^^^ y) = scaleByte k x ^^^ scaleByte k y := by
  rw [scaleByte, BitVec.toNat_xor, gfMul, gfMulN_xor, BitVec.ofNat_xor]
  rfl

section Linear
variable {f : Byte → Byte} (hadd : ∀ x y, f (x ^^^ y) = f x ^^^ f y) (hbasis : ∀ i < 8, f (BitVec.twoPow 8 i) = BitVec.twoPow 8 i)
include hadd hbasis

/-- A linear map of bytes that leaves the bytes with a single bit as they are leaves those as they are whose bits lie below `n`. -/
theorem eq_self_of_bits_below (n : Nat) (hn : n ≤ 8) (x : Byte) (hx : ∀ i ≥ n, x.getLsbD i = false) : f x = x := by
  induction n generalizing x with
  | zero =>
    have h0 : x = 0 := BitVec.eq_of_getLsbD_eq fun i _ => by simp [hx i (Nat.zero_le i)]
    rw [h0]
    simpa using hadd 0 0
  | succ n ih =>
    cases hb : x.getLsbD n with
    | false => exact ih (by omega) x fun i hi => if h : i = n then h ▸ hb else hx i (by omega)
    | true =>
      have hrest : ∀ i ≥ n, (x ^^^ BitVec.twoPow 8 n).getLsbD i = false := by
        intro i hi
        have h8 : n < 8 := hn
        by_cases h : i = n
        · simp [h, hb, h8]
        · simp [hx i (by omega), BitVec.getLsbD_twoPow, Ne.symm h]
      have hfix := ih (by omega) _ hrest
      rw [hadd, hbasis n hn] at hfix
      exact (BitVec.xor_left_inj _).mp hfix

theorem eq_self_of_basis (x : Byte) : f x = x :=
  eq_self_of_bits_below hadd hbasis 8 (Nat.le_refl 8) x fun i hi => BitVec.getLsbD_of_ge x i hi

end Linear

theorem scaleByte_gfInv {x : Nat} (hx : x < 8) (b : Byte) : scaleByte (gfInv (gfPow x)) (scaleByte (gfPow x) b) = b := by
  refine eq_self_of_basis (f := fun b => scaleByte (gfInv (gfPow x)) (scaleByte (gfPow x) b)) (fun _ _ => by simp only [scaleByte_xor]) ?_ b
  have hall : ∀ x < 8, ∀ i < 8, scaleByte (gfInv (gfPow x)) (scaleByte (gfPow x) (BitVec.twoPow 8 i)) = BitVec.twoPow 8 i := by decide +kernel
  exact hall x hx

/-- For two units the sum of their factors in Q is inverted. -/
theorem scaleByte_gfInv_pair {x y : Nat} (hxy : x < y) (hy : y < 8) (b : Byte) :
    scaleByte (gfInv (gfPow x ^^^ gfPow y)) (scaleByte (gfPow x) b ^^^ scaleByte (gfPow y) b) = b := by
  refine eq_self_of_basis (f := fun b => scaleByte (gfInv (gfPow x ^^^ gfPow y)) (scaleByte (gfPow x) b ^^^ scaleByte (gfPow y) b)) ?_ ?_ b
  · intro b c
    simp only [scaleByte_xor]
    ac_rfl
  · have hall : ∀ y < 8, ∀ x < y, ∀ i < 8, scaleByte (gfInv (gfPow x ^^^ gfPow y))
        (scaleByte (gfPow x) (BitVec.twoPow 8 i) ^^^ scaleByte (gfPow y) (BitVec.twoPow 8 i)) = BitVec.twoPow 8 i := by decide +kernel
    exact hall y hy x hxy

/-! ## Sums of byte strings -/

theorem xorBytes_length {a b : Bytes} {n : Nat} (ha : a.length = n) (hb : b.length = n) : (xorBytes a b).length = n := by
  simp [xorBytes, ha, hb]

theorem xorBytes_right_comm (a b c : Bytes) : xorBytes (xorBytes a b) c = xorBytes (xorBytes a c) b := by
  refine List.ext_getElem (by simp only [xorBytes, List.length_zipWith]; omega) fun i _ _ => ?_
  simp only [xorBytes, List.getElem_zipWith]
  ac_rfl

theorem xorBytes_assoc (a b c : Bytes) : xorBytes (xorBytes a b) c = xorBytes a (xorBytes b c) := by
  refine List.ext_getElem (by simp only [xorBytes, List.length_zipWith]; omega) fun i _ _ => ?_
  simp only [xorBytes, List.getElem_zipWith, BitVec.xor_assoc]

theorem xorBytes_zeros {a : Bytes} {n : Nat} (ha : a.length = n) : xorBytes a (zeros n) = a :=
  List.ext_getElem (by simp [xorBytes, zeros, ha]) fun i _ _ => by simp [xorBytes, zeros]

theorem zeros_xorBytes {a : Bytes} {n : Nat} (ha : a.length = n) : xorBytes (zeros n) a = a :=
  List.ext_getElem (by simp [xorBytes, zeros, ha]) fun i _ _ => by simp [xorBytes, zeros]

/-- Adding a string a second time takes it away. -/
theorem xorBytes_cancel {a b : Bytes} (h : a.length = b.length) : xorBytes (xorBytes a b) a = b :=
  List.ext_getElem (by simp [xorBytes, h]) fun i _ _ => by
    simp only [xorBytes, List.getElem_zipWith]
    rw [BitVec.xor_comm, ← BitVec.xor_assoc, BitVec.xor_self, BitVec.zero_xor]

theorem gfScale_eq_map (k : Nat) (a : Bytes) : gfScale k a = a.map (scaleByte k) := rfl

theorem gfScale_length (k : Nat) (a : Bytes) : (gfScale k a).length = a.length := by simp [gfScale]

theorem gfScale_gfInv {x : Nat} (hx : x < 8) (a : Bytes) : gfScale (gfInv (gfPow x)) (gfScale (gfPow x) a) = a :=
  List.ext_getElem (by simp [gfScale]) fun i _ _ => by
    simp only [gfScale_eq_map, List.getElem_map, scaleByte_gfInv hx]

/-- The unit `a` of a lost pair from the sum of the two and the sum of their products. -/
theorem gfScale_gfInv_pair {x y : Nat} (hxy : x < y) (hy : y < 8) {a b : Bytes} (h : a.length = b.length) :
    gfScale (gfInv (gfPow x ^^^ gfPow y))
      (xorBytes (xorBytes (gfScale (gfPow x) a) (gfScale (gfPow y) b)) (gfScale (gfPow y) (xorBytes a b))) = a :=
  List.ext_getElem (by simp [xorBytes, gfScale, h]) fun i ha _ => by
    simp only [gfScale_eq_map, xorBytes, List.getElem_map, List.getElem_zipWith]
    have hsum : ∀ p q r : Byte, p ^^^ q ^^^ (r ^^^ q) = p ^^^ r := fun p q r => by
      rw [BitVec.xor_comm r q, BitVec.xor_assoc p, ← BitVec.xor_assoc q, BitVec.xor_self, BitVec.zero_xor]
    rw [scaleByte_xor (gfPow y), hsum, scaleByte_gfInv_pair hxy hy]

/-! ## The sums P and Q -/

/-- The sum of what the units of some indices add, `g` of each: P and Q are of this form. -/
def codeSum (n : Nat) (g : Nat → Bytes) (l : List Nat) : Bytes := l.foldl (fun a i => xorBytes a (g i)) (zeros n)

/-- Data units by index, as a stripe holds them. -/
def units (d : Nat → Bytes) (l : List Nat) : List (Nat × Bytes) := l.map fun i => (i, d i)

/-- What a unit adds to Q. -/
def qTerm (d : Nat → Bytes) (i : Nat) : Bytes := gfScale (gfPow i) (d i)

theorem parityP_units (n : Nat) (d : Nat → Bytes) (l : List Nat) : parityP n (units d l) = codeSum n d l := List.foldl_map

theorem parityQ_units (n : Nat) (d : Nat → Bytes) (l : List Nat) : parityQ n (units d l) = codeSum n (qTerm d) l := List.foldl_map

theorem codeSum_concat (n : Nat) (g : Nat → Bytes) (l : List Nat) (i : Nat) : codeSum n g (l ++ [i]) = xorBytes (codeSum n g l) (g i) := by
  simp [codeSum]

/-- The order of the units does not matter. -/
theorem codeSum_perm {n : Nat} {g : Nat → Bytes} {l m : List Nat} (h : l.Perm m) : codeSum n g l = codeSum n g m :=
  h.foldl_eq' (fun _ _ _ _ _ => xorBytes_right_comm _ _ _) _

section Sums
variable {n : Nat} {g : Nat → Bytes} (hg : ∀ i, (g i).length = n)
include hg

theorem codeSum_length (l : List Nat) : (codeSum n g l).length = n := by
  induction l using List.reverseRecOn with
  | nil => simp [codeSum, zeros]
  | append_singleton l i ih => rw [codeSum_concat, xorBytes_length ih (hg i)]

theorem codeSum_append (l m : List Nat) : codeSum n g (l ++ m) = xorBytes (codeSum n g l) (codeSum n g m) := by
  induction m using List.reverseRecOn with
  | nil => rw [List.append_nil]; exact (xorBytes_zeros (codeSum_length hg l)).symm
  | append_singleton m i ih => rw [← List.append_assoc, codeSum_concat, codeSum_concat, ih, xorBytes_assoc]

/-- Taking the units in hand out of the sum of all leaves what the lost units add. -/
theorem xorBytes_codeSum {all kept lost : List Nat} (h : all.Perm (kept ++ lost)) :
    xorBytes (codeSum n g all) (codeSum n g kept) = codeSum n g lost := by
  rw [codeSum_perm h, codeSum_append hg, xorBytes_cancel (by rw [codeSum_length hg, codeSum_length hg])]

theorem codeSum_one (x : Nat) : codeSum n g [x] = g x := zeros_xorBytes (hg x)

theorem codeSum_two (x y : Nat) : codeSum n g [x, y] = xorBytes (g x) (g y) := by
  rw [← codeSum_one hg x]
  exact codeSum_concat n g [x] y

end Sums

/-! ## The units in hand -/

theorem aget_units (d : Nat → Bytes) (l : List Nat) (i : Nat) : aget (units d l) i = if i ∈ l then some (d i) else none := by
  induction l with
  | nil => rfl
  | cons j l ih =>
    rw [units, List.map_cons, aget]
    by_cases h : j = i
    · simp [h]
    · rw [if_neg h, ← units, ih]
      simp [Ne.symm h]

theorem filter_units (d : Nat → Bytes) (l : List Nat) (p : Nat → Bool) : (units d l).filter (fun e => p e.1) = units d (l.filter p) := by
  rw [units, List.filter_map]
  rfl

/-- What is not in hand stands behind it. -/
theorem aget_append_of_none {m : List (Nat × Bytes)} {k : Nat} (h : aget m k = none) (t : List (Nat × Bytes)) : aget (m ++ t) k = aget t k := by
  induction m with
  | nil => rfl
  | cons e m ih =>
    obtain ⟨j, v⟩ := e
    rw [aget] at h
    split at h
    · cases h
    next hj => rw [List.cons_append, aget, if_neg hj, ih h]

/-- The indices that the units in hand leave out. -/
theorem lost_units (d : Nat → Bytes) (l : List Nat) :
    ((List.range 8).filter fun i => (aget (units d l) i).isNone) = (List.range 8).filter fun i => decide (i ∉ l) := by
  refine List.filter_congr fun i _ => ?_
  rw [aget_units]
  by_cases h : i ∈ l <;> simp [h]

/-! ## One or two lost units (chapter 3) -/

/-- Seven units without that of `x`, and six without those of `x` and `y`. -/
def allBut (x : Nat) : List Nat := (List.range 8).filter fun i => decide (i ≠ x)
def allButTwo (x y : Nat) : List Nat := (List.range 8).filter fun i => decide (i ≠ x ∧ i ≠ y)

theorem range_perm_allBut : ∀ x < 8, (List.range 8).Perm (allBut x ++ [x]) ∧ ((List.range 8).filter fun i => decide (i ∉ allBut x)) = [x] := by decide

theorem range_perm_allButTwo : ∀ y < 8, ∀ x < y, (List.range 8).Perm (allButTwo x y ++ [x, y]) ∧
    ((List.range 8).filter fun i => decide (i ∉ allButTwo x y)) = [x, y] := by decide

section Stripe
variable {n : Nat} {d : Nat → Bytes} (hd : ∀ i, (d i).length = n)
include hd

theorem qTerm_length (i : Nat) : (qTerm d i).length = n := by rw [qTerm, gfScale_length, hd]

/-- A lost unit is what P has and the other seven have not. -/
theorem stripeData_of_P {x : Nat} (hx : x < 8) (q : Option Bytes) :
    aget (stripeData n (units d (allBut x)) (some (parityP n (units d (List.range 8)))) q) x = some (d x) := by
  obtain ⟨hperm, hlost⟩ := range_perm_allBut x hx
  have hnone : aget (units d (allBut x)) x = none := by rw [aget_units, if_neg (by simp [allBut])]
  simp only [stripeData, lost_units, hlost, aget_append_of_none hnone, aget, if_true, parityP_units, xorBytes_codeSum hd hperm, codeSum_one hd]

/-- With P lost too it is what Q has of it, divided by its factor. -/
theorem stripeData_of_Q {x : Nat} (hx : x < 8) :
    aget (stripeData n (units d (allBut x)) none (some (parityQ n (units d (List.range 8))))) x = some (d x) := by
  obtain ⟨hperm, hlost⟩ := range_perm_allBut x hx
  have hnone : aget (units d (allBut x)) x = none := by rw [aget_units, if_neg (by simp [allBut])]
  simp only [stripeData, lost_units, hlost, aget_append_of_none hnone, aget, if_true, parityQ_units, xorBytes_codeSum (qTerm_length hd) hperm,
    codeSum_one (qTerm_length hd)]
  rw [qTerm, gfScale_gfInv hx]

/-- Two lost units are told apart by their factors in Q. -/
theorem stripeData_of_PQ {x y : Nat} (hxy : x < y) (hy : y < 8) :
    let got := stripeData n (units d (allButTwo x y)) (some (parityP n (units d (List.range 8)))) (some (parityQ n (units d (List.range 8))))
    aget got x = some (d x) ∧ aget got y = some (d y) := by
  obtain ⟨hperm, hlost⟩ := range_perm_allButTwo y hy x hxy
  have hx : aget (units d (allButTwo x y)) x = none := by rw [aget_units, if_neg (by simp [allButTwo])]
  have hy' : aget (units d (allButTwo x y)) y = none := by rw [aget_units, if_neg (by simp [allButTwo])]
  have hlen : (d x).length = (d y).length := by rw [hd, hd]
  simp only [stripeData, lost_units, hlost, aget_append_of_none hx, aget_append_of_none hy', parityP_units, parityQ_units, xorBytes_codeSum hd hperm,
    xorBytes_codeSum (qTerm_length hd) hperm, codeSum_two hd, codeSum_two (qTerm_length hd), qTerm, gfScale_gfInv_pair hxy hy hlen,
    xorBytes_cancel hlen, aget, if_neg (Nat.ne_of_lt hxy), if_true, and_self]

end Stripe

/-- Settles O20: the units in hand are those of `allBut` and `allButTwo`, from which the lemmas above find the lost ones. -/
theorem lostColumnsComeBackFromParity : Obligations.LostColumnsComeBackFromParity := by
  unfold Obligations.LostColumnsComeBackFromParity
  refine ⟨fun n d x hd hx => ?one, fun n d x y hd hxy hy => ?two⟩
  case one =>
    have hkept : ((List.range 8).map fun i => (i, d i)).filter (fun e => e.1 ≠ x) = units d (allBut x) :=
      filter_units d (List.range 8) fun i => decide (i ≠ x)
    dsimp only
    rw [hkept]
    exact ⟨stripeData_of_P hd hx, stripeData_of_Q hd hx⟩
  case two =>
    have hkept : ((List.range 8).map fun i => (i, d i)).filter (fun e => e.1 ≠ x ∧ e.1 ≠ y) = units d (allButTwo x y) :=
      filter_units d (List.range 8) fun i => decide (i ≠ x ∧ i ≠ y)
    dsimp only
    rw [hkept]
    exact stripeData_of_PQ hd hxy hy

end Sys2Proof.Machine
end

section
/-! PROOFS. Events of Firn, the stacks and a rebuild (O22): what each function leaves under its condition, then what its command makes. -/

namespace Sys2Proof.Machine

/-! ## A fill that completes (R86) -/

section Fill
variable {s : State} {fid : Nat} {f : Fill} (hf : findFill s fid = some f) (hl : f.left = 0)
include hf hl

/-- A sector that came whole and opens is written into Firn, as far as Firn takes it. -/
theorem fillComplete_of_open {b : Bytes} (hn : f.failed = none) (ha : f.alloc = true)
    (ho : fillOpen (fillServe fid s) f (rangeOf (fillServe fid s) f.range) 0 4096 = some b) :
    let w := firnWrite f.range f.odd f.gen f.owner f.loc b f.pin (fillServe fid s)
    fillComplete fid s = dropFill fid (pinFilled f (if w.1 then w.2 else bumpG .firnNoalloc 1 w.2)) := by
  simp only [fillComplete, hf, hl, ne_eq, not_true_eq_false, if_false, hn, ho, ha, if_true]

/-- A sector of which a piece failed serves who waits and is written nowhere. -/
theorem fillComplete_of_failed {st : Status} (hn : f.failed = some st) : fillComplete fid s = dropFill fid (pinFilled f (fillServe fid s)) := by
  simp only [fillComplete, hf, hl, ne_eq, not_true_eq_false, if_false, hn]

end Fill

/-! ## A stack channel that leaves service (R81, R82, R412) -/

/-- The plane once a channel is out: it is reported, and what lay on it is dropped. -/
def channelLost (c : Nat) (s : State) : State :=
  let out := faultEvent 1 6 c 0 0 { s with hbm := { s.hbm with chanFail := s.hbm.chanFail ++ [c] } }
  mapsLost c (sidesLost c (spillLost c ((out.ports.map (·.1)).foldl (fun s p => wheyLost c p s) (dropSectors c out))))

theorem channelOut_of_inService {s : State} {c : Nat} (hc : c < 128) (hin : c ∉ s.hbm.chanFail) : channelOut c s = stacksCheck c (channelLost c s) :=
  if_neg (not_or.mpr ⟨hin, Nat.not_le.mpr hc⟩)

theorem stacksCheck_within {s : State} (c : Nat) (h : 3 * s.hbm.chanFail.length ≤ (dev s).firnGib) : stacksCheck c s = s :=
  if_neg fun hc => Nat.not_lt.mpr h hc.1

/-- The stacks fail at the first channel beyond the Firn carve. -/
theorem stacksCheck_beyond {s : State} (c : Nat) (h : (dev s).firnGib < 3 * s.hbm.chanFail.length) (hf : s.hbm.failed = false) :
    stacksCheck c s = calve 8 allParts (faultEvent 6 6 c 8 0 (stopServing { s with hbm := { s.hbm with failed := true } })) :=
  if_pos ⟨h, by simp [hf]⟩

/-! ## A rebuild with eight columns in hand (R98) -/

/-- A sector of a diverted block, of a range without Firn, is decoded and answers its access. -/
theorem flashRebuilt_of_diverted {s : State} {n : Nat} {r : Rebuild} {a : Acc} (hr : (s.ftl.rebuilds.find? fun r => r.reb = n) = some r)
    (hgot : 8 ≤ r.got.length) (ha : r.acc = some a) (hfirn : r.entry.firn = false)
    (hd : diverted s ((isetOf s r.entry.iset).getD (rebMember r) 0)
      (pblockOf (colEnt s { range := r.range, entry := r.entry, gen := r.gen, loc := rebLoc s r, cols := r.cols } r.odd r.col)) = true) :
    flashRebuilt n s = deliverAcc a .ok (sectorPart a (decodeCol r.u r.col r.got))
      (bumpG .ftlRebuild 1 { s with ftl := { s.ftl with rebuilds := s.ftl.rebuilds.filter fun x => x.reb ≠ n } }) := by
  obtain ⟨l, hl⟩ := bumpG_eq .ftlRebuild 1 { s with ftl := { s.ftl with rebuilds := s.ftl.rebuilds.filter fun x => x.reb ≠ n } }
  have hkept : ∀ p b, diverted (bumpG .ftlRebuild 1 { s with ftl := { s.ftl with rebuilds := s.ftl.rebuilds.filter fun x => x.reb ≠ n } }) p b =
      diverted s p b := by
    intro p b
    rw [hl]
    rfl
  simp only [flashRebuilt, hr, if_neg (Nat.not_lt.mpr hgot), hfirn, Bool.false_and, Bool.false_eq_true, if_false, ha, hkept, hd, if_true]

/-! ## A sweep that is over (R93) -/

theorem makesE_firnSweepDone {s : State} (h : live s = true) (r : Nat) :
    MakesE (.firnSweepDone r) s { s with hbm := { s.hbm with sweeps := s.hbm.sweeps.filter (· ≠ r) } } := by
  show execFirnSweepDone r s = _
  rw [execFirnSweepDone, runE_live _ s h]

/-- Settles O22: each command is one of the functions above, under its condition. -/
theorem firnAndStackEvents : Obligations.FirnAndStackEvents := by
  unfold Obligations.FirnAndStackEvents
  intro s h
  refine ⟨?whole, ?failed, fun c hc hin => ⟨?within, ?beyond⟩, makesE_firnSweepDone h, ?rebuild⟩
  case whole => exact fun fid f b hf hl hn ha ho => makesE_of_runE h rfl (fillComplete_of_open hf hl hn ha ho)
  case failed => exact fun fid f st hf hl hn => makesE_of_runE h rfl (fillComplete_of_failed hf hl hn)
  case within => exact fun hg => makesE_of_runE h rfl ((channelOut_of_inService hc hin).trans (stacksCheck_within c hg))
  case beyond => exact fun hg hf => makesE_of_runE h rfl ((channelOut_of_inService hc hin).trans (stacksCheck_beyond c hg hf))
  case rebuild => exact fun n r a hr hgot ha hfirn hd => makesE_of_runE h rfl (flashRebuilt_of_diverted hr hgot ha hfirn hd)

end Sys2Proof.Machine
end

section
/-! PROOFS. The steps of a block's relocation (O23): what each function of the flash layer leaves under its step's condition, then what its command makes. -/

namespace Sys2Proof.Machine

/-- A command of the Paste's own, which is up (R440). -/
theorem makesE_byPaste {c : Instr} {f : State → State} {s t : State} (h : live s = true) (hp : s.mgmt.pasteUp = true)
    (e : exec c s = runE (byPaste f) s) (ht : f s = t) : MakesE c s t :=
  makesE_of_runE h e ((byPaste_up f s hp).trans ht)

/-- A message to the twin leaves the 1 ns counter. -/
theorem sendTwin_now (m : TwinMsg) (s : State) : (sendTwin m s).now = s.now := by
  obtain ⟨n, ps, v, t, h⟩ := sendTwin_frame m s
  rw [h]

/-- A mapped block that is not being relocated gets a relocation, which is reported (R101). -/
theorem requestReloc_of_mapped {s : State} {p b lb range grp : Nat} {odd : Bool} (hn : findReloc s p b = none) (hb : lblockOf s p b = some (odd, lb))
    (hr : lblockRange s p odd lb = some (range, grp)) :
    requestReloc p b s = flashEvent 2 ((isetOf s (rangeOf s range).iset).findIdx (· == p)) range odd (lb * upbOf s p)
      { s with ftl := { s.ftl with relocs := s.ftl.relocs ++ [{ port := p, old := b, lblock := lb, odd := odd, range := range, grp := grp }] } } := by
  simp only [requestReloc, hn, hb, hr]

/-- At its step 2 a relocation copies into a block that has left the pool and that the map entry names (R102, R105). -/
def copyInto (p b n : Nat) (r : Reloc) (s : State) : State :=
  setReloc p b (fun r => { r with step := 2, new := n, pos := 0 }) (setMap p r.odd r.lblock (withNew · n) (takeBlock p n s))

section Steps
variable {s : State} {p b : Nat} {r : Reloc} (hr : findReloc s p b = some r)
include hr

theorem relocStart_of_requested (h1 : r.step = 1) (hb : relocsBeside s r < 2) {n : Nat} (hn : bestFree s p = some n) :
    relocStart p b s = copyInto p b n r s := by
  simp only [relocStart, hr, h1, ne_eq, not_true_eq_false, false_or, if_neg (Nat.not_le.mpr hb), hn]
  rfl

/-- Once its copy is whole the new entry takes effect, after it has been sent to the twin (R102, R108). -/
theorem relocFlip_of_copied (h3 : r.step = 3) : relocFlip p b s =
    (let a := sendTwin (.mapEntry p r.odd r.lblock (BitVec.ofNat 64 (packMap (mapEntOf r.new)))) s
    setReloc p b (fun r => { r with step := 4, flipAt := s.now })
      (setMap p r.odd r.lblock (fun _ => mapEntOf r.new)
        (takeBlock p b { a with ftl := { a.ftl with loads := a.ftl.loads.map (loadMoved r b) } }))) := by
  simp only [relocFlip, hr, h3, ne_eq, not_true_eq_false, if_false, sendTwin_now]

theorem relocErase_of_flipped (h4 : r.step = 4) (ht : r.flipAt + 16000 ≤ s.now) (hs : (sendErase p b (rangeOf s r.range).owner r.odd s).1 = true) :
    relocErase p b s = setReloc p b (fun r => { r with step := 5 }) (sendErase p b (rangeOf s r.range).owner r.odd s).2 := by
  simp only [relocErase, hr, h4, ne_eq, not_true_eq_false, false_or, if_neg (Nat.not_lt.mpr ht), hs, if_true]

/-- A block that cannot be programmed is bad, and the copy begins again into another (R105). -/
theorem relocProgFail_of_failed (h6 : r.step = 6) {n : Nat} :
    let t := flashEvent 4 ((isetOf s (rangeOf s r.range).iset).findIdx (· == p)) r.range r.odd (r.lblock * upbOf s p) (markBad p r.new s)
    bestFree t p = some n → relocProgFail p b s = copyInto p b n r t := by
  intro t hn
  simp only [relocProgFail, hr, h6, ne_eq, not_true_eq_false, if_false]
  rw [hn]
  rfl

end Steps

/-- At the disturb limit reads of the block go by rebuild from now on, before the flip (R103). -/
theorem disturb_of_limit {s : State} {p b : Nat} {r : Reloc} (hl : disturbOf s p ≤ agetD s.ftl.reads (p, b) 0) (h0 : disturbOf s p ≠ 0) :
    let t := requestReloc p b s
    findReloc t p b = some r → r.diverted = false → r.step ≠ 4 → r.step ≠ 5 → disturb p b s =
      flashEvent 3 ((isetOf t (rangeOf t r.range).iset).findIdx (· == p)) r.range r.odd (r.lblock * upbOf t p)
        (setReloc p b (fun r => { r with diverted := true }) t) := by
  intro t hr hd h4 h5
  simp only [disturb, if_neg (not_or.mpr ⟨Nat.not_lt.mpr hl, h0⟩)]
  rw [hr]
  simp only [hd, h4, h5, Bool.false_eq_true, or_self, if_false]
  rfl

/-- A block whose count of reads has reached T is asked to be relocated (R101). -/
theorem makesE_relocationRequest {s t : State} {p b : Nat} (h : live s = true) (ht : (dev s).readThr ≤ agetD s.ftl.reads (p, b) 0)
    (he : requestReloc p b s = t) : MakesE (.relocationRequest p b) s t := by
  show execRelocationRequest p b s = _
  rw [execRelocationRequest, runE_live _ s h, if_pos ht, he]

/-- Settles O23: each command is one of the functions above, run by the Paste or by the flash layer itself. -/
theorem stepsOfARelocation : Obligations.StepsOfARelocation := by
  unfold Obligations.StepsOfARelocation
  intro s p b h hp
  refine ⟨?request, ?start, ?flip, ?erase, ?progFail, ?disturb⟩
  case request =>
    exact fun lb range odd grp ht hn hb hr => makesE_relocationRequest h ht (requestReloc_of_mapped hn hb hr)
  case start => exact fun r n hr h1 hb hn => makesE_byPaste h hp rfl (relocStart_of_requested hr h1 hb hn)
  case flip => exact fun r hr h3 => makesE_byPaste h hp rfl (relocFlip_of_copied hr h3)
  case erase => exact fun r hr h4 ht hs => makesE_byPaste h hp rfl (relocErase_of_flipped hr h4 ht hs)
  case progFail => exact fun r n hr h6 hn => makesE_byPaste h hp rfl (relocProgFail_of_failed hr h6 hn)
  case disturb => exact fun r hl h0 hr hd h4 h5 => makesE_of_runE h rfl (disturb_of_limit hl h0 hr hd h4 h5)

end Sys2Proof.Machine
end

section
/-! PROOFS. Events of the flash layer (O24): the counters that go to the twin, the flip of a load and the erase of its old blocks, the flash event queue. -/

namespace Sys2Proof.Machine

theorem ftlSync_of_twinUp {s : State} (hu : twinUp s = true) :
    ftlSync s = sendTwin (.counters (ftlCounts s)) { s with ftl := { s.ftl with syncAt := s.now, synced := ftlCounts s } } :=
  if_pos hu

section Load
variable {s : State} {range : Nat} {l : DsLoad} (hl : (s.ftl.loads.find? fun l => l.target = range) = some l)
include hl

/-- A load whose rows are all programmed flips in one command: map, blocks, bad rows and the range's Firn generation (R112). -/
theorem datasetFlip_of_programmed (h3 : l.stage = 3) (hf : l.failed = false) (ht : l.flipAt = none) :
    let a := abandonRelocs (fun r => r.range == range && r.odd == l.odd) s
    let b := l.newMap.foldl (fun s m => setMap m.1 l.odd m.2.1 (fun _ => m.2.2) (sendTwin (.mapEntry m.1 l.odd m.2.1 (BitVec.ofNat 64 (packMap m.2.2))) s)) a
    let c := l.oldBlocks.foldl (fun s b => takeBlock b.1 b.2 s) b
    let d := { c with ftl := { c.ftl with
      badRows := c.ftl.badRows.filter fun b => !(b.1 == range && b.2.1 == l.odd), badRanges := c.ftl.badRanges.filter (· ≠ range) } }
    datasetFlip range s = bgDone 0x52 0 range .ok 0 (setLoad range (fun l => { l with flipAt := some d.now }) (firnInvalidate range d)) := by
  simp only [datasetFlip, hl, h3, hf, ht, ne_eq, not_true_eq_false, Bool.false_eq_true, Option.isSome_none, or_self, if_false]

/-- From 16 us after the flip on the old blocks are erased whose erase is not out (R112). -/
theorem oldErase_of_flipped {t : Nat} (ht : l.flipAt = some t) (hn : t + 16000 ≤ s.now) :
    oldErase range s = loadsOver ((l.oldBlocks.filter fun b => !s.mem.accs.any fun a => a.owner == .erase b.1 b.2).foldl
      (fun s b => (sendErase b.1 b.2 (rangeOf s range).owner l.odd s).2) s) := by
  simp only [oldErase, hl, ht, if_neg (Nat.not_lt.mpr hn)]

end Load

/-- Settles O24: each command is one of the functions above, run by the Paste. -/
theorem flashLayerEvents : Obligations.FlashLayerEvents := by
  unfold Obligations.FlashLayerEvents
  intro s h hp
  refine ⟨?sync, ?flip, ?oldErase, ?eventRead⟩
  case sync => exact fun hu => makesE_byPaste h hp rfl (ftlSync_of_twinUp hu)
  case flip => exact fun range l hl h3 hf ht => makesE_byPaste h hp rfl (datasetFlip_of_programmed hl h3 hf ht)
  case oldErase => exact fun range t l hl ht hn => makesE_byPaste h hp rfl (oldErase_of_flipped hl ht hn)
  case eventRead =>
    show execFtlEventRead s = _
    rw [execFtlEventRead, runE_live _ s h, byPaste_up _ s hp]

end Sys2Proof.Machine
end

section
/-! PROOFS. Answers of flash trays, learned addresses and the gateway (O43): what each command makes under its condition. -/

namespace Sys2Proof.Machine

/-! ## Answers of flash trays (R98, R375) -/

section Flash
variable {s : State} {aid : Nat} {a : Acc} (ha : findAcc s aid = some a) (hs : a.state = .sent)
include ha hs

section Answer
variable (hreb : ∀ n c, a.owner ≠ .rebuild n c) (hgeom : ∀ p, a.owner ≠ .geom p) (d : Bytes)
include hreb hgeom

/-- A good read goes to the owner of its access. -/
theorem flashBack_of_read (hk : a.kind = .flRead) : flashBack aid true d s = deliverAcc a .ok (sectorPart a (slice d 0 4096)) (accGone a s) := by
  simp only [flashBack, ha, hs, hk]
  cases ho : a.owner with
  | rebuild n c => exact absurd ho (hreb n c)
  | geom p => exact absurd ho (hgeom p)
  | _ => simp

/-- The answer of a program or erase moves its owner on. -/
theorem flashBack_of_write (hk : a.kind = .flProg ∨ a.kind = .flErase) (ok : Bool) :
    flashBack aid ok d s = deliverAcc a (if ok then .ok else .poison) [] (accGone a s) := by
  simp only [flashBack, ha, hs]
  cases ho : a.owner with
  | rebuild n c => exact absurd ho (hreb n c)
  | geom p => exact absurd ho (hgeom p)
  | _ => rcases hk with hk | hk <;> simp [hk]

end Answer

theorem flashLate_of_overdue (hk : a.kind = .flProg ∨ a.kind = .flErase) (ht : a.execEnd ≤ s.now) : flashLate aid s = suspectPort a.port s := by
  simp only [flashLate, ha, if_pos (show _ ∧ a.state = .sent ∧ a.execEnd ≤ s.now from ⟨hk, hs, ht⟩)]

end Flash

/-! ## Learned addresses (R380) -/

theorem l2Age_of_old {s : State} {vid mac x t : Nat} (hm : aget s.eth.macs (vid, mac) = some (x, t)) (ht : t + (dev s).ageS * 10 ^ 9 ≤ s.now) :
    l2Age vid mac s = { s with eth := { s.eth with macs := adel s.eth.macs (vid, mac) } } := by
  simp only [l2Age, hm]
  exact if_pos ht

/-! ## The gateway (R385, R386) -/

theorem fecSeen_img (p : Nat) (s : State) : (fecSeen p s).img = s.img := by
  obtain ⟨l, hl⟩ := fecSeen_eq p s
  rw [hl]

section Frame
variable {s : State} {p : Nat} {g : GwHdr} (hp : portIs s p 3 3 = true) (hu : portUp s p = true)
include hp hu

/-- A piece or an acknowledgement from another peer than its window's is dropped and counted. -/
theorem gatewayFrame_of_stranger {w : GwWindowRec} (ho : g.op = 2 ∨ g.op = 3) (hw : aget s.img.gwWins g.window = some w)
    (hne : w.peerMac ≠ g.peerMac ∨ w.peerDomain ≠ g.peerDomain) : gatewayFrame p g s = bumpP p .l2Drop 1 (fecSeen p s) := by
  simp only [gatewayFrame, hp, hu, Bool.and_self, Bool.not_true, Bool.false_eq_true, if_false, if_pos ho, fecSeen_img, hw, if_pos hne]

/-- What a peer of the table of R386 asks for is served in the requester ID that its record names. -/
theorem gatewayFrame_of_export {e : Nat × GwExportRec} (ho : g.op ≤ 1)
    (he : (s.img.gwExps.find? fun e => e.2.peerMac = g.peerMac ∧ e.2.peerDomain = g.peerDomain) = some e) :
    gatewayFrame p g s = gwServe e.2.rid g (fecSeen p s) := by
  have hn : ¬(g.op = 2 ∨ g.op = 3) := by omega
  simp only [gatewayFrame, hp, hu, Bool.and_self, Bool.not_true, Bool.false_eq_true, if_false, if_neg hn, fecSeen_img, he, if_pos ho]

end Frame

/-- A piece that is fetched and unanswered for 200 us is asked for again, and after eight times its block fails. -/
theorem gwResend_of_fetching {s : State} {w b k : Nat} {g : GwWindowRec} (hw : aget s.img.gwWins w = some g) (hf : (gwBlockAt s w b).state = .fetching)
    (hk : k ∉ (gwBlockAt s w b).pieces) (hb : gwBusy s w b k = false) (h1 : 1 ≤ agetD (gwBlockAt s w b).sends k 0)
    (ht : agetD (gwBlockAt s w b).sentAt k 0 + 200000 ≤ s.now) :
    gwResend w b k s = if 8 ≤ agetD (gwBlockAt s w b).sends k 0 then gwBlockFail w b s else gwSend w b k 0 [] s := by
  have h0 : agetD (gwBlockAt s w b).sends k 0 ≠ 0 := Nat.ne_of_gt h1
  have hlate : ¬s.now < agetD (gwBlockAt s w b).sentAt k 0 + 200000 := Nat.not_lt.mpr ht
  simp only [gwResend, hw, hf, hk, h0, hb, hlate, ne_eq, not_true_eq_false, false_and, Bool.false_eq_true, or_self, if_false, if_true, ge_iff_le]

/-- Settles O43: each command is one of the functions above. -/
theorem flashAnswersAndEthernetTables : Obligations.FlashAnswersAndEthernetTables := by
  unfold Obligations.FlashAnswersAndEthernetTables
  intro s h
  refine ⟨fun aid a d ok ha hs hreb hgeom => ⟨?read, fun hk => ⟨?write, ?overdue⟩⟩, ?age, fun p g hp hu => ⟨?stranger, ?served⟩, ?resend⟩
  case read => exact fun hk => makesR_of_runR h rfl (flashBack_of_read ha hs hreb hgeom d hk)
  case write => exact makesR_of_runR h rfl (flashBack_of_write ha hs hreb hgeom d hk ok)
  case overdue => exact fun ht => makesR_of_runR h rfl (flashLate_of_overdue ha hs hk ht)
  case age => exact fun vid mac x t hm ht => makes_of_run h rfl (l2Age_of_old hm ht)
  case stranger => exact fun w ho hw hne => makesR_of_runR h rfl (gatewayFrame_of_stranger hp hu ho hw hne)
  case served => exact fun e ho he => makesR_of_runR h rfl (gatewayFrame_of_export hp hu ho he)
  case resend => exact fun w b k g hw hf hk hb h1 ht => makesR_of_runR h rfl (gwResend_of_fetching hw hf hk hb h1 ht)

end Sys2Proof.Machine
end

section
/-! PROOFS. Prosis commands of the session that controls the plane (O55): such a session passes every gate, then what each command answers where it may
execute. -/

namespace Sys2Proof.Machine

/-! ## The session that controls the plane (R479 to R481) -/

/-- It may send every command. -/
theorem prosis_of_controls {s : State} {n : Nat} (hc : Controls s n) (code : Nat) (f : State → State) : prosis n code f s = f s := by
  obtain ⟨x, hx, hclaim, hhello, hctl, hn, hup, hboot⟩ := hc
  have hgate : gate s x code = none := by simp [gate, hclaim, hhello, hctl, hn, hboot]
  exact prosis_open n code f s x hx hup hgate

theorem makesR_prosis {s t : State} {n code : Nat} {c : Instr} {f : State → State} (h : live s = true) (hc : Controls s n)
    (he : exec c s = runR (prosis n code f) s) (ht : f s = t) : MakesR c s t :=
  makesR_of_runR h he ((prosis_of_controls hc code f).trans ht)

section Answers
variable {s : State} (n : Nat)

/-! ## Time and streams (R182, R199) -/

theorem timeSet_of_source (v : Nat) (hs : s.ftm.source = 1) :
    timeSet n v s = reply n 0x40 .ok [] (setFtm (fun m => { m with setSecs := some (v % 2 ^ 64) }) s) :=
  if_neg (not_not.mpr hs)

theorem streamStart_of_sourced {i k : Nat} {f : FlowRec} (hf : aget s.ftm.active.flows i = some f) (hv : f.valid = true) (hk : f.kind = 3)
    (ht : ftFrame s + 2 ≤ k) (hn : (s.ftm.streams.any fun x => x.schedId == i) = false) : streamStart n i k s =
    reply n 0x41 .ok [] (setFtm (fun m => { m with streams := m.streams ++ [{ schedId := i, startFrame := k, flow := f }] }) s) := by
  have hd : agetD s.ftm.active.flows i {} = f := by rw [agetD, hf, Option.getD_some]
  simp only [streamStart, hd, hv, hk, hn, Nat.not_lt.mpr ht, Bool.not_true, Bool.false_eq_true, ne_eq, not_true_eq_false, or_self, if_false]

theorem streamStop_of_running {i : Nat} (hr : (s.ftm.streams.any fun x => x.schedId == i) = true) :
    streamStop n i s = reply n 0x42 .ok [] (setFtm (fun m => { m with
      streams := modFirst (fun x => x.schedId = i) (fun x => { x with stopping := true }) m.streams }) s) :=
  if_neg (by simp [hr])

/-! ## Pins (R90, R91) -/

section Range
variable {r : Nat} (ho : ownRange s r = true) (hb : bgHolds s 0 r = false)
include ho hb

/-- The pin of a whole stripe takes the place of any other of its range, and the command waits for it. -/
theorem firnPin_of_fits (hf : (rangeOf s r).firn = true)
    (hfit : pinBlocks s r - pinHeld s r ≤ firnAllot s (rangeOf s r).owner * 16384 - firnUse s (rangeOf s r).owner) :
    firnPin n r s = bgStart 0x50 n 0 r { s with hbm := { s.hbm with pins := s.hbm.pins.filter (fun p => p.range ≠ r) ++
      [{ range := r, sess := n, odd := ownOdd s, stop := stripePages (rangeOf s r) (planes s) * 4096 }] } } := by
  simp only [firnPin, ho, hf, hb, Bool.not_true, Bool.false_eq_true, or_self, if_false, if_neg (Nat.not_lt.mpr hfit)]

theorem firnUnpin_of_own : firnUnpin n r s = reply n 0x51 .ok [] { s with hbm := { s.hbm with
    pins := s.hbm.pins.filter fun p => p.range ≠ r
    fills := s.hbm.fills.map (unpinFill r)
    blocks := s.hbm.blocks.map fun b => if b.range = r then { b with pinned := false } else b } } := by
  simp only [firnUnpin, ho, hb, Bool.not_true, Bool.false_eq_true, if_false]

end Range

/-! ## Dataset loads (R109) -/

/-- The load of a source into the target's blocks that were taken for it. -/
def newLoad (n a b : Nat) (m : List (Nat × Nat × MapEnt)) (s : State) : DsLoad := {
  target := a, source := b, sess := n, newMap := m, odd := ownOdd s
  oldBlocks := (dsBlocks s a).filterMap fun x => let e := mapEnt s x.1 (ownOdd s) x.2; if e.valid then some (x.1, pblockOf e) else none
  rows := ceilDiv (stripePages (rangeOf s a) (planes s) * 4096) 131072 }

theorem datasetLoad_of_pair {a b : Nat} (hp : dsPair s a b = true) (ha : bgHolds s 0 a = false) (hb : bgHolds s 0 b = false)
    (hl : (s.ftl.loads.any fun l => l.target == a) = false) {m : List (Nat × Nat × MapEnt)} {t : State} (ht : dsTake (dsBlocks s a) s [] = some (m, t)) :
    datasetLoad n a b s = bgStart 0x52 n 0 a { t with ftl := { t.ftl with loads := t.ftl.loads ++ [newLoad n a b m s] } } := by
  simp only [datasetLoad, hp, ha, hb, hl, ht, Bool.not_true, Bool.false_eq_true, or_self, if_false]
  rfl

/-! ## Registers and telemetry (R483, R485, R487) -/

theorem regReads_of_count (o : Nat) {k : Nat} (h1 : 1 ≤ k) (h64 : k ≤ 64) :
    regReads n o k s = reply n 0x70 .ok ((List.range k).map fun i => readTotal s (o + 8 * i)) s :=
  if_neg (by omega)

/-- The plane-wide subscription that TELEM_SUBSCRIBE enters. -/
def newSub (n ms gr : Nat) (s : State) : Sub := { subId := s.mgmt.nextSub, sess := n, periodMs := ms, scope := 0, part := 0, groups := gr }

theorem telemSubscribe_of_fits {ms gr : Nat} (h1 : 1 ≤ ms) (h2 : ms ≤ 60000) (h3 : 1 ≤ gr) (h4 : gr < 32) (hl : s.mgmt.subs.length < 16)
    (hf : telemFits s (s.mgmt.subs ++ [newSub n ms gr s]) = true) : telemSubscribe n ms 0 0 gr s =
    reply n 0x80 .ok [s.mgmt.nextSub] (setMgmt (fun m => { m with subs := m.subs ++ [newSub n ms gr s], nextSub := (m.nextSub + 1) % 65536 }) s) := by
  have hbody : ¬(ms < 1 ∨ ms > 60000 ∨ 0 > 1 ∨ gr = 0 ∨ gr ≥ 32 ∨ (0 = 1 ∧ (gr ≠ 4 ∨ 0 > 127))) := by omega
  have hroom : ¬(s.mgmt.subs.length ≥ 16 ∨ (!telemFits s (s.mgmt.subs ++ [newSub n ms gr s])) = true) := by
    rw [hf]
    simpa using hl
  rw [telemSubscribe, if_neg hbody, if_neg (by simp)]
  exact if_neg hroom

theorem telemCancel_of_own {i : Nat} (hi : (s.mgmt.subs.any fun u => u.subId == i && u.sess == n) = true) : telemCancel n i s =
    reply n 0x81 .ok [] (setMgmt (fun m => { m with subs := m.subs.filter fun u => !(u.subId == i && u.sess == n) }) s) :=
  if_pos hi

/-! ## Taps and resets (R435, R497 to R501) -/

section Partition
variable {p : Nat} (hp : p ≤ 127) (hb : bgHolds s 3 p = false)
include hp hb

theorem tapSet_of_partition (c : BitVec 192) : tapSet n p c s = reply n 0x60 .ok [] (tapWriteCfg p c.toNat s) := by
  simp only [tapSet, if_neg (Nat.not_lt.mpr hp), hb, Bool.false_eq_true, if_false]

theorem resetPartition_of_down (hd : partState s p = 2) : resetPartition n p s = reply n 0x90 .ok [] (partReset p s) := by
  simp only [resetPartition, if_neg (Nat.not_lt.mpr hp), hb, hd, Bool.false_eq_true, ne_eq, not_true_eq_false, if_false]

end Partition

theorem resetPort_of_port {p : Nat} (hp : (aget s.img.ports p).isSome = true) : resetPort n p s = reply n 0x90 .ok [] (retrain p s) :=
  if_neg (by simpa using Option.isSome_iff_ne_none.mp hp)

theorem resetFabric_of_idle (hi : idlePlane s = true) : resetFabric n s = fabricReset 4 (reply n 0x90 .ok [] s) :=
  if_neg (by simp [hi])

end Answers

/-! ## What the commands on ranges make -/

section Commands
variable {s : State} {n : Nat} (h : live s = true) (hc : Controls s n)
include h hc

theorem makesR_firnPin {r : Nat} (ho : ownRange s r = true) (hb : bgHolds s 0 r = false) (hf : (rangeOf s r).firn = true)
    (hfit : pinBlocks s r - pinHeld s r ≤ firnAllot s (rangeOf s r).owner * 16384 - firnUse s (rangeOf s r).owner) :
    ∃ t, MakesR (.firnPin n r) s t ∧ (∃ p ∈ t.hbm.pins, p.range = r ∧ p.stop = stripePages (rangeOf s r) (planes s) * 4096) ∧
      t = { s with hbm := { s.hbm with pins := t.hbm.pins }, mgmt := { s.mgmt with bgs := t.mgmt.bgs } } :=
  ⟨_, makesR_prosis h hc rfl (firnPin_of_fits n ho hb hf hfit), ⟨_, List.mem_append_right _ List.mem_cons_self, rfl, rfl⟩, rfl⟩

theorem makesR_firnUnpin {r : Nat} (ho : ownRange s r = true) (hb : bgHolds s 0 r = false) :
    ∃ t, MakesR (.firnUnpin n r) s t ∧ (∀ p ∈ t.hbm.pins, p.range ≠ r) ∧ (∀ b ∈ t.hbm.blocks, b.range = r → b.pinned = false) ∧
      t = { s with hbm := { s.hbm with pins := t.hbm.pins, fills := s.hbm.fills.map (unpinFill r), blocks := t.hbm.blocks }, out := t.out } := by
  refine ⟨_, makesR_prosis h hc rfl (firnUnpin_of_own n ho hb), fun p hp => ?pins, fun b hb hr => ?blocks, rfl⟩
  case pins => simpa using (List.mem_filter.mp hp).2
  case blocks =>
    obtain ⟨x, -, rfl⟩ := List.mem_map.mp hb
    by_cases hx : x.range = r
    · simp only [hx, if_true]
    · rw [if_neg hx] at hr
      exact absurd hr hx

theorem makesR_datasetLoad {a b : Nat} (hp : dsPair s a b = true) (ha : bgHolds s 0 a = false) (hb : bgHolds s 0 b = false)
    (hl : (s.ftl.loads.any fun l => l.target == a) = false) {m : List (Nat × Nat × MapEnt)} {t : State} (ht : dsTake (dsBlocks s a) s [] = some (m, t)) :
    ∃ u, MakesR (.datasetLoad n a b) s u ∧ (∃ l ∈ u.ftl.loads, l.target = a ∧ l.source = b ∧ l.newMap = m) ∧
      u = { t with ftl := { t.ftl with loads := u.ftl.loads }, mgmt := { t.mgmt with bgs := u.mgmt.bgs } } :=
  ⟨_, makesR_prosis h hc rfl (datasetLoad_of_pair n hp ha hb hl ht), ⟨_, List.mem_append_right _ List.mem_cons_self, rfl, rfl, rfl⟩, rfl⟩

end Commands

/-- Settles O55: a controlling session's command is executed, with the answer above. -/
theorem prosisCommands : Obligations.ProsisCommands := by
  unfold Obligations.ProsisCommands
  intro s n h hc
  refine ⟨?timeSet, ?streamStart, ?streamStop, fun r ho hb => ⟨makesR_firnPin h hc ho hb, makesR_firnUnpin h hc ho hb⟩,
    fun a b m t hp ha hb hl ht => makesR_datasetLoad h hc hp ha hb hl ht, ?regRead, ?subscribe, ?cancel, ?tap, ?partition, ?port, ?fabric⟩
  case timeSet => exact fun v hs => makesR_prosis h hc rfl (timeSet_of_source n v hs)
  case streamStart => exact fun i k f hf hv hk ht hn => makesR_prosis h hc rfl (streamStart_of_sourced n hf hv hk ht hn)
  case streamStop => exact fun i hr => makesR_prosis h hc rfl (streamStop_of_running n hr)
  case regRead => exact fun o k h1 h64 => makesR_prosis h hc rfl (regReads_of_count n o h1 h64)
  case subscribe => exact fun ms gr h1 h2 h3 h4 hl hf => makesR_prosis h hc rfl (telemSubscribe_of_fits n h1 h2 h3 h4 hl hf)
  case cancel => exact fun i hi => makesR_prosis h hc rfl (telemCancel_of_own n hi)
  case tap => exact fun p c hp hb => makesR_prosis h hc rfl (tapSet_of_partition n hp hb c)
  case partition => exact fun p hp hb hd => makesR_prosis h hc rfl (resetPartition_of_down n hp hb hd)
  case port => exact fun p hp => makesR_prosis h hc rfl (resetPort_of_port n hp)
  case fabric => exact fun hi => makesR_prosis h hc rfl (resetFabric_of_idle n hi)

end Sys2Proof.Machine
end

section
/-! PROOFS. Frames that arrive (O25): how a frame passes the message FIFO, where a frame of an uplink and a frame of a MSG unit go from it, then the
statement. -/

namespace Sys2Proof.Machine

/-! ## The message FIFO (R118 to R120) -/

theorem frameIn_of_open {s : State} {p units : Nat} (ho : fifoOpen s p 2 units = true) (it : StgItem) (go : State → State) :
    frameIn p units it go s = go s := if_pos ho

/-- A frame that cannot pass at once waits behind what is staged, or is dropped and counted. -/
theorem frameIn_of_not_open {s : State} {p units : Nat} (ho : fifoOpen s p 2 units = false) (it : StgItem) (go : State → State) :
    frameIn p units it go s = if (stage p 2 units false it s).1 then (stage p 2 units false it s).2 else dropAdmit p s :=
  if_neg (by simp [ho])

/-! ## Frames of uplinks (R117, R378) -/

theorem ethGo_of_partition {s : State} {p part : Nat} {f : Bytes} (hpause : isPause f = false) (htype : frType f ≠ (dev s).gwEtype)
    (htag : frTagged f = true) (hpart : (allParts.find? fun q => (aget s.img.parts q).isSome && vidOf s q (frVid f)) = some part) :
    ethGo p f s = bridge p part 0 0 (frVid f) (frPcp f) (frClass s p f) f s := by
  simp only [ethGo, hpause, htype, htag, hpart, Bool.not_true, Bool.false_eq_true, if_false]

section Uplink
variable {s : State} {p : Nat} (hup : portUp s p = true) (hp : portIs s p 3 3 = true) (f : Bytes)
include hup hp

theorem ethFrame_of_length (h64 : 64 ≤ f.length) (hmax : f.length ≤ 9220) :
    ethFrame p true f s = frameIn p (ceilDiv f.length 256) (.frame true 0 0 false f) (ethGo p f) (fecSeen p s) := by
  have hlen : ¬((!true) = true ∨ f.length < 64 ∨ f.length > 9220) := by simpa using ⟨h64, hmax⟩
  rw [ethFrame, if_neg (by simp [hp, hup])]
  exact if_neg hlen

/-- A frame whose check sequence fails was never accepted. -/
theorem ethFrame_of_bad_fcs : ethFrame p false f s = dropAdmit p (fecSeen p s) := by
  simp only [ethFrame, hp, hup, Bool.and_self, Bool.not_true, Bool.not_false, Bool.false_eq_true, if_false, true_or, if_true]

end Uplink

/-! ## Frames of MSG units (R363, R379) -/

theorem msgGo_of_passed {s : State} {p rid part : Nat} {cmark : Bool} {f : Bytes} (h64 : 64 ≤ f.length) (hmax : f.length ≤ 9220)
    (hpause : isPause f = false) (hvid : frTagged f = true → vidOf s part (frVid f) = true)
    (hcheck : check12 s { port := p, rid := rid, part := part, cls := 0, cmark := cmark, poison := false, tag := 0, reissue := false, addr := 0, key := 0 }
      = none) :
    msgGo p rid part cmark f s = bridge p part rid (subOf s rid) (if frTagged f then frVid f else (partRec s part).defaultVid)
      (if frTagged f then frPcp f else 0) (frClass s p f) f s := by
  have hlen : ¬(false = true ∨ f.length < 64 ∨ f.length > 9220) := by simpa using ⟨h64, hmax⟩
  have hforeign : ¬(frTagged f && !vidOf s part (frVid f)) = true := by simpa using hvid
  simp only [msgGo, hcheck, Option.isSome_none, hpause]
  rw [if_neg hlen, if_neg Bool.false_ne_true, if_neg hforeign]

theorem msgArrive_of_up {s : State} {p : Nat} (hup : portUp s p = true) (hp : portIs s p 1 0 = true) (rid part : Nat) (cmark : Bool) (f : Bytes) :
    let n := ceilDiv (8 + f.length) 256
    msgArrive p rid part cmark f s = frameIn p n (.frame false rid part cmark f) (fun s => msgGo p rid part cmark f (returnCredits p 0 n s))
      (setPort p (fun q => { q with farMsg := q.farMsg - n }) s) := by
  simp only [msgArrive, hp, hup, Bool.and_self, Bool.not_true, Bool.false_eq_true, if_false]

/-- Settles O25: each frame enters its FIFO as above, and goes on by `ethGo_of_partition` or `msgGo_of_passed`. -/
theorem framesAreBridged : Obligations.FramesAreBridged := by
  unfold Obligations.FramesAreBridged
  intro s p f h hup h64 hmax
  refine ⟨fun hp => ?uplink, fun rid part cmark hp => ?requester⟩
  case uplink =>
    have hin := ethFrame_of_length hup hp f h64 hmax
    refine ⟨fun part ho hpause htype htag hpart => makesE_of_runE h rfl ?_, fun ho => makesE_of_runE h rfl ?_,
      makesE_of_runE h rfl (ethFrame_of_bad_fcs hup hp f)⟩
    · rw [hin, frameIn_of_open ho, ethGo_of_partition hpause htype htag hpart]
    · rw [hin, frameIn_of_not_open ho]
  case requester =>
    have hin := msgArrive_of_up hup hp rid part cmark f
    refine ⟨fun ho hpause hvid hcheck => makesE_of_runE h rfl ?_, fun ho => makesE_of_runE h rfl ?_⟩
    · rw [hin, frameIn_of_open ho, msgGo_of_passed h64 hmax hpause hvid hcheck]
    · rw [hin, frameIn_of_not_open ho]

end Sys2Proof.Machine
end

section
/-! PROOFS. Age discard, admission from staging, egress choice and a failed bank (O27): what each command makes under its condition, then the statement. -/

namespace Sys2Proof.Machine

/-! ## Staging (R123, R135) -/

theorem ageDiscard_of_stream {s : State} {p uid : Nat} {u : StgUnit} {x : StreamOut} {y : Bool}
    (hu : ((port s p).stg.find? fun u => u.uid = uid) = some u) (hi : u.item = .stream x y false)
    (ht : u.since + (dev s).msgAgeMs * 1000000 ≤ s.now) :
    ageDiscard p uid s = unspill p (bumpG .vatWheyAged 1 (bumpP p .dropAge 1 (setPort p (fun q => { q with stg := q.stg.filter fun v => v.uid ≠ uid }) s))) := by
  simp only [ageDiscard, hu, hi, if_neg (Nat.not_lt.mpr ht), Bool.false_eq_true, if_false]

/-- A request that waits for admission tries again, and the requests behind it may leave. -/
theorem stagingAdmit_of_admitting {s : State} {p uid id : Nat} {u : StgUnit} {r : Req}
    (hu : ((port (unspill p s) p).stg.find? fun u => u.uid = uid) = some u) (hi : u.item = .req id) (hr : findReq (unspill p s) id = some r)
    (hp : r.phase = .admitting) : stagingAdmit p uid s = pump p (s.mem.reqs.length + 1) (goAdmit id (unspill p s)) := by
  simp only [stagingAdmit, hu, hi, hr, hp, if_true]
  rfl

/-! ## Egress (R134, R357) -/

section Egress
variable {s : State} {p : Nat} (hup : portUp s p = true) (hfree : (port s p).busyUntil ≤ s.now) (hidle : (port s p).idle = false)
include hup hfree hidle

theorem port_sends : ¬((port s p).link ≠ .up ∨ s.now < (port s p).busyUntil ∨ (port s p).idle = true) := by
  simpa [hidle, hfree, portUp] using hup

theorem egressSelect_of_chosen {c : Nat} {d : Desc} (hc : chooseQueue s p = some (c, d)) : egressSelect p false s = sendChosen p c d s := by
  simp only [egressSelect, hc, Bool.false_eq_true, if_false]
  exact if_neg (port_sends hup hfree hidle)

theorem egressSelect_of_nothing (hc : chooseQueue s p = none) (hb : (portRec s p).protocol = 1) (unc : Bool) :
    egressSelect p unc s = wireOut p (.flit nullFlit) s := by
  simp only [egressSelect, hc, sendNull, hb, if_true]
  exact if_neg (port_sends hup hfree hidle)

end Egress

theorem makesE_egressSelect {s t : State} (h : live s = true) {p : Nat} {unc : Bool} (ht : egressSelect p unc s = t) :
    MakesE (.egressSelect p unc) s (wakeAdmit t) := by
  show execEgressSelect p unc s = _
  rw [execEgressSelect, runE_live _ s h, ht]

/-! ## A failed bank (R128, R129) -/

/-- A bank leaves service, and the units with cells in it are handled. -/
def bankGone (b : Nat) (s : State) : State :=
  let a : State := { s with vat := { s.vat with bankFail := s.vat.bankFail ++ [b] } }
  let hit := bankStored (faultEvent 4 5 b 0 0 a)
  bankStreams ((s.ports.map (·.1)).foldl (fun s p => bankUnits hit.1 p s) hit.2)

/-- The Vat has failed: the plane stops serving and every partition is calved. -/
def vatFails (b : Nat) (t : State) : State :=
  calve 8 allParts (faultEvent 6 5 b 8 0 (stopServing { t with vat := { t.vat with failed := true } }))

section Bank
variable {s : State} {b : Nat} (hb : b < 64) (hin : b ∉ s.vat.bankFail)
include hb hin

theorem bankFail_of_in_service : bankFail b s =
    if (banksIn (bankGone b s) < 32 ∨ shrCells (bankGone b s) < 65536) ∧ (!(bankGone b s).vat.failed) = true then vatFails b (bankGone b s)
    else bankGone b s :=
  if_neg (by simp [hin, hb])

theorem bankFail_of_enough (h32 : 32 ≤ banksIn (bankGone b s)) (hshr : 65536 ≤ shrCells (bankGone b s)) : bankFail b s = bankGone b s := by
  rw [bankFail_of_in_service hb hin, if_neg (by omega)]

theorem bankFail_of_tooSmall (he : banksIn (bankGone b s) < 32 ∨ shrCells (bankGone b s) < 65536) (hf : (bankGone b s).vat.failed = false) :
    bankFail b s = vatFails b (bankGone b s) := by
  rw [bankFail_of_in_service hb hin, if_pos ⟨he, by rw [hf]; rfl⟩]

end Bank

/-- Settles O27: each command is one of the functions above. -/
theorem stagingEgressAndBanks : Obligations.StagingEgressAndBanks := by
  unfold Obligations.StagingEgressAndBanks
  intro s p h
  refine ⟨?aged, ?admission, ?egress, ?null, fun b hb hin => ⟨?enough, ?tooSmall⟩⟩
  case aged => exact fun uid u x y hu hi ht => makesE_of_runE h rfl (ageDiscard_of_stream hu hi ht)
  case admission => exact fun uid id u r hu hi hr hp => makesE_of_runE h rfl (stagingAdmit_of_admitting hu hi hr hp)
  case egress => exact fun c d hup hfree hidle hc => makesE_egressSelect h (egressSelect_of_chosen hup hfree hidle hc)
  case null => exact fun unc hup hfree hidle hc hb => makesE_egressSelect h (egressSelect_of_nothing hup hfree hidle hc hb unc)
  case enough => exact fun h32 hshr => makesE_of_runE h rfl (bankFail_of_enough hb hin h32 hshr)
  case tooSmall => exact fun he hf => makesE_of_runE h rfl (bankFail_of_tooSmall hb hin he hf)

end Sys2Proof.Machine
end

section
/-! PROOFS. How a port goes down and restarts (O28): the stages of R144 on a port that is UP, what is empty afterwards, then the statement. -/

namespace Sys2Proof.Machine

/-! ## The stages of R144 and R372 -/

/-- The link is down, the first cause is logged, and a time source on the port is disqualified (R372, Table 6.2). -/
def downNoted (p cause : Nat) (s : State) : State :=
  let s := setPort p (fun q => { q with link := .down, downLog := q.downLog.orElse fun _ => some (cause, ft s) }) s
  if s.ftm.source = 4 ∧ s.ftm.refPort = p ∧ s.ftm.qualified = true then disqualify s else s

/-- A Bamom port sends DOWN if it can be sent (R372). -/
def downSent (p cause : Nat) (s : State) : State :=
  if (portRec s p).protocol = 1 ∧ cause ≠ 6 then wireOut p (.item (.down cause)) s else s

/-- Every access queued on the port or sent over it is lost, on the twin link's port those rerouted over it (R144). -/
def accsLost (p : Nat) (s : State) : State :=
  (s.mem.accs.filter fun x => if x.viaTwin then decide (twinPort s = some p) else x.port == p).foldl (fun s x => match findAcc s x.aid with
    | some x => accLost p x s
    | none => s) s

/-- What the fall of a port that was UP takes with it (R144). -/
def fallen (p : Nat) (s : State) : State :=
  let a := flushStaging p s
  let c := flushQueues p (accsLost p a)
  trayDownReport p (groupPortDown p (loseAnswers p (if twinPort a = some p then twinLinkLost p c else c)))

section Down
variable {s : State} {p : Nat} (cause : Nat)

theorem portGoesDown_of_not_up (hup : portUp s p = false) : portGoesDown p cause s = portRestart p (dropGrants p (downNoted p cause s)) := by
  simp only [portGoesDown, hup, Bool.false_and, Bool.false_eq_true, if_false]
  rfl

theorem portGoesDown_of_up (hup : portUp s p = true) :
    portGoesDown p cause s = portRestart p (dropGrants p (fallen p (downNoted p cause (downSent p cause s)))) := by
  simp only [portGoesDown, hup, Bool.true_and, if_true, Bool.and_eq_true, decide_eq_true_eq]
  rfl

end Down

/-! ## What a fall leaves -/

section Empty
variable (s : State) (p : Nat)

theorem stg_flushStaging : (port (flushStaging p s) p).stg = [] := by
  rw [flushStaging, port_setPort, if_pos rfl]

/-- Pools are no part of a port. -/
theorem port_poolGive (k : Pool) (n x : Nat) : port (poolGive k n s) x = port s x := by
  cases k <;> rfl

theorem port_dropGrants : port (dropGrants p s) p = { port s p with grantsOut := [], capGrant := none, grantsIn := [] } := by
  rw [dropGrants, port_poolGive, port_setPort, if_pos rfl]

end Empty

/-- A sent access of a request ends its piece TARGET_LOST (R144). -/
theorem accLost_of_sent_req {x : Acc} {id i : Nat} (ho : x.owner = .req id i) (hs : x.state = .sent) (p : Nat) (s : State) :
    accLost p x s = pieceLost id i false (flushLost p id (accGone x s)) := by
  simp only [accLost, ho, hs, reduceCtorEq, or_self, if_false]

/-! ## How a port restarts (R355, R370, R374) -/

section Restart
variable (s : State) (p : Nat)

theorem link_portRestart : (port (portRestart p s) p).link =
    if octetOut s p then .failed else if s.mgmt.state = .parked then .down else if (port s p).disable || heldPort s p then .disabled
    else if (portRec s p).protocol = 1 then .training else .down := by
  rw [portRestart, port_setPort, if_pos rfl]
  simp only [decide_eq_true_eq]

theorem trainStep_portRestart : (port (portRestart p s) p).trainStep = if (port (portRestart p s) p).link = .training then 1 else 0 := by
  rw [portRestart, port_setPort, if_pos rfl]

/-- Sequence numbers, credits and what was unacknowledged start anew. -/
theorem fresh_portRestart : let q := port (portRestart p s) p
    q.txSeq = 0 ∧ q.rxExp = 0 ∧ q.unacked = [] ∧ q.ownReq = 0 ∧ q.ownMsg = 0 ∧ q.widthNow = 0 := by
  rw [portRestart, port_setPort, if_pos rfl]
  exact ⟨rfl, rfl, rfl, rfl, rfl, rfl⟩

theorem port_portRestart_other {r : Nat} (h : r ≠ p) : port (portRestart p s) r = port s r := by
  rw [portRestart, port_setPort, if_neg h]

end Restart

/-- Settles O28: the fall of a port is `portGoesDown_of_not_up` or `portGoesDown_of_up`, and its restart writes one port. -/
theorem portGoesDownAsR144Says : Obligations.PortGoesDownAsR144Says := by
  unfold Obligations.PortGoesDownAsR144Says
  refine ⟨fun s p cause h => ⟨fun hup => ?notUp, fun hup => ?up, stg_flushStaging s p, ?out, ?into, ?lost⟩, fun s p => ?restart⟩
  case notUp => exact makesE_of_runE h rfl (portGoesDown_of_not_up cause hup)
  case up => exact makesE_of_runE h rfl (portGoesDown_of_up cause hup)
  case out => rw [port_dropGrants]
  case into => rw [port_dropGrants]
  case lost => exact fun x id i ho hs => accLost_of_sent_req ho hs p s
  case restart =>
    obtain ⟨htx, hrx, hunacked, hreq, hmsg, hwidth⟩ := fresh_portRestart s p
    exact ⟨link_portRestart s p, trainStep_portRestart s p, htx, hrx, hunacked, hreq, hmsg, hwidth, fun r => port_portRestart_other s p⟩

end Sys2Proof.Machine
end

section
/-! PROOFS. Events of flits, scratch, groups, collections and sequences (O36): what the updates of a slot, a handle and a collection leave, one lemma for what
each command makes, then the statement. -/

namespace Sys2Proof.Machine

/-! ## What the updates of the engines write -/

/-- Taking the first that satisfies the test out of a list that has one shortens it by one. -/
theorem length_delFirst {α : Type} {p : α → Bool} {l : List α} {x : α} (h : l.find? p = some x) : (delFirst p l).length + 1 = l.length := by
  induction l with
  | nil => cases h
  | cons y t ih =>
    unfold delFirst
    cases hy : p y with
    | true => rfl
    | false => simpa using ih (by simpa [hy] using h)

/-- A change of a handle changes the handles only. -/
theorem setHandle_eq (part h : Nat) (g : Handle → Handle) (s : State) :
    ∃ l, setHandle part h g s = { s with eng := { s.eng with handles := l } } := by
  unfold setHandle
  split
  · exact ⟨_, rfl⟩
  · exact ⟨s.eng.handles, rfl⟩

/-- The bytes of a filter handle are no longer stated: a free value is taken for them (R312). -/
theorem filterWrite_eq (part h : Nat) (s : State) :
    ∃ l, filterWrite part h s = { s with freeIx := s.freeIx + 1, eng := { s.eng with handles := l } } := setHandle_eq _ _ _ _

/-- An end of a flit changes the flits only. -/
theorem endFlit_eq (part slot : Nat) (e : FlitEnd) (s : State) : ∃ l, endFlit part slot e s = { s with eng := { s.eng with flits := l } } := ⟨_, rfl⟩

theorem endOrd_eq (part slot ord : Nat) (e : FlitEnd) (s : State) : ∃ l, endOrd part slot ord e s = { s with eng := { s.eng with flits := l } } := by
  unfold endOrd
  split
  · split
    · exact endFlit_eq part slot e s
    · exact ⟨s.eng.flits, rfl⟩
  · exact ⟨s.eng.flits, rfl⟩

theorem setColl_of_collAt {s : State} {i : Nat} {c : Coll} (hc : collAt s i = some c) (g : Coll → Coll) :
    setColl i g s = { s with eng := { s.eng with colls := aset s.eng.colls i (g c) } } := by
  simp only [setColl, hc]

theorem releaseAnswer_of_answered {f : Flit} (h : f.answer = none) (s : State) : releaseAnswer f s = s := by
  simp only [releaseAnswer, h]

theorem modFirst_congr {α : Type} {p : α → Bool} {g k : α → α} {l : List α} {x : α} (hx : l.find? p = some x) (hgk : g x = k x) :
    modFirst p g l = modFirst p k l := by
  induction l with
  | nil => rfl
  | cons y l ih =>
    unfold modFirst
    cases hy : p y with
    | true =>
      obtain rfl : y = x := by simpa [hy] using hx
      simp [hgk]
    | false => simpa using ih (by simpa [hy] using hx)

/-- Only the running flit of the slot is changed. -/
theorem setFlit_congr {s : State} {part slot : Nat} {f : Flit} (hf : flitAt s part slot = some f) {g k : Flit → Flit} (hgk : g f = k f) :
    setFlit part slot g s = setFlit part slot k s := by
  rw [setFlit, setFlit, modFirst_congr hf hgk]

/-! ## The end of a flit (R227, R230) -/

/-- A flit whose record is made and waits to be written to cmpl_addr (R227). -/
def recordSent (s : State) (e : FlitEnd) (f : Flit) : Flit := { f with
  recordOut := true, record := some (recordOf s f e), failed := none, pol := 0
  todo := [{ addr := fCmplAddr f.word, key := fCmplKey f.word, len := 16, write := true, data := natLe 16 (recordOf s f e), need := needEW }] }

section Flits
variable {s : State} {part slot : Nat} {f : Flit} (hf : flitAt s part slot = some f)
include hf

theorem startFlit_of_fenceMet (hw : f.waiting = true) (hfin : f.fin = none) (hm : fenceMet s f = true) :
    startFlit part slot s = setFlit part slot (fun f => { f with waiting := false, startAt := s.now, startId := s.nextId }) s := by
  simp only [startFlit, hf]
  exact if_pos ⟨hw, by rw [hfin]; rfl, hm⟩

section TimeLimit
variable (h0 : 0 < fTimeMs f.word) (ht : f.accAt + fTimeMs f.word * 1000000 ≤ s.now) (hfin : f.fin = none) (hprov : f.prov = false)
include h0 ht hfin hprov

omit hf in
/-- A flit past its time limit, neither ended nor waiting for its acceptance, meets none of the conditions under which the limit leaves it alone. -/
theorem not_exempt_of_limit : ¬(fTimeMs f.word = 0 ∨ s.now < f.accAt + fTimeMs f.word * 1000000 ∨ f.fin.isSome = true ∨ f.prov = true) := by
  simp only [hfin, hprov, Option.isSome_none, Bool.false_eq_true, or_false]
  omega

theorem flitExpire_of_waiting (hw : f.waiting = true) :
    flitExpire part slot s = releaseAnswer f (endOp part slot .retryLater 0x09 s) := by
  simp only [flitExpire, hf, hw, if_true]
  exact if_neg (not_exempt_of_limit h0 ht hfin hprov)

/-- No output of these engines runs on by itself once it has begun. -/
theorem flitExpire_of_running (hw : f.waiting = false) (he : fEngine f.word = 3 ∨ fEngine f.word = 6) :
    flitExpire part slot s = endOp part slot .retryLater 0x09 s := by
  have hlimit := not_exempt_of_limit h0 ht hfin hprov
  rcases he with he | he <;>
    simp only [flitExpire, hf, if_neg hlimit, hw, he, outputBegun, Bool.false_eq_true, if_false]

end TimeLimit

theorem cellReserve_of_todo (ht : f.todo ≠ []) : cellReserve part slot s = engIssue part slot s := by
  simp only [cellReserve, hf, ht, ne_eq, not_false_eq_true, if_true]

/-- The status line of a slot that is DONE with the flit's record (Table 7.7). -/
def doneLine (s : State) (f : Flit) (e : FlitEnd) (l : SlotLine) : SlotLine :=
  { l with state := 2, record := BitVec.ofNat 128 (f.record.getD (recordOf s f e)), result16 := e.r16, cmplLost := false }

/-- The flit's record is in its status line, which is DONE; the flit is gone with its locks, and its granules wait to be zeroed. -/
theorem finalize_of_fin {e : FlitEnd} (hfin : f.fin = some e) : finalize part slot false s = { s with
    mem := { s.mem with locks := s.mem.locks.filter fun l => l.2 ≠ .piece part slot }
    eng := { s.eng with
      lines := amod s.eng.lines (part, slot) {} (doneLine s f e)
      flits := delFirst (fun f => f.part = part ∧ f.slot = slot) s.eng.flits
      zeroing := s.eng.zeroing + f.granules }
    mgmt := { s.mgmt with partTot := amod s.mgmt.partTot (part, 3) 0 (· + 1) } } := by
  simp only [finalize, hf, hfin]
  rfl

section Finalize
variable {e : FlitEnd} (hfin : f.fin = some e)
include hfin

theorem lineAt_finalize : lineAt (finalize part slot false s) part slot = doneLine s f e (lineAt s part slot) := by
  rw [finalize_of_fin hf hfin]
  exact agetD_amod_self _ _ _ _

theorem length_flits_finalize : (finalize part slot false s).eng.flits.length + 1 = s.eng.flits.length := by
  rw [finalize_of_fin hf hfin]
  exact length_delFirst hf

theorem zeroing_finalize : (finalize part slot false s).eng.zeroing = s.eng.zeroing + f.granules := by
  rw [finalize_of_fin hf hfin]

theorem finalize_frame : finalize part slot false s = { s with
    mem := { s.mem with locks := (finalize part slot false s).mem.locks }
    eng := { s.eng with
      lines := (finalize part slot false s).eng.lines, flits := (finalize part slot false s).eng.flits
      zeroing := (finalize part slot false s).eng.zeroing }
    mgmt := { s.mgmt with partTot := (finalize part slot false s).mgmt.partTot } } := by
  rw [finalize_of_fin hf hfin]

end Finalize

section Completion
variable {e : FlitEnd} (hfin : f.fin = some e) (ha : f.answer = none) (ho : f.out = []) (hr : f.recordOut = false)
include hfin ha ho hr

theorem completeFlit_of_line (hc : fCmplEn f.word = false) : completeFlit part slot s = finalize part slot false s := by
  simp only [completeFlit, hf, hfin, releaseAnswer_of_answered ha, ho, hr, hc, ne_eq, not_true_eq_false, Bool.false_eq_true, or_self, if_false]

/-- The record goes to cmpl_addr first. -/
theorem completeFlit_of_address (hc : fCmplEn f.word = true) : completeFlit part slot s = setFlit part slot (recordSent s e) s := by
  simp only [completeFlit, hf, hfin, releaseAnswer_of_answered ha, ho, hr, hc, ne_eq, not_true_eq_false, Bool.false_eq_true, or_self, if_false, if_true]
  exact setFlit_congr hf rfl

theorem makesE_engineCompletion (h : live s = true) (hrec : f.record = none) (hc : fCmplEn f.word = false) :
    ∃ t, MakesE (.engineCompletion part slot) s t ∧
      (lineAt t part slot).state = 2 ∧ (lineAt t part slot).record = BitVec.ofNat 128 (recordOf s f e) ∧ (lineAt t part slot).cmplLost = false ∧
      t.eng.flits.length + 1 = s.eng.flits.length ∧ t.eng.zeroing = s.eng.zeroing + f.granules ∧
      t = { s with mem := { s.mem with locks := t.mem.locks }
                   eng := { s.eng with lines := t.eng.lines, flits := t.eng.flits, zeroing := t.eng.zeroing }
                   mgmt := { s.mgmt with partTot := t.mgmt.partTot } } := by
  have hline := lineAt_finalize hf hfin
  refine ⟨finalize part slot false s, makesE_of_runE h rfl (completeFlit_of_line hf hfin ha ho hr hc), ?_, ?_, ?_, length_flits_finalize hf hfin,
    zeroing_finalize hf hfin, finalize_frame hf hfin⟩
  · rw [hline]
    rfl
  · rw [hline, doneLine, hrec, Option.getD_none]
  · rw [hline]
    rfl

end Completion

end Flits

theorem makesE_scratchZeroed {s : State} (h : live s = true) (h0 : 0 < s.eng.zeroing) (hg : s.eng.aclkGated = false) :
    MakesE .scratchZeroed s { s with eng := { s.eng with zeroing := s.eng.zeroing - 1, scrFree := s.eng.scrFree + 1 } } := by
  have hn : ¬(s.eng.zeroing = 0 ∨ s.eng.aclkGated = true) := by simp [hg, Nat.ne_of_gt h0]
  show execScratchZeroed s = _
  rw [execScratchZeroed, runE_live _ s h, if_neg hn]

/-! ## Groups (R264, R266) -/

section Groups
variable {s : State} {g : Nat}

theorem groupRelease_of_drained (hd : (groupAt s g).state = .draining) (he : (groupAt s g).endAs = none) (ho : groupOpen (groupAt s g) = 0) :
    groupRelease g s = endFlit (groupAt s g).part (groupAt s g).armSlot { status := .ok, lo := (groupAt s g).okCnt, hi := (groupAt s g).poisonCnt }
      (setGroup g (fun x => { x with state := .idle, slots := [] }) s) :=
  if_pos ⟨hd, by rw [he]; rfl, ho⟩

theorem chunkTimeout_of_overdue {seq : Nat} (ha : (groupAt s g).state = .armed) :
    let j := chunkIdx s (groupAt s g) seq
    let c := chunkSlot (groupAt s g) j
    let us := if fw (groupAt s g).word 0x24 16 16 = 0 then (groupAt s g).tmpl.timeoutUs else fw (groupAt s g).word 0x24 16 16
    c.open_ = true → c.done = false → c.seq = seq → c.openedAt + 1000 * us ≤ s.now →
    chunkTimeout g seq s = endChunk g j (setChunk g j (fun c => { c with poison := true, detail := 0x81 }) (bumpG .rduTimeout 1 s)) := by
  intro j c us hopen hdone hseq ht
  exact if_pos ⟨.inl ha, hopen, by rw [Bool.not_eq_true']; exact hdone, hseq, ht⟩

end Groups

/-! ## Collections (R302, R315 to R317) -/

section Collections
variable {s : State} {i : Nat} {c : Coll} (hc : collAt s i = some c)
include hc

/-- The collection is gone, its filter handle's bytes are no longer stated, and the DROP flit may have ended. -/
theorem collDropDone_of_idle {k ord : Nat} (hd : c.dropped = some (k, ord)) (hb : collBusy s i c ord = false) (hw : dropWaits s c.part k ord = false) :
    ∃ hs fs, collDropDone i s = { s with
      freeIx := s.freeIx + 1, eng := { s.eng with colls := adel s.eng.colls i, handles := hs, flits := fs } } := by
  obtain ⟨l, hl⟩ := filterWrite_eq c.part c.filter s
  obtain ⟨hs, hh⟩ := setHandle_eq c.part c.filter (fun h => { h with boundColl := none })
    { s with freeIx := s.freeIx + 1, eng := { s.eng with handles := l } }
  simp only [collDropDone, hc, hd, hb, hw, Bool.or_self, Bool.false_eq_true, if_false, hl, hh]
  obtain ⟨fs, he⟩ := endOrd_eq c.part k ord { status := .ok } { s with
    freeIx := s.freeIx + 1, eng := { s.eng with colls := adel s.eng.colls i, handles := hs } }
  exact ⟨hs, fs, he⟩

/-- The collection after a flip to another main array; the entries up to the cut are freed once `scans` have ended. -/
def flippedColl (c : Coll) (main : Nat) (key : Word32) (pages cut : Nat) (scans : List Nat) : Coll :=
  { c with main := main, mainKey := key, nPages := pages, gen := c.gen + 1, cut := cut, flipped := some (cut, scans) }

omit hc in
theorem flippedColl_fields (main : Nat) (key : Word32) (pages cut : Nat) (scans : List Nat) : let d := flippedColl c main key pages cut scans
    d.main = main ∧ d.mainKey = key ∧ d.nPages = pages ∧ d.gen = c.gen + 1 ∧ d.cut = cut ∧ d.side = c.side :=
  ⟨rfl, rfl, rfl, rfl, rfl, rfl⟩

/-- What a COMPACT or COLL_REBASE that is ready flips its collection to; a COMPACT moves the cut too. -/
def flipOf (s : State) (i : Nat) (c : Coll) (f : Flit) : Coll :=
  flippedColl c (cmpTgt f) (cmpKey f) (cmpPages f) (if fOp f.word = 5 then rg f 3 else c.cut) (collScans s i c)

theorem compactFlip_of_ready {f : Flit} (hr : collRunner s c = some f) (hp : rg f 2 = 3) (hfin : f.fin = none) (hfail : f.failed = none)
    (ht : f.todo = []) (ho : f.out = []) (hs : c.state = 1) :
    ∃ gs hs fs, compactFlip i s = { s with
      freeIx := s.freeIx + 1, gctr := gs, eng := { s.eng with colls := aset s.eng.colls i (flipOf s i c f), handles := hs, flits := fs } } := by
  obtain ⟨hs', hw⟩ := filterWrite_eq c.part c.filter s
  have hc' : collAt { s with freeIx := s.freeIx + 1, eng := { s.eng with handles := hs' } } i = some c := hc
  obtain ⟨gs, hg⟩ := bumpG_eq .fluCompacts 1 { s with
    freeIx := s.freeIx + 1, eng := { s.eng with colls := aset s.eng.colls i (flipOf s i c f), handles := hs' } }
  have hready : rg f 2 = 3 ∧ f.fin.isNone ∧ f.failed.isNone ∧ f.todo = [] ∧ f.out = [] ∧ c.state = 1 :=
    ⟨hp, by rw [hfin]; rfl, by rw [hfail]; rfl, ht, ho, hs⟩
  refine ⟨gs, hs', modFirst (fun x => x.part = f.part ∧ x.slot = f.slot) (fun x => { x with regs := rgSet x [(2, 4)] }) s.eng.flits, ?_⟩
  simp only [compactFlip, hc, hr, if_pos hready, hw, setColl_of_collAt hc']
  exact congrArg (setFlit f.part f.slot _) hg

/-- The collection once the entries up to a sequence number are freed. -/
def freedColl (c : Coll) (upto : Nat) : Coll :=
  { c with side := c.side.filter fun e => decide (upto < e.seq), flipped := none, compacting := none }

theorem compactRecord_of_scansEnded {n : Nat} {scans : List Nat} (hf : c.flipped = some (n, scans))
    (he : (s.eng.flits.any fun f => f.part == c.part && decide (f.order ∈ scans)) = false) :
    ∃ fs, compactRecord i s = { s with eng := { s.eng with colls := aset s.eng.colls i (freedColl c n), flits := fs } } := by
  simp only [compactRecord, hc, hf, he, Bool.false_eq_true, if_false, setColl_of_collAt hc]
  split
  · split
    · exact ⟨_, rfl⟩
    · exact ⟨_, rfl⟩
  · exact ⟨s.eng.flits, rfl⟩

end Collections

/-! ## Sequences (R335) -/

theorem seqCloseDone_of_asked {s : State} {part slot ix : Nat} {f : Flit} {q : Seq} (hf : flitAt s part slot = some f) (he : fEngine f.word = 5)
    (hop : fOp f.word = 2) (hb : f.begun = true) (hfin : f.fin = none) (h2 : f.regs.getD 2 0 = 0) (hq : seqOf s part (fSid f) = some (ix, q))
    (hc : q.closing = some slot) (hn : (seqFlits s part (fSid f)).any (fun g => decide (g.order < f.order)) = false) :
    seqCloseDone part slot s = endFlit part q.openSlot
      { status := if q.faulted then .poison else .ok, detail := if q.faulted then 0x86 else 0, lo := q.attends % 2 ^ 32, hi := q.tokens % 2 ^ 32 }
      (setFlit part slot (fun f => { f with regs := [0, 0, 1, q.openSlot, (flitAt s part q.openSlot).elim 0 (·.order)] }) (freeSeq ix s)) := by
  simp only [seqCloseDone, hf, he, hop, hb, hfin, h2, hq, hc, hn, Option.isNone_none, and_self, decide_true, Bool.and_self, Bool.not_true, ne_eq,
    not_true_eq_false, Bool.false_eq_true, or_self, if_false]

/-- Settles O36: one lemma above for each command. -/
theorem eventsOfTheEngines : Obligations.EventsOfTheEngines := by
  unfold Obligations.EventsOfTheEngines
  refine ⟨fun s part slot f h hf => ⟨?start, ?limit, ?cells, ?completion, ?zeroed⟩, fun s h => ⟨?release, ?timeout, ?drop, ?flip, ?record, ?close⟩⟩
  case start => exact fun hw hfin hm => makesE_of_runE h rfl (startFlit_of_fenceMet hf hw hfin hm)
  case limit =>
    exact fun h0 ht hfin hprov => ⟨fun hw => makesE_of_runE h rfl (flitExpire_of_waiting hf h0 ht hfin hprov hw),
      fun hw he => makesE_of_runE h rfl (flitExpire_of_running hf h0 ht hfin hprov hw he)⟩
  case cells => exact fun ht => makesE_of_runE h rfl (cellReserve_of_todo hf ht)
  case completion =>
    exact fun e hfin ha ho hr hrec => ⟨makesE_engineCompletion hf hfin ha ho hr h hrec,
      fun hc => makesE_of_runE h rfl (completeFlit_of_address hf hfin ha ho hr hc)⟩
  case zeroed => exact fun h0 hg => makesE_scratchZeroed h h0 hg
  case release => exact fun g hd he ho => makesE_of_runE h rfl (groupRelease_of_drained hd he ho)
  case timeout => exact fun g seq ha hopen hdone hseq ht => makesE_of_runE h rfl (chunkTimeout_of_overdue ha hopen hdone hseq ht)
  case drop =>
    intro i c k ord hc hd hb hw
    obtain ⟨hs, fs, ht⟩ := collDropDone_of_idle hc hd hb hw
    exact ⟨_, makesE_of_runE h rfl ht, rfl, rfl⟩
  case flip =>
    intro i c f hc hr hp hfin hfail ht ho hs
    obtain ⟨gs, hs, fs, ht⟩ := compactFlip_of_ready hc hr hp hfin hfail ht ho hs
    obtain ⟨hmain, hkey, hpages, hgen, hcut, hside⟩ := flippedColl_fields (c := c) (cmpTgt f) (cmpKey f) (cmpPages f)
      (if fOp f.word = 5 then rg f 3 else c.cut) (collScans s i c)
    exact ⟨_, flipOf s i c f, makesE_of_runE h rfl ht, aget_aset_self _ _ _, hmain, hkey, hpages, hgen, hcut, hside, rfl⟩
  case record =>
    intro i c n scans hc hf he
    obtain ⟨fs, ht⟩ := compactRecord_of_scansEnded hc hf he
    exact ⟨_, freedColl c n, makesE_of_runE h rfl ht, aget_aset_self _ _ _, rfl, rfl, rfl, rfl⟩
  case close =>
    exact fun part slot f ix q hf he hop hb hfin h2 hq hc hn => makesE_of_runE h rfl (seqCloseDone_of_asked hf he hop hb hfin h2 hq hc hn)

end Sys2Proof.Machine
end

section
/-! PROOFS. Policers, and the indirect registers of traffic control (O29, O30): the colours of R158 one by one, what a read and a write leave for each table,
what a refilled policer lets go, then the statements. -/

namespace Sys2Proof.Machine

/-! ## The colour of a unit and the tokens after it (R158) -/

/-- Tokens grow with the time since the last update, up to the bucket. -/
theorem refill_of_le (r : PolicerRec) {p : Pol} {now : Nat} (h : p.last ≤ now) :
    refill r p now = { tc := min (p.tc + r.cir * ((now : Int) - p.last)) (r.cbs * 256000),
                       tp := min (p.tp + r.pir * ((now : Int) - p.last)) (r.pbs * 256000), last := now } := by
  simp only [refill, Int.ofNat_sub h]

section Colours
variable {r : PolicerRec} {p : Pol} {b now : Nat}

theorem police_of_disabled (he : r.en = false) (y : Bool) : police r p b y now = (.green, refill r p now) := by simp [police, he]

theorem police_beyond_peak (he : r.en = true) (hp : (refill r p now).tp < (b : Int) * 1000) (y : Bool) :
    police r p b y now = (.red, refill r p now) := by
  simp [police, he, hp]

/-- A unit within the peak that is already yellow or beyond the committed tokens takes peak tokens alone. -/
theorem police_beyond_committed (he : r.en = true) (hp : (b : Int) * 1000 ≤ (refill r p now).tp) {y : Bool}
    (hc : y = true ∨ (refill r p now).tc < (b : Int) * 1000) :
    police r p b y now = (.yellow, { refill r p now with tp := (refill r p now).tp - (b : Int) * 1000 }) := by
  simp [police, he, Int.not_lt.mpr hp, hc]

theorem police_within_committed (he : r.en = true) (hp : (b : Int) * 1000 ≤ (refill r p now).tp) (hc : (b : Int) * 1000 ≤ (refill r p now).tc) :
    police r p b false now =
      (.green, { refill r p now with tp := (refill r p now).tp - (b : Int) * 1000, tc := (refill r p now).tc - (b : Int) * 1000 }) := by
  simp [police, he, Int.not_lt.mpr hp, Int.not_lt.mpr hc]

end Colours

/-- A charge neither reads nor changes the time unit, and so not fabric time. -/
theorem charge_ftm (i b : Nat) (y : Bool) (s : State) (f : Ftm) :
    charge i b y { s with ftm := f } = ((charge i b y s).1, { (charge i b y s).2 with ftm := f }) := by
  unfold charge
  rw [show policersNow { s with ftm := f } = policersNow s from rfl]
  cases aget (policersNow s) i <;> rfl

/-- Settles O29: one lemma above for each colour, and `charge_ftm` for the counter. -/
theorem policerColours : Obligations.PolicerColours := by
  unfold Obligations.PolicerColours
  refine ⟨fun r p b now y h => ⟨?tokens, ?disabled, ?red, ?yellow, ?green⟩, ?counter⟩
  case tokens => rw [refill_of_le r h]; exact ⟨rfl, rfl, rfl⟩
  case disabled => exact fun he => police_of_disabled he y
  case red => exact fun he hp => police_beyond_peak he hp y
  case yellow => exact fun he hp hc => police_beyond_committed he hp hc
  case green => rintro he hp rfl hc; exact police_within_committed he hp hc
  case counter => intro s f i b y; rw [charge_ftm]; exact ⟨rfl, rfl⟩

/-! ## Reads and writes of the indirect registers (R177, Tables 5.6 and 5.7) -/

section Indirect
variable {s : State}

theorem tmcRead_of_record (hi : s.tmc.selIndex < tmcSize s.tmc.selTable) :
    tmcRead s = let w := tmcWords s s.tmc.selTable s.tmc.selIndex
      { s with tmc := { s.tmc with d0 := BitVec.ofNat 64 w.1, d1 := BitVec.ofNat 64 w.2.1, d2 := BitVec.ofNat 64 w.2.2 } } := by
  simp [tmcRead, setTmc, hi]

theorem tmcRead_beyond (hi : tmcSize s.tmc.selTable ≤ s.tmc.selIndex) :
    tmcRead s = { s with tmc := { s.tmc with d0 := 0, d1 := 0, d2 := 0, selError := true } } := by
  simp [tmcRead, setTmc, Nat.not_lt.mpr hi]

theorem tmcWrite_beyond (hi : tmcSize s.tmc.selTable ≤ s.tmc.selIndex) : tmcWrite s = { s with tmc := { s.tmc with selError := true } } := if_pos hi

/-- The index names a record of the selected table. -/
theorem not_beyond_of_lt {n : Nat} (ht : s.tmc.selTable = n) (hi : s.tmc.selIndex < tmcSize n) : ¬tmcSize s.tmc.selTable ≤ s.tmc.selIndex := by
  rw [ht]
  exact Nat.not_le.mpr hi

theorem tmcWrite_policer (ht : s.tmc.selTable = 0) (hi : s.tmc.selIndex < 8192) :
    tmcWrite s = let r := polOf s.tmc.d0.toNat s.tmc.d1.toNat
      if polOk (polCxl s.img.windows s.img.reqs s.img.ports s.tmc.selIndex) s.tmc.selIndex r then polSet s.tmc.selIndex r s
      else setTmc (fun m => { m with selError := true }) s := by
  rw [tmcWrite, if_neg (not_beyond_of_lt ht hi)]
  simp only [ht]

theorem tmcWrite_shaper (ht : s.tmc.selTable = 1) (hi : s.tmc.selIndex < 2048) :
    tmcWrite s = let r : ShaperRec :=
        { idleSlope := bits s.tmc.d0.toNat 0 24, shaped := bitAt s.tmc.d0.toNat 24, hiCredit := bits s.tmc.d0.toNat 32 16 }
      if slopesFit s (aset (shapersNow s) s.tmc.selIndex r) (s.tmc.selIndex / 8) then shpSet s.tmc.selIndex r s
      else setTmc (fun m => { m with selError := true }) s := by
  rw [tmcWrite, if_neg (not_beyond_of_lt ht hi)]
  simp only [ht]

theorem tmcWrite_requester (ht : s.tmc.selTable = 2) (hi : s.tmc.selIndex < 4096) :
    tmcWrite s = let n := bits s.tmc.d0.toNat 0 12
      setTmc (fun m => { m with liveReq := aset m.liveReq s.tmc.selIndex (if n = 0 then 256 else n, bits s.tmc.d0.toNat 16 3) }) s := by
  rw [tmcWrite, if_neg (not_beyond_of_lt ht hi)]
  simp only [ht]

theorem tmcWrite_partition (ht : s.tmc.selTable = 3) (hi : s.tmc.selIndex < 128) :
    tmcWrite s = let n := bits s.tmc.d0.toNat 0 16
      setTmc (fun m => { m with livePart := aset m.livePart s.tmc.selIndex (if n = 0 then 4096 else n) }) s := by
  rw [tmcWrite, if_neg (not_beyond_of_lt ht hi)]
  simp only [ht]

/-- A write changes traffic control only: whatever the table, the image stays as it is (R388, R399). -/
theorem tmcWrite_eq (s : State) : ∃ t, tmcWrite s = { s with tmc := t } := by
  simp only [tmcWrite]
  split
  · exact ⟨_, rfl⟩
  · split
    · split <;> exact ⟨_, rfl⟩
    · split <;> exact ⟨_, rfl⟩
    · exact ⟨_, rfl⟩
    · exact ⟨_, rfl⟩

end Indirect

/-! ## A policer whose tokens are above zero again (R159, R160, R224) -/

section Positive
variable {s : State} {k : Nat}

theorem tokensPositive_of_debt (h : (refill (agetD (policersNow s) k {}) (agetD s.tmc.pols k {}) s.now).tp ≤ 0) : tokensPositive k s = s := if_pos h

theorem tokensPositive_of_pos (h : 0 < (refill (agetD (policersNow s) k {}) (agetD s.tmc.pols k {}) s.now).tp) :
    tokensPositive k s =
      let t : State := { s with
        tmc := { s.tmc with pols := aset s.tmc.pols k (refill (agetD (policersNow s) k {}) (agetD s.tmc.pols k {}) s.now) }
        eng := { s.eng with flits := s.eng.flits.map fun f =>
          if f.pol = 1 ∧ polIndex f.part (fClass f.word) (subOf s f.rid) = k then { f with pol := 2 } else f } }
      ((s.ports.filter fun e => e.2.withheld).map (·.1)).foldl (fun u q =>
        if (portRec u q).protocol = 2 then cxlCredits q u
        else setPort q (fun x => { x with redPols := x.redPols.filter (· ≠ k), withheld := decide (x.redPols.filter (· ≠ k) ≠ []) }) u) t :=
  if_neg (Int.not_le.mpr h)

end Positive

/-- Settles O30: an equation above for each table of a write, the two of a read, and the two of a policer's tokens. -/
theorem indirectTrafficRegisters : Obligations.IndirectTrafficRegisters := by
  unfold Obligations.IndirectTrafficRegisters
  refine fun s h => ⟨?down, fun hp => ⟨?read, ?readBeyond, ?writeBeyond, ?policer, ?shaper, ?requester, ?partition, ?frame⟩, fun k => ⟨?debt, ?positive⟩⟩
  case down => exact fun hp => ⟨makesE_of_runE h rfl (byPaste_down _ s hp), makesE_of_runE h rfl (byPaste_down _ s hp)⟩
  case read => exact fun hi => makesE_byPaste h hp rfl (tmcRead_of_record hi)
  case readBeyond => exact fun hi => makesE_byPaste h hp rfl (tmcRead_beyond hi)
  case writeBeyond => exact fun hi => makesE_byPaste h hp rfl (tmcWrite_beyond hi)
  case policer =>
    exact fun ht hi => ⟨fun hok => makesE_byPaste h hp rfl ((tmcWrite_policer ht hi).trans (if_pos hok)),
      fun hno => makesE_byPaste h hp rfl ((tmcWrite_policer ht hi).trans (if_neg (Bool.eq_false_iff.mp hno)))⟩
  case shaper =>
    exact fun ht hi => ⟨fun hok => makesE_byPaste h hp rfl ((tmcWrite_shaper ht hi).trans (if_pos hok)),
      fun hno => makesE_byPaste h hp rfl ((tmcWrite_shaper ht hi).trans (if_neg (Bool.eq_false_iff.mp hno)))⟩
  case requester => exact fun ht hi => makesE_byPaste h hp rfl (tmcWrite_requester ht hi)
  case partition => exact fun ht hi => makesE_byPaste h hp rfl (tmcWrite_partition ht hi)
  case frame =>
    obtain ⟨t, ht⟩ := tmcWrite_eq s
    exact ⟨t, makesE_byPaste h hp rfl ht⟩
  case debt => exact fun hk => makesE_of_runE h rfl (tokensPositive_of_debt hk)
  case positive => exact fun hk => makesE_of_runE h rfl (tokensPositive_of_pos hk)

end Sys2Proof.Machine
end

section
/-! PROOFS. What reset leaves (O5), and the link items of a Bamom port (O41): what each item does on a port that is UP, and CAP at the end of training. -/

namespace Sys2Proof.Machine

/-! ## Reset (R179, R180, Table 17.3) -/

/-- No partition has a state, so every one is ABSENT. -/
theorem activeParts_reset : activeParts State.reset = [] :=
  List.filter_eq_nil_iff.mpr fun _ _ => Bool.false_ne_true

/-- Settles O5: each field at its default, which for FT makes zero nanoseconds and for the pools zero cells. -/
theorem resetState : Obligations.ResetState := by
  unfold Obligations.ResetState
  exact ⟨rfl, rfl, rfl, rfl, activeParts_reset, rfl, rfl, rfl, rfl, rfl, rfl, rfl, rfl, fun _ => rfl, rfl, rfl, rfl⟩

/-! ## Items on a port that is UP (R364, R190, R205, R368, R372, R373) -/

/-- Nothing noted in `o` satisfies `P`: what is noted there, if anything is, satisfies its negation. -/
theorem any_eq_false_iff_of_not_iff {o : Option Nat} {P Q : Nat → Prop} [DecidablePred P] (h : ∀ t, ¬P t ↔ Q t) :
    (o.any fun t => decide (P t)) = false ↔ ∀ t, o = some t → Q t := by
  cases o <;> simp [← h]

/-- The delay is measured again once 1 ms has passed since it was (R368). -/
theorem delay_due_iff (s : State) (p : Nat) (echo : Bool) :
    (echo && !(port s p).delayAt.any fun t => decide (s.now < t + 1000000)) = true ↔
      echo = true ∧ ∀ t, (port s p).delayAt = some t → t + 1000000 ≤ s.now := by
  rw [Bool.and_eq_true, Bool.not_eq_true', any_eq_false_iff_of_not_iff fun _ => Nat.not_lt]

/-- Half the sum of the two differences in ps, plus the asymmetry of the link (R368). -/
def oneWayDelay (s : State) (p txPs tTx e1Ps e1 e2Ps e2 arrPs arr : Nat) : Int :=
  ((((arr * 1000 + arrPs : Nat) : Int) - ((tTx * 1000 + txPs : Nat) : Int)) +
    (((e2 * 1000 + e2Ps : Nat) : Int) - ((e1 * 1000 + e1Ps : Nat) : Int))) / 2 + (port s p).asymPs

section Up
variable {s : State} {p : Nat} (hup : bamomUp s p = true)
include hup

section Tos
variable {echo : Bool} (txPs tTx e1Ps e1 e2Ps e2 arrPs arr : Nat)

theorem tosIn_of_due (hdue : echo = true ∧ ∀ t, (port s p).delayAt = some t → t + 1000000 ≤ s.now) :
    tosIn p echo txPs tTx e1Ps e1 e2Ps e2 arrPs arr s = setPort p (fun q => { q with
      lastTos := some (tTx, arr), lastTosPs := (txPs, arrPs), tosRxAt := some s.now
      delayPs := oneWayDelay s p txPs tTx e1Ps e1 e2Ps e2 arrPs arr, delayAt := some s.now }) s := by
  rw [← delay_due_iff] at hdue
  simp only [tosIn, hup, hdue, Bool.not_true, Bool.false_eq_true, if_false, if_true]
  rfl

theorem tosIn_of_not_due (hdue : ¬(echo = true ∧ ∀ t, (port s p).delayAt = some t → t + 1000000 ≤ s.now)) :
    tosIn p echo txPs tTx e1Ps e1 e2Ps e2 arrPs arr s = setPort p (fun q => { q with
      lastTos := some (tTx, arr), lastTosPs := (txPs, arrPs), tosRxAt := some s.now }) s := by
  rw [← delay_due_iff, Bool.not_eq_true] at hdue
  simp only [tosIn, hup, hdue, Bool.not_true, Bool.false_eq_true, if_false]

end Tos

theorem grantIn_of_up (a n x : Nat) : grantIn p a n x s = setPort p (fun q => { q with grantsIn := q.grantsIn ++ [
    { gid := s.nextId, left := 64 * a, perSlot := n, expiry := slotAbs (ftSlot s) x }] }) { s with nextId := s.nextId + 1 } :=
  if_neg (by simp [hup])

section Commands
variable (h : live s = true)
include h

theorem makesR_credit (a b : Nat) :
    MakesR (.credit p a b) s (setPort p (fun q => { q with ownReq := min 4095 (q.ownReq + a), ownMsg := min 4095 (q.ownMsg + b) }) s) := by
  show execCredit p a b s = _
  rw [execCredit, runR_live _ s h, if_pos hup]

theorem makesR_down (c : Nat) : MakesR (.down p c) s (portGoesDown p 3 s) := by
  show execDown p c s = _
  rw [execDown, runR_live _ s h, if_pos hup]

theorem makesR_narrow (m n : Nat) :
    MakesR (.narrow p m n) s (narrowTo p (m % 65536) n (setPort p (fun q => { q with laneMask := m % 65536 }) s)) := by
  show execNarrow p m n s = _
  rw [execNarrow, runR_live _ s h, if_pos hup]

end Commands

end Up

/-! ## CAP at step T6 (R371) -/

theorem capIn_at_step6 {s : State} {p : Nat} (hlink : (port s p).link = .training) (hstep : (port s p).trainStep = 6)
    (role gen width a b c d : Nat) (l : List Claim) :
    let t := setPort p (fun q => { q with farDev := d % 2 ^ 32 }) s
    capIn p role gen width a b c d l s = if capOk p role gen width t then portComesUp p a b c l t
      else emit (.trainFail p 6) (setPort p (fun q => { q with link := .failed, trainStep := 0, capFailed := true }) (dropGrants p t)) :=
  if_neg (by simp [hlink, hstep])

/-- Settles O41: each item is one of the functions above, under its condition. -/
theorem linkItems : Obligations.LinkItems := by
  unfold Obligations.LinkItems
  refine fun s p h => ⟨fun hup => ⟨?credit, ?tos, ?grant, ?down, ?narrow⟩, fun hlink hstep role gen width a b c d l => ⟨?agrees, ?differs⟩⟩
  case credit => exact makesR_credit hup h
  case tos =>
    exact fun echo txPs tTx e1Ps e1 e2Ps e2 arrPs arr => ⟨fun hdue => makesR_of_runR h rfl (tosIn_of_due hup _ _ _ _ _ _ _ _ hdue),
      fun hdue => makesR_of_runR h rfl (tosIn_of_not_due hup _ _ _ _ _ _ _ _ hdue)⟩
  case grant => exact fun a n x => makesR_of_runR h rfl (grantIn_of_up hup a n x)
  case down => exact makesR_down hup h
  case narrow => exact makesR_narrow hup h
  case agrees =>
    exact fun hcap => makesR_of_runR h rfl ((capIn_at_step6 hlink hstep role gen width a b c d l).trans (if_pos (decide_eq_true hcap)))
  case differs =>
    exact fun hcap => makesR_of_runR h rfl ((capIn_at_step6 hlink hstep role gen width a b c d l).trans (if_neg (mt of_decide_eq_true hcap)))

end Sys2Proof.Machine
end

section
/-! PROOFS. Stream units that arrive (O26): what a grant lets an elastic unit do, and what check_slot has found where it admits a class 7 unit. -/

namespace Sys2Proof.Machine

/-! ## DATA and REDUCE of an elastic class (R361, R205 to R207, R259) -/

/-- The command and the unit type that carry a unit, by whether it is a contribution. -/
theorem makesE_streamArrive {s t : State} {h : StreamHdr} (hl : live s = true)
    (ht : streamArrive (if h.dkind = 2 then 0xD1 else 0xD0) h s = t) : MakesE (if h.dkind = 2 then .reduce h else .data h) s t := by
  split at ht <;> rename_i hk
  · rw [if_pos hk]
    show execReduce h s = _
    rw [execReduce, runE_live _ s hl, if_pos hk, ht]
  · rw [if_neg hk]
    show execData h s = _
    rw [execData, runE_live _ s hl, if_neg hk, ht]

section Elastic
variable {s : State} {h : StreamHdr} (hport : portIs s h.port 1 0 = true) (hup : portUp s h.port = true) (hpayload : h.payload ≠ [])
  (hmax : h.payload.length ≤ 16368)
  (hcheck : check12 s { port := h.port, rid := h.rid, part := h.part, cls := h.cls, cmark := false, poison := false, tag := 0, reissue := false,
                          addr := 0, key := 0 } = none)
  (hdest : destOk s h = true) (hcls : h.cls ≠ 7)
include hport hup hpayload hmax hcheck hdest hcls

theorem streamArrive_of_grant {utype : Nat} {g : Grant}
    (hg : grantFor (port s h.port).grantsOut (ftSlot s) (streamBytes { utype := utype, hdr := h, accSlot := ftSlot s }) = some g) :
    let u : StreamOut := { utype := utype, hdr := h, accSlot := ftSlot s }
    streamArrive utype h s = enterElastic u (poolTake .shr (streamCells u - g.cells) (setPort h.port (fun q => { q with
      grantsOut := grantUse g.gid (ftSlot s) (streamBytes u) (streamCells u) q.grantsOut }) s)) := by
  simp only [streamArrive, hport, hup, hpayload, gt_iff_lt, Nat.not_lt.mpr hmax, hcheck, Option.isSome_none, hdest, hcls, Bool.and_self, Bool.not_true,
    Bool.false_eq_true, or_self, if_false, hg]

theorem streamArrive_of_no_grant {utype : Nat}
    (hg : grantFor (port s h.port).grantsOut (ftSlot s) (streamBytes { utype := utype, hdr := h, accSlot := ftSlot s }) = none) :
    streamArrive utype h s = dropAdmit h.port s := by
  simp only [streamArrive, hport, hup, hpayload, gt_iff_lt, Nat.not_lt.mpr hmax, hcheck, Option.isSome_none, hdest, hcls, Bool.and_self, Bool.not_true,
    Bool.false_eq_true, or_self, if_false, hg]

end Elastic

/-! ## Windows (R200) -/

theorem mem_of_minBy {α : Type} {key : α → Nat} {l : List α} {x : α} (h : minBy key l = some x) : x ∈ l := by
  induction l with
  | nil => cases h
  | cons a l ih =>
    unfold minBy at h
    split at h
    · cases h
      exact List.mem_cons_self
    · next b hb =>
      split at h <;> cases h
      · exact List.mem_cons_self
      · exact List.mem_cons_of_mem a (ih hb)

/-- The window a unit is counted in has room for it. -/
theorem fits_of_openWindow {s : State} {i p n : Nat} {w : Nat × SchWinRec} (h : openWindow s i p n = some w) :
    agetD s.ftm.sent w.1 0 + n ≤ w.2.slotBytes * w.2.len :=
  of_decide_eq_true (List.mem_filter.mp (mem_of_minBy h)).2

/-- What check_slot has found where it admits a unit under its flow, and what it counts. -/
theorem checkSlot_ok {s t : State} {h : StreamHdr} {f : FlowRec} (hok : checkSlot h s = .ok (f, t)) :
    s.ftm.schedActive = true ∧ aget s.ftm.active.flows h.schedId = some f ∧ f.valid = true ∧ f.kind ≠ 3 ∧ f.rid = h.rid ∧ f.part = h.part ∧
      ∃ i w, openWindow s h.schedId h.port (16 + h.payload.length) = some (i, w) ∧
        t = { s with ftm := { s.ftm with sent := aset s.ftm.sent i (agetD s.ftm.sent i 0 + (16 + h.payload.length)) } } := by
  unfold checkSlot at hok
  split at hok
  · cases hok
  · next hactive =>
    split at hok
    · cases hok
    · next g hflow =>
      split at hok
      · cases hok
      · next hvalid =>
        split at hok
        · cases hok
        · next howner =>
          dsimp only at hok
          split at hok
          · cases hok
          · next i w hwin =>
            cases hok
            simp only [Bool.not_eq_true', not_or, Bool.not_eq_false, ne_eq, not_not] at hactive hvalid howner
            exact ⟨hactive, hflow, hvalid.1, hvalid.2, howner.1, howner.2, i, w, hwin, rfl⟩

/-- Settles O26: a unit goes as its grant has it, and check_slot admits only what its inversion lists, in a window with room. -/
theorem streamUnitsNeedAGrantOrAWindow : Obligations.StreamUnitsNeedAGrantOrAWindow := by
  unfold Obligations.StreamUnitsNeedAGrantOrAWindow
  refine ⟨fun s h hl hport hup hpayload hmax hcheck hdest hcls c hc => ?elastic, fun s t h f hok => ?class7⟩
  case elastic =>
    subst hc
    exact ⟨fun g hg => makesE_streamArrive hl (streamArrive_of_grant hport hup hpayload hmax hcheck hdest hcls hg),
      fun hg => makesE_streamArrive hl (streamArrive_of_no_grant hport hup hpayload hmax hcheck hdest hcls hg)⟩
  case class7 =>
    obtain ⟨hactive, hflow, hvalid, hkind, hrid, hpart, i, w, hwin, ht⟩ := checkSlot_ok hok
    exact ⟨hactive, hflow, hvalid, hkind, hrid, hpart, i, w, hwin, fits_of_openWindow hwin, ht⟩

end Sys2Proof.Machine
end

section
/-! PROOFS. Time sources and lock states (O31): one servo update, edges and Syncs as they come, what qualifies a source, and a write of FTM_CTL. -/

namespace Sys2Proof.Machine

/-- A command of the time unit makes its effect on a live package, and through a held warm reset, in which nothing goes on by itself (R180). -/
theorem makesT_of_runT {c : Instr} {f : State → State} {s t : State} (hon : timeUnitOn s = true) (e : exec c s = runT f s) (ht : f s = t) :
    MakesT c s t := by
  rw [MakesT, Makes, e]
  cases hl : live s
  · rw [runT_held f s hl hon, ht, if_neg Bool.false_ne_true]
  · rw [runT_live f s hl, ht, if_pos rfl]

/-! ## The servo (R185) -/

/-- Fabric time is no part of a partition's state. -/
theorem activeParts_setFtm (f : Ftm → Ftm) (s : State) : activeParts (setFtm f s) = activeParts s :=
  List.filter_congr fun _ _ => rfl

theorem stepBarred_iff {o : Int} {s : State} : stepBarred o s = true ↔ s.ftm.stepThr < o.natAbs ∧ o < 0 ∧ activeParts s ≠ [] := decide_eq_true_iff

/-- Whether a step is barred hangs on nothing of the time unit but the threshold. -/
theorem stepBarred_setFtm {f : Ftm → Ftm} (hf : ∀ m, (f m).stepThr = m.stepThr) (o : Int) (s : State) : stepBarred o (setFtm f s) = stepBarred o s := by
  rw [stepBarred, stepBarred, activeParts_setFtm, setFtm_ftm, hf]

/-- `s` with the offset of an update in FTM_OFFSET. -/
def measured (o : Int) (s : State) : State := setFtm (fun m => { m with offset := o }) s

/-- `s` with FT running at the increment `n`; no step, and the count of good updates begins again. -/
def runAt (n : Nat) (s : State) : State := setFtm (fun m => { m with incr := n, good := 0 }) s

theorem state_runAt (n : Nat) (s : State) : (runAt n s).ftm.state = s.ftm.state := rfl
theorem ftFix_runAt (n : Nat) (s : State) : (runAt n s).ftm.ftFix = s.ftm.ftFix := rfl
theorem ftFix_enterFt (x : FtState) (s : State) : (enterFt x s).ftm.ftFix = s.ftm.ftFix := rfl

/-- No entry into a state activates the scheduled plane (R188). -/
theorem schedActive_of_enterFt {x : FtState} {s : State} (h : (enterFt x s).ftm.schedActive = true) : s.ftm.schedActive = true := by
  rw [enterFt, setFtm_ftm] at h
  dsimp only at h
  split at h
  · cases h
  · exact h

/-- FT is not stepped back but runs as slowly as it may. -/
def slowed (o : Int) (s : State) : State := runAt (nominalIncr - slewMax) (measured o s)

theorem state_slowed (o : Int) (s : State) : (slowed o s).ftm.state = s.ftm.state := state_runAt _ (measured o s)
theorem ftFix_slowed (o : Int) (s : State) : (slowed o s).ftm.ftFix = s.ftm.ftFix := ftFix_runAt _ (measured o s)

section Servo
variable {s : State} {o : Int} (hq : s.ftm.qualified = true) (hs : s.ftm.state ≠ .free)
include hq hs

/-- An update acts by the size of its offset, and by whether a step would take FT back under an ACTIVE partition. -/
theorem servo_of_qualified : servo o s =
    if o.natAbs ≤ s.ftm.stepThr then ftSlew o (measured o s)
    else if stepBarred o s then (if s.ftm.state = .holdover then enterFt .acquiring (slowed o s) else slowed o s)
    else ftStep o (measured o s) := by
  rw [← stepBarred_setFtm (f := fun m => { m with offset := o }) (fun _ => rfl), ← state_slowed o s]
  exact if_neg (by simp [hq, hs])

theorem servo_of_within (ho : o.natAbs ≤ s.ftm.stepThr) : servo o s = ftSlew o (measured o s) := by
  rw [servo_of_qualified hq hs, if_pos ho]

theorem servo_of_barred (hb : stepBarred o s = true) :
    servo o s = if s.ftm.state = .holdover then enterFt .acquiring (slowed o s) else slowed o s := by
  rw [servo_of_qualified hq hs, if_neg (Nat.not_le.mpr (stepBarred_iff.mp hb).1), if_pos hb]

theorem ftFix_servo_of_barred (hb : stepBarred o s = true) : (servo o s).ftm.ftFix = s.ftm.ftFix := by
  rw [servo_of_barred hq hs hb]
  split
  · rw [ftFix_enterFt, ftFix_slowed]
  · rw [ftFix_slowed]

theorem servo_of_step (ho : s.ftm.stepThr < o.natAbs) (hf : 0 ≤ o ∨ activeParts s = []) : servo o s = ftStep o (measured o s) := by
  have hb : ¬stepBarred o s = true := by
    rw [stepBarred_iff]
    rintro ⟨-, hneg, hact⟩
    exact hf.elim (Int.not_le.mpr hneg) hact
  rw [servo_of_qualified hq hs, if_neg (Nat.not_le.mpr ho), if_neg hb]

end Servo

/-! ## Edges of PPS (R182) -/

/-- The edge before, if there was one, lies as far back as the window allows (Table 6.2). -/
theorem edge_inTime_iff (s : State) : (s.ftm.ppsAt.any fun t => decide (s.now < t + ppsMin ∨ t + ppsMax < s.now)) = false ↔
    ∀ t, s.ftm.ppsAt = some t → t + ppsMin ≤ s.now ∧ s.now ≤ t + ppsMax :=
  any_eq_false_iff_of_not_iff fun _ => by rw [not_or, Nat.not_lt, Nat.not_lt]

/-- `s` with an edge noted. -/
def edgeNoted (s : State) : State := setFtm (fun m => { m with ppsAt := some s.now }) s

/-- The whole second of an edge that comes now, less FT: of the seconds set for it, or of those nearest to FT. -/
def edgeOffset (s : State) : Int :=
  (match s.ftm.setSecs with
    | some n => n
    | none => (Int.ofNat (ft s) - s.ftm.ppsDelayNs + 500000000) / 1000000000) * 1000000000 + s.ftm.ppsDelayNs - ft s

theorem edgeOffset_of_set {s : State} {n : Nat} (hn : s.ftm.setSecs = some n) : edgeOffset s = (n : Int) * 1000000000 + s.ftm.ppsDelayNs - ft s := by
  rw [edgeOffset, hn]

theorem edgeOffset_of_unset {s : State} (hn : s.ftm.setSecs = none) :
    edgeOffset s = (Int.ofNat (ft s) - s.ftm.ppsDelayNs + 500000000) / 1000000000 * 1000000000 + s.ftm.ppsDelayNs - ft s := by
  rw [edgeOffset, hn]

theorem ppsEdge_of_other {s : State} (h : s.ftm.source ≠ 1 ∨ s.ftm.qualified = false) : ppsEdge s = edgeNoted s :=
  if_pos (by simpa using h)

section Edge
variable {s : State} (hsrc : s.ftm.source = 1) (hq : s.ftm.qualified = true)
include hsrc hq

theorem ppsEdge_of_late (hlate : ¬∀ t, s.ftm.ppsAt = some t → t + ppsMin ≤ s.now ∧ s.now ≤ t + ppsMax) : ppsEdge s = disqualify (edgeNoted s) := by
  rw [← edge_inTime_iff, Bool.not_eq_false] at hlate
  rw [ppsEdge, if_neg (by simp [hsrc, hq]), if_pos hlate]
  rfl

/-- The servo takes the offset of FT from the whole second of the edge; seconds that were set hold on while a step back to them is barred. -/
theorem ppsEdge_of_inTime (htime : ∀ t, s.ftm.ppsAt = some t → t + ppsMin ≤ s.now ∧ s.now ≤ t + ppsMax) :
    ppsEdge s = servo (edgeOffset s) (setFtm (fun m => { m with setSecs := if stepBarred (edgeOffset s) s then m.setSecs.map (· + 1) else none })
      (edgeNoted s)) := by
  rw [← edge_inTime_iff, ← Bool.not_eq_true] at htime
  rw [← stepBarred_setFtm (f := fun m => { m with ppsAt := some s.now }) (fun _ => rfl), ppsEdge, if_neg (by simp [hsrc, hq]), if_neg htime]
  rfl

section Seconds
variable (htime : ∀ t, s.ftm.ppsAt = some t → t + ppsMin ≤ s.now ∧ s.now ≤ t + ppsMax)
include htime

theorem ppsEdge_of_set {n : Nat} (hn : s.ftm.setSecs = some n) :
    let o := (n : Int) * 1000000000 + s.ftm.ppsDelayNs - ft s
    ppsEdge s = servo o (setFtm (fun m => { m with setSecs := if stepBarred o s then some (n + 1) else none }) (edgeNoted s)) := by
  rw [← edgeOffset_of_set hn, ppsEdge_of_inTime hsrc hq htime]
  simp only [edgeNoted, setFtm, hn, Option.map_some]

/-- Without seconds set there are none to hold on to. -/
theorem ppsEdge_of_unset (hn : s.ftm.setSecs = none) : ppsEdge s =
    servo ((Int.ofNat (ft s) - s.ftm.ppsDelayNs + 500000000) / 1000000000 * 1000000000 + s.ftm.ppsDelayNs - ft s) (edgeNoted s) := by
  rw [← edgeOffset_of_unset hn, ppsEdge_of_inTime hsrc hq htime]
  simp only [edgeNoted, setFtm, hn, Option.map_none, ite_self]

end Seconds

end Edge

/-! ## Syncs of PTP (R183) -/

/-- The path delay after a Sync: from the exchange it brings, else as it was. -/
def syncDelay (m : Nat) (y : PtpExchange) (s : State) : Int :=
  match y.delay with
  | some (t3, t4) => ((Int.ofNat y.t2 - y.t1) + (Int.ofNat t4 - t3)) / 2
  | none => agetD s.ftm.ptpDelay m 0

/-- `s` with a Sync of management port `m` noted. -/
def syncNoted (m : Nat) (y : PtpExchange) (s : State) : State :=
  setFtm (fun f => { f with syncAt := aset f.syncAt m s.now, ptpDelay := aset f.ptpDelay m (syncDelay m y s) }) s

/-- The Sync before, if there was one, was no more than 2 s ago (Table 6.2). -/
theorem sync_inTime_iff (s : State) (m : Nat) : ((aget s.ftm.syncAt m).any fun t => decide (t + 2000000000 < s.now)) = false ↔
    ∀ t, aget s.ftm.syncAt m = some t → s.now ≤ t + 2000000000 :=
  any_eq_false_iff_of_not_iff fun _ => Nat.not_lt

section Sync
variable {s : State} {m d : Nat} (y : PtpExchange)

theorem ptpSync_of_foreign (h : d ≠ s.ftm.ptpDomain ∨ 2 ≤ m) : ptpSync m d y.t1 y.t2 y.delay s = s := if_pos h

section Domain
variable (hd : d = s.ftm.ptpDomain) (hm : m < 2)
include hd hm

/-- A Sync in the domain is noted; if it is of the qualified source, it goes to the servo, or disqualifies a source it comes too late of. -/
theorem ptpSync_of_domain : ptpSync m d y.t1 y.t2 y.delay s =
    if s.ftm.source ≠ 2 + m ∨ (!s.ftm.qualified) = true then syncNoted m y s
    else if (aget s.ftm.syncAt m).any fun t => decide (t + 2000000000 < s.now) then disqualify (syncNoted m y s)
    else servo (Int.ofNat y.t1 + syncDelay m y s - y.t2) (syncNoted m y s) := by
  have hown : ¬(d ≠ s.ftm.ptpDomain ∨ 2 ≤ m) := by omega
  exact if_neg hown

theorem ptpSync_of_other (h : s.ftm.source ≠ 2 + m ∨ s.ftm.qualified = false) : ptpSync m d y.t1 y.t2 y.delay s = syncNoted m y s := by
  rw [ptpSync_of_domain y hd hm, if_pos (by simpa using h)]

section Source
variable (hsrc : s.ftm.source = 2 + m) (hq : s.ftm.qualified = true)
include hsrc hq

theorem ptpSync_of_inTime (ht : ∀ t, aget s.ftm.syncAt m = some t → s.now ≤ t + 2000000000) :
    ptpSync m d y.t1 y.t2 y.delay s = servo (Int.ofNat y.t1 + syncDelay m y s - y.t2) (syncNoted m y s) := by
  rw [← sync_inTime_iff, ← Bool.not_eq_true] at ht
  rw [ptpSync_of_domain y hd hm, if_neg (by simp [hsrc, hq]), if_neg ht]

theorem ptpSync_of_late (ht : ¬∀ t, aget s.ftm.syncAt m = some t → s.now ≤ t + 2000000000) :
    ptpSync m d y.t1 y.t2 y.delay s = disqualify (syncNoted m y s) := by
  rw [← sync_inTime_iff, Bool.not_eq_false] at ht
  rw [ptpSync_of_domain y hd hm, if_neg (by simp [hsrc, hq]), if_pos ht]

end Source
end Domain
end Sync

/-! ## Timing ordered sets of the reference port (R182) -/

section Tos
variable {s : State}

theorem tosServo_of_other (h : s.ftm.source ≠ 4) : tosServo s = s := if_pos h

variable (h4 : s.ftm.source = 4)
include h4

theorem tosServo_of_ready (hr : sourceReady s 4 = true) {t a : Nat} (ht : (port s s.ftm.refPort).lastTos = some (t, a)) :
    tosServo s = servo (Int.ofNat t + (port s s.ftm.refPort).delayPs / 1000 - Int.ofNat a) s := by
  simp only [tosServo, h4, hr, ht, ne_eq, not_true_eq_false, Bool.not_true, Bool.false_eq_true, if_false]

theorem tosServo_of_stopped (hr : sourceReady s 4 = false) (hq : s.ftm.qualified = true) : tosServo s = disqualify s := by
  simp only [tosServo, h4, hr, hq, ne_eq, not_true_eq_false, Bool.not_false, if_false, if_true]

end Tos

/-! ## Qualification and holdover (R184, R186, Table 6.3) -/

section Source
variable {s : State}

theorem portUp_of_sourceReady (h : sourceReady s 4 = true) : portUp s s.ftm.refPort = true := (Bool.and_eq_true_iff.mp h).1

theorem sourceQualify_of_unready (h : sourceReady s s.ftm.source = false) : sourceQualify s = s := if_pos (by rw [h]; rfl)

theorem sourceQualify_of_free (h : sourceReady s s.ftm.source = true) (hs : s.ftm.state = .free) :
    sourceQualify s = enterFt .acquiring (setFtm (fun m => { m with qualified := true }) s) := by
  rw [sourceQualify, if_neg (by simp [h])]
  exact if_pos hs

theorem sourceQualify_of_not_free (h : sourceReady s s.ftm.source = true) (hs : s.ftm.state ≠ .free) :
    sourceQualify s = setFtm (fun m => { m with qualified := true }) s := by
  rw [sourceQualify, if_neg (by simp [h])]
  exact if_neg hs

theorem disqualify_of_locked (hs : s.ftm.state = .locked) :
    disqualify s = enterFt .holdover (setFtm (fun m => { m with qualified := false, lostAt := s.now }) s) := by
  simp only [disqualify, setFtm_ftm, hs]
  rfl

theorem disqualify_of_acquiring (hs : s.ftm.state = .acquiring) : disqualify s = enterFt .free (setFtm (fun m => { m with qualified := false }) s) := by
  simp only [disqualify, setFtm_ftm, hs]

/-- In FREE there is nothing to lose, and HOLDOVER goes on. -/
theorem disqualify_of_unlocked (hs : s.ftm.state = .free ∨ s.ftm.state = .holdover) : disqualify s = setFtm (fun m => { m with qualified := false }) s := by
  rcases hs with hs | hs <;> simp only [disqualify, setFtm_ftm, hs]

theorem holdoverExpire_of_late (hon : timeUnitOn s = true) (hs : s.ftm.state = .holdover)
    (hl : 128 * 10 ^ 9 < holdErr s ∨ (dev s).holdoverMs * 1000000 < s.now - s.ftm.lostAt) : MakesT .holdoverExpire s (enterFt .free s) :=
  makesT_of_runT hon rfl (if_pos ⟨hs, hl⟩)

theorem holdoverExpire_early (hon : timeUnitOn s = true)
    (hl : s.ftm.state ≠ .holdover ∨ (holdErr s ≤ 128 * 10 ^ 9 ∧ s.now - s.ftm.lostAt ≤ (dev s).holdoverMs * 1000000)) : MakesT .holdoverExpire s s :=
  makesT_of_runT hon rfl (if_neg (by
    rintro ⟨hs, ho⟩
    obtain ⟨he, ht⟩ := hl.resolve_left (not_not.mpr hs)
    exact ho.elim (Nat.not_lt.mpr he) (Nat.not_lt.mpr ht)))

end Source

/-! ## FTM_CTL (R209, Table 6.8) -/

section Ctl
variable (v : Nat) (s : State)

/-- `s` with the fields of a write of FTM_CTL; a threshold of 0 stands for 1,000. -/
def ctlTaken : State := setFtm (fun m => { m with
  source := bits v 0 3, refPort := bits v 8 8, ptpDomain := bits v 16 8, stepThr := if bits v 32 16 = 0 then 1000 else bits v 32 16 }) s

/-- The source of a write that changes source or port is qualified: one that stays as it was, source 4 by its port, any other by what the plane sees and a free
bit tells (R209). -/
def ctlQualified : Bool :=
  if bits v 0 3 = s.ftm.source then (if bits v 0 3 = 4 then sourceReady (ctlTaken v s) 4 else s.ftm.qualified)
  else sourceReady (ctlTaken v s) (bits v 0 3) && (Config.freeNat s.freeIx % 2 == 1 || decide (bits v 0 3 = 4))

/-- `s` after a write that changes source or port: the new source is qualified or not, and a free bit has been taken. -/
def ctlChanged (ok : Bool) : State := setFtm (fun m => { m with qualified := ok }) { ctlTaken v s with freeIx := s.freeIx + 1 }

variable {v s}

theorem ftmCtlWrite_of_same (hsrc : bits v 0 3 = s.ftm.source) (hrp : bits v 8 8 = s.ftm.refPort) : ftmCtlWrite v s = ctlTaken v s :=
  if_neg (by simp [hsrc, hrp])

section New
variable (hnew : bits v 0 3 ≠ s.ftm.source ∨ bits v 8 8 ≠ s.ftm.refPort)
include hnew

theorem ftmCtlWrite_of_new :
    ftmCtlWrite v s = enterFt (if ctlQualified v s then .acquiring else .free) (ctlChanged v s (ctlQualified v s)) := if_pos hnew

theorem ftmCtlWrite_of_qualified (hq : ctlQualified v s = true) : ftmCtlWrite v s = enterFt .acquiring (ctlChanged v s true) := by
  rw [ftmCtlWrite_of_new hnew, hq, if_pos rfl]

theorem ftmCtlWrite_of_unqualified (hq : ctlQualified v s = false) : ftmCtlWrite v s = enterFt .free (ctlChanged v s false) := by
  rw [ftmCtlWrite_of_new hnew, hq, if_neg Bool.false_ne_true]

end New

theorem ctlQualified_of_same (hsrc : bits v 0 3 = s.ftm.source) (h4 : bits v 0 3 ≠ 4) : ctlQualified v s = s.ftm.qualified := by
  rw [ctlQualified, if_pos hsrc, if_neg h4]

/-- Source 4 is qualified as its port is, newly chosen or not. -/
theorem ctlQualified_of_port (h4 : bits v 0 3 = 4) : ctlQualified v s = sourceReady (ctlTaken v s) 4 := by
  simp only [ctlQualified, h4, decide_true, Bool.or_true, Bool.and_true, if_true, ite_self]

theorem ctlQualified_of_unready (hnew : bits v 0 3 ≠ s.ftm.source) (hr : sourceReady (ctlTaken v s) (bits v 0 3) = false) : ctlQualified v s = false := by
  rw [ctlQualified, if_neg hnew, hr, Bool.false_and]

end Ctl

/-- Settles O31: each command of the time unit is one of the functions above, and a write of FTM_CTL enters a state by `ctlQualified`. -/
theorem timeSourcesAndLockStates : Obligations.TimeSourcesAndLockStates := by
  unfold Obligations.TimeSourcesAndLockStates
  refine ⟨fun o s hq hs => ⟨servo_of_within hq hs, fun hthr hneg hact => ?barred, servo_of_step hq hs⟩,
    fun s hon => ⟨?set, ?unset, ?late, ?noted, fun m d y => ⟨?foreign, fun hd hm => ⟨?syncNoted, ?sync, ?syncLate⟩⟩, ?tos, ?tosStopped, ?tosOther⟩,
    fun s => ⟨rfl, portUp_of_sourceReady, fun hon => ⟨?unready, ?fromFree, ?qualify, ?lost, ?given, ?unlocked, ?expire, ?early⟩, fun hl hp v => ?ctl⟩,
    fun x s => ⟨rfl, fun hx => if_pos hx, ?suspended, ftFix_enterFt x s⟩⟩
  case barred =>
    have hb := stepBarred_iff.mpr ⟨hthr, hneg, hact⟩
    exact ⟨servo_of_barred hq hs hb, ftFix_servo_of_barred hq hs hb⟩
  case set => exact fun n hsrc hq ht hn => makesT_of_runT hon rfl (ppsEdge_of_set hsrc hq ht hn)
  case unset => exact fun hsrc hq ht hn => makesT_of_runT hon rfl (ppsEdge_of_unset hsrc hq ht hn)
  case late => exact fun hsrc hq ht => makesT_of_runT hon rfl (ppsEdge_of_late hsrc hq ht)
  case noted => exact fun h => makesT_of_runT hon rfl (ppsEdge_of_other h)
  case foreign => exact fun h => makesT_of_runT hon rfl (ptpSync_of_foreign y h)
  case syncNoted => exact fun h => makesT_of_runT hon rfl (ptpSync_of_other y hd hm h)
  case sync => exact fun hsrc hq ht => makesT_of_runT hon rfl (ptpSync_of_inTime y hd hm hsrc hq ht)
  case syncLate =>
    exact fun t hsrc hq ha ht => makesT_of_runT hon rfl (ptpSync_of_late y hd hm hsrc hq fun hall => Nat.not_le.mpr ht (hall t ha))
  case tos => exact fun t a h4 hr ht => makesT_of_runT hon rfl (tosServo_of_ready h4 hr ht)
  case tosStopped => exact fun h4 hr hq => makesT_of_runT hon rfl (tosServo_of_stopped h4 hr hq)
  case tosOther => exact fun h => makesT_of_runT hon rfl (tosServo_of_other h)
  case unready => exact fun h => makesT_of_runT hon rfl (sourceQualify_of_unready h)
  case fromFree => exact fun h hs => makesT_of_runT hon rfl (sourceQualify_of_free h hs)
  case qualify => exact fun h hs => makesT_of_runT hon rfl (sourceQualify_of_not_free h hs)
  case lost => exact fun hs => makesT_of_runT hon rfl (disqualify_of_locked hs)
  case given => exact fun hs => makesT_of_runT hon rfl (disqualify_of_acquiring hs)
  case unlocked => exact fun hs => makesT_of_runT hon rfl (disqualify_of_unlocked hs)
  case expire => exact holdoverExpire_of_late hon
  case early => exact holdoverExpire_early hon
  case ctl =>
    refine ⟨fun hsrc hrp => ?same, fun hsrc hrp h4 hq => ?kept, fun hsrc hrp h4 hq => ?gone, fun h4 hnew hr => ?ready, fun hnew hr => ?refused⟩
    case same => exact makesE_byPaste hl hp rfl (ftmCtlWrite_of_same hsrc hrp)
    case kept => exact makesE_byPaste hl hp rfl (ftmCtlWrite_of_qualified (.inr hrp) ((ctlQualified_of_same hsrc h4).trans hq))
    case gone => exact makesE_byPaste hl hp rfl (ftmCtlWrite_of_unqualified (.inr hrp) ((ctlQualified_of_same hsrc h4).trans hq))
    case ready =>
      have hchange := hnew.imp_left fun h => h4 ▸ h.symm
      exact makesE_byPaste hl hp rfl (ftmCtlWrite_of_qualified hchange ((ctlQualified_of_port h4).trans hr))
    case refused =>
      rcases hnew with hsrc | ⟨hrp, h4⟩
      · exact makesE_byPaste hl hp rfl (ftmCtlWrite_of_unqualified (.inl hsrc) (ctlQualified_of_unready hsrc hr))
      · exact makesE_byPaste hl hp rfl (ftmCtlWrite_of_unqualified (.inr hrp) ((ctlQualified_of_port h4).trans (h4 ▸ hr)))
  case suspended => exact schedActive_of_enterFt

end Sys2Proof.Machine
end

section
/-! PROOFS. The scheduled plane (O32): its activation and the pulse, timing ordered sets that leave, schedule banks and windows, the units of plane-sourced
streams, and window grants. -/

namespace Sys2Proof.Machine

section Unit
variable {s : State} (hon : timeUnitOn s = true)
include hon

/-! ## Activation and the pulse (R188, R189) -/

theorem makesT_schedActivate (hs : s.ftm.state = .locked) (hf : s.ftm.lockedFrom + 64 ≤ ftFrame s) :
    MakesT .schedActivate s { s with ftm := { s.ftm with schedActive := true } } :=
  makesT_of_runT hon rfl (if_pos ⟨hs, hf⟩)

/-- At a whole second of FT the pulse rises, at that second. -/
theorem makesT_ppsOutRise (hen : s.ftm.ppsEn = true) (hout : s.ftm.ppsOut = false) (ht : ft s % 1000000000 = 0) :
    MakesT .ppsOutRise s { s with ftm := { s.ftm with ppsOut := true, ppsRise := ft s } } := by
  refine makesT_of_runT hon rfl ((if_pos ⟨hen, by rw [hout]; rfl, by rw [ht]; exact Nat.two_pos⟩).trans ?_)
  rw [ht, Nat.sub_zero]
  rfl

theorem makesT_ppsOutFall (hout : s.ftm.ppsOut = true) (ht : s.ftm.ppsRise + ppsWidth s * 1000 ≤ ft s) :
    MakesT .ppsOutFall s { s with ftm := { s.ftm with ppsOut := false } } :=
  makesT_of_runT hon rfl (if_pos ⟨hout, .inl ht⟩)

end Unit

/-! ## Timing ordered sets (R190) -/

theorem tosSend_of_free {s : State} {p : Nat} (hup : portUp s p = true) (hb : (portRec s p).protocol = 1) (htx : (port s p).tosTx = true)
    (ht : (port s p).tosAt + 4096 ≤ s.now) (hi : (port s p).items = []) (hf : flitsFit s p 1 = true) :
    let q := port s p
    tosSend p s = setPort p (fun q => { q with tosAt := s.now })
      (sendItem p (.tos q.lastTos.isSome (ftPs s) (ft s) q.lastTosPs.1 (q.lastTos.getD (0, 0)).1 q.lastTosPs.2 (q.lastTos.getD (0, 0)).2) s) := by
  simp only [tosSend, hup, hb, htx, hi, hf, Nat.not_lt.mpr ht, decide_true, Bool.and_self, Bool.not_true, Bool.false_eq_true, or_self, if_false]

/-! ## Schedule banks (R196, R197) -/

section Arm
variable {s : State} {n : Nat}

theorem schedArm_of_near (h : n % 2 ^ 40 < ftFrame s + 2) :
    schedArm n s = { s with ftm := { s.ftm with actFrame := n % 2 ^ 40, late := true, arm := false } } :=
  if_pos h

theorem schedArm_of_far (h : ftFrame s + 2 ≤ n % 2 ^ 40) : schedArm n s = { s with ftm := { s.ftm with actFrame := n % 2 ^ 40, arm := true } } :=
  if_neg (Nat.not_lt.mpr h)

end Arm

/-- The banks have changed places, and streams whose flow is the same in both go on (R197). -/
def banksSwapped (s : State) : State := setFtm (fun m => { m with
  activeBank := !m.activeBank, active := s.ftm.staged, staged := s.ftm.active, stagedValid := decide (s.ftm.active ≠ {}), arm := false
  actBegan := m.actFrame, sent := []
  streams := m.streams.filter fun x => decide (aget s.ftm.staged.flows x.schedId = some x.flow) && x.flow.valid }) s

theorem bankSwap_of_reached {s : State} (ha : s.ftm.arm = true) (ht : s.ftm.actFrame * frameNs ≤ ft s) :
    bankSwap s = swapStaged ((queued7 (banksSwapped s)).foldl (fun s u => swapDemote u.1 u.2.1 u.2.2 s) (purgeAll (fun d => d.cls == 7) (banksSwapped s))) :=
  if_neg (by simp [ha, ht])

theorem bankSwap_of_early {s : State} (h : s.ftm.arm = false ∨ ft s < s.ftm.actFrame * frameNs) : bankSwap s = s :=
  if_pos (by simpa using h)

/-! ## Windows (R200) -/

theorem makesE_schedWindowOpen {s : State} (h : live s = true) {i : Nat} {w : SchWinRec} (hw : aget s.ftm.active.wins i = some w)
    (hs : winStarts w (ftSlot s % 65536) = true) : MakesE (.schedWindowOpen i) s { s with ftm := { s.ftm with sent := aset s.ftm.sent i 0 } } := by
  show execSchedWindowOpen i s = _
  rw [execSchedWindowOpen, runE_live _ s h]
  simp only [hw, hs, if_true]
  rfl

/-! ## Plane-sourced streams (R199) -/

section NextUnit
variable (x : Stream)

/-- Slot, first byte, bytes and parts of the next unit of a stream. -/
def unitSlot (s : State) : Nat := ftSlot s + x.flow.leadSlots
def unitFrom : Nat := x.next * x.flow.unitCells * 256
def unitBytes : Nat := min (x.flow.unitCells * 256) (x.flow.length * 4096 - unitFrom x)
def unitParts : List (Nat × Nat) := pagePieces (unitBytes x / 4096 + 2) (x.flow.loc + unitFrom x) (unitBytes x)

/-- `s` with the next unit of a stream begun: its SCH cells are taken, and its last unit ends the stream. -/
def unitBegun (i : Nat) (s : State) : State := { s with
  vat := { s.vat with sch := s.vat.sch + ceilDiv (unitBytes x) 256 }
  ftm := { s.ftm with
    streams := if x.flow.length * 4096 ≤ unitFrom x + unitBytes x then s.ftm.streams.filter fun y => y.schedId ≠ i
      else modFirst (fun y => y.schedId = i) (fun y => { y with next := y.next + 1, lastSlot := some (unitSlot x s) }) s.ftm.streams
    units := s.ftm.units ++ [{
      schedId := i, slot := unitSlot x s, cells := ceilDiv (unitBytes x) 256, dest := x.flow.dest, part := x.flow.part, left := (unitParts x).length }] } }

end NextUnit

section Stream
variable {s : State} {i : Nat} {x : Stream} (hx : (s.ftm.streams.find? fun x => x.schedId = i) = some x)
include hx

theorem unitRead_of_stopping (hstop : x.stopping = true) :
    unitRead i s = { s with ftm := { s.ftm with streams := s.ftm.streams.filter fun y => y.schedId ≠ i } } := by
  simp only [unitRead, hx, hstop, if_true]
  rfl

/-- In its send slot a unit that is left, and that the SCH pool has room for, is read part by part from its range. -/
theorem unitRead_of_slot {e : RangeEntry} (hstop : x.stopping = false) (he : aget s.img.ranges x.flow.range = some e)
    (hslot : sendSlot s i (unitSlot x s % 65536) = true) (hstart : x.startFrame ≤ unitSlot x s / 65536) (hlast : x.lastSlot ≠ some (unitSlot x s))
    (hleft : unitFrom x < x.flow.length * 4096) (hcells : x.flow.unitCells ≠ 0) (hroom : s.vat.sch + ceilDiv (unitBytes x) 256 ≤ poolCells s .sch) :
    unitRead i s = (unitParts x).foldl (strmRead x (unitSlot x s) (x.flow.loc + unitFrom x) (x.flow.range, e, ownOdd s)) (unitBegun x i s) := by
  have hdue : ¬((!sendSlot s i (unitSlot x s % 65536)) = true ∨ unitSlot x s / 65536 < x.startFrame ∨ x.lastSlot = some (unitSlot x s) ∨
      x.flow.length * 4096 ≤ unitFrom x ∨ x.flow.unitCells = 0) := by
    simp [hslot, hlast, hcells, hstart, hleft]
  rw [unitRead, hx]
  refine (if_neg (by simp [hstop])).trans ((if_neg hdue).trans ((if_neg (Nat.not_lt.mpr hroom)).trans ?_))
  simp only [setFtm_img, poolTake, he]
  rfl

end Stream

/-! ## Window grants (R205, R206) -/

theorem grantIssue_of_room {s : State} {p a l : Nat} (hp : portIs s p 1 0 = true) (hup : portUp s p = true) (hw : (port s p).withheld = false)
    (hr : streamRoom s p = true) (hrun : s.pwr.pstate = 0) (ha : 0 < a)
    (hwin : sumOf ((port s p).grantsOut.map (·.left)) + a * 64 ≤ (portRec s p).windowKib * 1024) (hshr : ceilDiv (a * 64) 256 ≤ shrFree s) :
    grantIssue p a l s = sendItem p (.grant a l (ftSlot s + 64)) (poolTake .shr (ceilDiv (a * 64) 256) (setPort p (fun q => { q with
      grantsOut := q.grantsOut ++ [{ gid := s.nextId, left := a * 64, perSlot := l, expiry := ftSlot s + 64, cells := ceilDiv (a * 64) 256 }] })
      { s with nextId := s.nextId + 1 })) := by
  have hserves : ¬((!(portIs s p 1 0 && portUp s p)) = true ∨ (port s p).withheld = true ∨ (!streamRoom s p) = true ∨ s.pwr.pstate ≠ 0) := by
    simp [hp, hup, hw, hr, hrun]
  have hfits : ¬(sumOf ((port s p).grantsOut.map (·.left)) + a * 64 > (portRec s p).windowKib * 1024 ∨ ceilDiv (a * 64) 256 > shrFree s ∨ a * 64 = 0) := by
    omega
  rw [grantIssue, if_neg hserves]
  exact if_neg hfits

/-- Settles O32: each command is one of the functions above, under its condition; the lapse of a grant has none. -/
theorem scheduledPlane : Obligations.ScheduledPlane := by
  unfold Obligations.ScheduledPlane
  refine ⟨fun s => ⟨fun hon => ⟨makesT_schedActivate hon, makesT_ppsOutRise hon, makesT_ppsOutFall hon⟩,
      fun h => ⟨?tos, fun hp n => ⟨?near, ?far⟩, fun i w hw hs => makesE_schedWindowOpen h hw hs⟩⟩,
    fun s h => ⟨?swap, ?early, ?stopping, ?read, ?grant, fun g => makesE_of_runE h rfl rfl⟩⟩
  case tos => exact fun p hup hb htx ht hi hf => makesE_of_runE h rfl (tosSend_of_free hup hb htx ht hi hf)
  case near => exact fun hn => makesE_byPaste h hp rfl (schedArm_of_near hn)
  case far => exact fun hn => makesE_byPaste h hp rfl (schedArm_of_far hn)
  case swap => exact fun ha ht => makesE_of_runE h rfl (bankSwap_of_reached ha ht)
  case early => exact fun he => makesE_of_runE h rfl (bankSwap_of_early he)
  case stopping => exact fun i x hx hstop => makesE_of_runE h rfl (unitRead_of_stopping hx hstop)
  case read =>
    exact fun i x e hx hstop he hslot hstart hlast hleft hcells hroom =>
      makesE_of_runE h rfl (unitRead_of_slot hx hstop he hslot hstart hlast hleft hcells hroom)
  case grant =>
    exact fun p a l hport hup hw hr hrun ha hwin hshr => makesE_of_runE h rfl (grantIssue_of_room hport hup hw hr hrun ha hwin hshr)

end Sys2Proof.Machine
end

section
/-! PROOFS. Operation flits (O33 to O35, O37): how an op runs between two waits, the allocation and the release of scratch, the bytes of a handle, and the
acceptance of a flit. -/

namespace Sys2Proof.Machine

/-! ## Ops from wait to wait (R215, R219) -/

theorem flitAt_part_slot {s : State} {part slot : Nat} {f : Flit} (hf : flitAt s part slot = some f) : f.part = part ∧ f.slot = slot := by
  simpa using List.find?_some hf

theorem flitAt_setFlit {s : State} {part slot : Nat} {f : Flit} (hf : flitAt s part slot = some f) {g : Flit → Flit}
    (hg : ∀ x, (g x).part = x.part ∧ (g x).slot = x.slot) : flitAt (setFlit part slot g s) part slot = some (g f) := by
  have hm := find?_modFirst (p := fun x : Flit => decide (x.part = part ∧ x.slot = slot)) (f := g) (fun x hx => by simpa [hg] using hx) s.eng.flits
  exact hm.trans (congrArg (Option.map g) hf)

/-- The 37 commands differ in engine, op and transition only. -/
theorem exec_of_opOf {c : Instr} {e op part slot : Nat} {step : Flit → State → State} (hc : opOf c = some (e, op, step, part, slot)) (s : State) :
    exec c s = runE (runOp e op step part slot) s := by
  unfold opOf at hc
  split at hc
  all_goals cases hc
  all_goals rfl

/-- The plane once the op of a slot has begun. -/
def opBegun (part slot : Nat) (s : State) : State := setFlit part slot (fun f => { f with begun := true }) s

theorem runOp_of_runs {s : State} {e op part slot : Nat} {f : Flit} (hr : Runs s e op part slot f) (step : Flit → State → State) :
    runOp e op step part slot s = opLoop step part slot opFuel (opBegun part slot s) := by
  obtain ⟨hf, he, hop, hw, hp, hfin, hg⟩ := hr
  simp only [runOp, hf]
  exact if_pos (by simp [he, hop, hw, hp, hfin, hg])

/-- Settles O33: each of the commands is `runOp` of its op, which begins or goes on for a flit that runs. -/
theorem opsRunFromWaitToWait : Obligations.OpsRunFromWaitToWait := by
  unfold Obligations.OpsRunFromWaitToWait
  exact fun s c e op part slot step f h hc hr => makesE_of_runE h (exec_of_opOf hc s) (runOp_of_runs hr step)

/-! ## An op that ends at its first transition -/

section Loop
variable {s : State} {part slot : Nat} {f : Flit} (hf : flitAt s part slot = some f)
include hf

theorem opFailed_of_none (hfail : f.failed = none) : opFailed part slot s = s := by
  simp only [opFailed, hf, hfail]

/-- A flit that has ended takes no more transitions, whether or not an access of it failed. -/
theorem opLoop_of_ended {e : FlitEnd} (hfin : f.fin = some e) (step : Flit → State → State) (n : Nat) : opLoop step part slot n s = s := by
  have hfailed : opFailed part slot s = s := by
    simp only [opFailed, hf, hfin]
    split <;> rfl
  have hidle : opIdle f = false := by simp [opIdle, hfin]
  cases n with
  | zero => rfl
  | succ n => simp [opLoop, hfailed, hf, hidle]

theorem opLoop_of_ends {step : Flit → State → State} {g : Flit} {e : FlitEnd} (hfail : f.failed = none) (hidle : opIdle f = true)
    (hg : flitAt (step f s) part slot = some g) (hfin : g.fin = some e) (n : Nat) : opLoop step part slot (n + 1) s = step f s := by
  simp only [opLoop, opFailed_of_none hf hfail, hf, hidle, if_true, hg, opLoop_of_ended hg hfin, ite_self]

theorem flitAt_endFlit (hfin : f.fin = none) (e : FlitEnd) :
    flitAt (endFlit part slot e s) part slot = some { f with fin := some e, todo := [], pol := 0 } := by
  have hend := flitAt_setFlit hf (g := fun x => if x.fin.isSome then x else { x with fin := some e, todo := [], pol := 0 }) (fun x => by
    split <;> exact ⟨rfl, rfl⟩)
  exact hend.trans (by simp [hfin])

end Loop

/-- An op whose first transition ends its flit runs that transition only; `u` is what the transition made of the plane before the end. -/
theorem makesE_of_ends {s u : State} {c : Instr} {e op part slot : Nat} {step : Flit → State → State} {f : Flit} {x : FlitEnd} (h : live s = true)
    (hc : opOf c = some (e, op, step, part, slot)) (hr : Runs s e op part slot f) (ht : f.todo = []) (ho : f.out = []) (hfail : f.failed = none)
    (hstep : step { f with begun := true } (opBegun part slot s) = endFlit part slot x u)
    (hu : u.eng.flits = (opBegun part slot s).eng.flits) :
    MakesE c s (endFlit part slot x u) ∧ (flitAt (endFlit part slot x u) part slot).bind (·.fin) = some x := by
  have hrun := runOp_of_runs hr step
  obtain ⟨hf, -, -, hw, -, hfin, -⟩ := hr
  have hbegun : flitAt (opBegun part slot s) part slot = some { f with begun := true } := flitAt_setFlit hf fun _ => ⟨rfl, rfl⟩
  have hat : flitAt u part slot = some { f with begun := true } := by rw [flitAt, hu]; exact hbegun
  have hend := flitAt_endFlit hat hfin x
  have hidle : opIdle { f with begun := true } = true := by simp [opIdle, hw, hfin, ht, ho]
  refine ⟨makesE_of_runE h (exec_of_opOf hc s) (hrun.trans ?_), by rw [hend]; rfl⟩
  rw [← hstep] at hend ⊢
  exact opLoop_of_ends hbegun hfail hidle hend rfl (2 ^ 20 - 1)

/-! ## Scratch (R226, Table 7.5) -/

theorem any_modFirst {α : Type} {p q : α → Bool} {g : α → α} (hg : ∀ x, q (g x) = q x) (l : List α) : (modFirst p g l).any q = l.any q := by
  induction l with
  | nil => rfl
  | cons x l ih =>
    unfold modFirst
    split <;> simp [hg, ih]

theorem map_filter_modFirst {α β : Type} {p q : α → Bool} {g : α → α} {k : α → β} (hq : ∀ x, q (g x) = q x) (hk : ∀ x, k (g x) = k x)
    (l : List α) :
    ((modFirst p g l).filter q).map k = (l.filter q).map k := by
  induction l with
  | nil => rfl
  | cons x l ih =>
    unfold modFirst
    cases hx : q x <;> split <;> simp [hq, hk, hx, ih]

theorem aget_adel_self {κ α : Type} [DecidableEq κ] (m : List (κ × α)) (k : κ) : aget (adel m k) k = none := by
  induction m with
  | nil => rfl
  | cons e m ih =>
    rw [adel, List.filter_cons]
    split
    · next hne => rw [aget, if_neg (by simpa using hne)]; exact ih
    · exact ih

theorem any_flits_opBegun {q : Flit → Bool} (hq : ∀ x : Flit, q { x with begun := true } = q x) (s : State) (part slot : Nat) :
    (opBegun part slot s).eng.flits.any q = s.eng.flits.any q := any_modFirst hq s.eng.flits

theorem granOk_opBegun (s : State) (part slot p n : Nat) : granOk (opBegun part slot s) p n = granOk s p n := by
  have hheld : granHeld (opBegun part slot s) p = granHeld s p :=
    congrArg (fun l => sumOf ((s.eng.handles.filter fun h => h.1.1 = p).map fun h => h.2.granules) + sumOf l)
      (map_filter_modFirst (g := fun f : Flit => { f with begun := true }) (fun _ => rfl) (fun _ => rfl) s.eng.flits)
  rw [granOk, hheld]
  rfl

/-- The plane with a handle of `n` granules of the partition. -/
def scrTaken (part h n : Nat) (s : State) : State :=
  granTake n { s with eng := { s.eng with handles := aset s.eng.handles (part, h) { granules := n } } }

theorem stepScrAlloc_of_room {s : State} {f : Flit} {i : Nat} (h1 : 1 ≤ fw f.word 0x18 0 32) (h2 : fw f.word 0x18 0 32 ≤ 2560)
    (hi : ((List.range 65535).find? fun i => (handleAt s f.part (i + 1)).isNone) = some i)
    (hn : (s.eng.handles.filter fun h => h.1.1 = f.part).length < 256) (hg : granOk s f.part (fw f.word 0x18 0 32) = true) :
    stepScrAlloc f s = endFlit f.part f.slot { status := .ok, lo := i + 1 } (scrTaken f.part (i + 1) (fw f.word 0x18 0 32) s) := by
  have hsize : ¬(fw f.word 0x18 0 32 = 0 ∨ fw f.word 0x18 0 32 > 2560) := by omega
  simp only [stepScrAlloc, if_neg hsize, hi]
  exact if_pos ⟨hn, hg⟩

/-- The plane without the handle, whose granules wait to be zeroed. -/
def scrReleased (part h n : Nat) (s : State) : State :=
  granFree n { s with eng := { s.eng with handles := adel s.eng.handles (part, h) } }

theorem stepScrFree_of_unused {s : State} {f : Flit} {x : Handle} (hx : handleAt s f.part (fw f.word 0x18 0 32) = some x) (hb : handleBound x = false)
    (hn : (s.eng.flits.any fun g => g.part == f.part && g.slot != f.slot && decide (fw f.word 0x18 0 32 ∈ flitNames g)) = false) :
    stepScrFree f s = endFlit f.part f.slot { status := .ok } (scrReleased f.part (fw f.word 0x18 0 32) x.granules s) := by
  simp only [stepScrFree, hx]
  exact if_neg (by rw [hb, hn]; decide)

/-- Settles O34: either op ends at its first transition, which takes or releases the handle. -/
theorem scratchIsAllocatedAndFreed : Obligations.ScratchIsAllocatedAndFreed := by
  unfold Obligations.ScratchIsAllocatedAndFreed
  refine fun s part slot f h ht ho hfail => ⟨fun i hr h1 h2 hi hn hg => ?alloc, fun x hr hx hb hn => ?free⟩
  case alloc =>
    obtain ⟨rfl, rfl⟩ := flitAt_part_slot hr.1
    have hop : opOf (.scrAlloc f.part f.slot) = some (6, 1, stepScrAlloc, f.part, f.slot) := rfl
    have hstep := stepScrAlloc_of_room (s := opBegun f.part f.slot s) (f := { f with begun := true }) h1 h2 hi hn ((granOk_opBegun ..).trans hg)
    obtain ⟨hmakes, hend⟩ := makesE_of_ends h hop hr ht ho hfail hstep rfl
    exact ⟨_, hmakes, aget_aset_self _ _ _, rfl, hend⟩
  case free =>
    obtain ⟨rfl, rfl⟩ := flitAt_part_slot hr.1
    have hnames := (any_flits_opBegun (fun _ => rfl) s f.part f.slot).trans hn
    have hop : opOf (.scrFree f.part f.slot) = some (6, 2, stepScrFree, f.part, f.slot) := rfl
    have hstep := stepScrFree_of_unused (s := opBegun f.part f.slot s) (f := { f with begun := true }) hx hb hnames
    obtain ⟨hmakes, hend⟩ := makesE_of_ends h hop hr ht ho hfail hstep rfl
    exact ⟨_, hmakes, aget_adel_self _ _, rfl, hend⟩

/-! ## Bytes of resident scratch (R226) -/

theorem cellGet_of_le {lo a : Nat} {m : List Host.Cell} (hm : cellsAbove lo m = true) (ha : a ≤ lo) : cellGet m a = 0 := by
  induction m generalizing lo with
  | nil => rfl
  | cons x t ih =>
    obtain ⟨b, w⟩ := x
    simp only [cellsAbove, Bool.and_eq_true, decide_eq_true_eq] at hm
    obtain ⟨⟨hlo, -⟩, ht⟩ := hm
    rw [cellGet, if_neg (by omega)]
    exact ih ht (by omega)

theorem cellGet_cellPut_of_above {lo : Nat} {m : List Host.Cell} (hm : cellsAbove lo m = true) (a x : Nat) (v : Byte) :
    cellGet (cellPut m a v) x = if x = a then v else cellGet m x := by
  split
  · next h => rw [h, cellGet_cellPut_self m lo a v hm]
  · next h => exact cellGet_cellPut_other m a x v h lo hm

/-- The same where the memory lists a byte at address 0, which no bound lies below. -/
theorem cellGet_cellPut {m : List Host.Cell} (hm : Memory.wf m = true) (a x : Nat) (v : Byte) :
    cellGet (cellPut m a v) x = if x = a then v else cellGet m x := by
  match m with
  | [] => exact cellGet_cellPut_of_above (lo := 0) rfl a x v
  | (0, w) :: t =>
    have ht : cellsAbove 0 t = true := (Bool.and_eq_true_iff.mp hm).2
    have hzero := cellGet_of_le ht (Nat.le_refl 0)
    cases a with
    | zero =>
      rcases Nat.eq_zero_or_pos x with rfl | hx
      · by_cases hv : v = 0#8 <;> simp [cellPut, cellGet, hv, hzero]
      · by_cases hv : v = 0#8 <;> simp [cellPut, cellGet, hv, Nat.ne_of_gt hx, Nat.ne_of_lt hx]
    | succ a =>
      rcases Nat.eq_zero_or_pos x with rfl | hx
      · simp [cellPut, cellGet]
      · simp [cellPut, cellGet, cellGet_cellPut_of_above ht, Nat.ne_of_lt hx]
  | (b + 1, w) :: t =>
    refine cellGet_cellPut_of_above (lo := 0) ?_ a x v
    simpa [cellsAbove, Memory.wf] using hm

theorem cellGet_cellWrite_outside {d : Bytes} {m : List Host.Cell} {a x : Nat} (hm : Memory.wf m = true) (hx : x < a ∨ a + d.length ≤ x) :
    cellGet (cellWrite m a d) x = cellGet m x := by
  induction d generalizing m a with
  | nil => rfl
  | cons b d ih =>
    rw [List.length_cons] at hx
    rw [cellWrite, ih (wf_cellPut m a b hm) (by omega), cellGet_cellPut hm, if_neg (by omega)]

theorem cellGet_cellWrite_inside {d : Bytes} {m : List Host.Cell} {a i : Nat} (hm : Memory.wf m = true) (hi : i < d.length) :
    cellGet (cellWrite m a d) (a + i) = d[i] := by
  induction d generalizing m a i with
  | nil => cases hi
  | cons b d ih =>
    have hput := wf_cellPut m a b hm
    rw [cellWrite]
    cases i with
    | zero => rw [cellGet_cellWrite_outside hput (by omega), cellGet_cellPut hm]; exact if_pos rfl
    | succ i => rw [show a + (i + 1) = a + 1 + i by omega]; exact ih hput (Nat.lt_of_succ_lt_succ hi)

/-- A byte of the area written reads from the memory, stated from now on. -/
theorem handleByte_handleWrite_inside {h : Handle} {a b : Nat} {d : Bytes} (hb : a ≤ b ∧ b < a + d.length) :
    handleByte (handleWrite h a d) b = cellGet (cellWrite h.mem a d) b := by
  cases hj : h.junk <;> simp [handleByte, handleWrite, hj, hb]

/-- A byte outside it reads from the memory if it was stated before, and is free as before if it was not. -/
theorem handleByte_handleWrite_outside {h : Handle} {a b : Nat} {d : Bytes} (hm : Memory.wf h.mem = true) (hb : b < a ∨ a + d.length ≤ b) :
    handleByte (handleWrite h a d) b = handleByte h b := by
  have hout : ¬(a ≤ b ∧ b < a + d.length) := by omega
  have hget := cellGet_cellWrite_outside (d := d) hm hb
  cases hj : h.junk with
  | none => simp [handleByte, handleWrite, hj, hget]
  | some i => simp only [handleByte, handleWrite, hj, hget, hout, Option.isSome_some, if_true, List.any_cons, decide_false, Bool.false_or]

/-- Settles O35: the two lemmas above, and the canonical form by `wf_cellWrite`. -/
theorem scratchReadsWhatWasWritten : Obligations.ScratchReadsWhatWasWritten := by
  unfold Obligations.ScratchReadsWhatWasWritten
  refine fun h a d hm => ⟨wf_cellWrite d h.mem a hm, fun i hi => ?_, fun b hb => handleByte_handleWrite_outside hm hb⟩
  rw [handleByte_handleWrite_inside (by omega)]
  exact cellGet_cellWrite_inside hm hi

/-! ## Acceptance (R217, R228, Table 7.4) -/

/-- A record address that fails A5 has a status that is not OK. -/
theorem checkEng_error_ne_ok (s : State) (part addr len : Nat) (key : Word32) (need : Rights → Bool) (other : Bool) :
    checkEng s part addr len key need ≠ .error (.ok, other) := by
  unfold checkEng
  split
  · nofun
  · dsimp only
    repeat' split
    all_goals nofun

/-- The same of A1 to A5. -/
theorem check15_ne_ok (s : State) (part slot : Nat) (w : BitVec 512) : check15 s part slot w ≠ some .ok := by
  unfold check15
  repeat' split
  case h_1 e he =>
    obtain ⟨st, other⟩ := e
    rintro ⟨⟩
    exact checkEng_error_ne_ok _ _ _ _ _ _ _ he
  all_goals nofun

/-- A flit that passes A1 to A5 finds its slot not RUNNING (A3). -/
theorem line_free_of_check15 {s : State} {part slot : Nat} {w : BitVec 512} (h : check15 s part slot w = none) : (lineAt s part slot).state ≠ 1 := by
  intro hrun
  simp only [check15, hrun, true_or, if_true] at h
  split_ifs at h

/-- A refusal changes the status line and the counters only. -/
theorem refuseFlit_eq (part slot : Nat) (w : BitVec 512) (st : Status) (c : GCtr) (s : State) : ∃ l, refuseFlit part slot w st c s = { s with
    gctr := l, eng := { s.eng with lines := amod s.eng.lines (part, slot) {} fun l => { l with refuseStatus := st, refuseCookie := fCookie w } } } :=
  bumpG_eq c 1 _

/-- The flit as it joins the running ones. -/
def takenFlit (id rid port part slot : Nat) (w : BitVec 512) (ctxs : List CtxHold) (gran : Nat) (fin : Option FlitEnd) (s : State) : Flit := {
  part := part, slot := slot, rid := rid, port := port, word := w, accAt := s.now, order := s.eng.order, waiting := fenceWaits s rid w
  ctxs := ctxs, granules := gran, fin := fin, regs := startRegs s part w, startAt := s.now, startId := s.nextId
  prov := decide (fEngine w = 3 ∧ fOp w = 3), answer := if fin.isNone && answerLater w then some id else none }

theorem takenFlit_answer (id rid port part slot : Nat) (w : BitVec 512) (ctxs : List CtxHold) (gran : Nat) (fin : Option FlitEnd) (s : State) :
    (takenFlit id rid port part slot w ctxs gran fin s).answer = if fin.isNone && answerLater w then some id else none := rfl

/-- The status line of a slot that is RUNNING. -/
def takenLine (w : BitVec 512) (l : SlotLine) : SlotLine :=
  { l with state := 1, record := 0, result16 := 0, cmplLost := false, cookie := fCookie w, seq := (l.seq + 1) % 65536 }

theorem lineTaken_eq (part slot : Nat) (w : BitVec 512) (s : State) : ∃ l, lineTaken part slot w s = { s with
    gctr := l, eng := { s.eng with lines := amod s.eng.lines (part, slot) {} (takenLine w) } } := bumpG_eq .opfAccept 1 _

theorem dropAtAccept_eq (part slot ord : Nat) (w : BitVec 512) (s : State) :
    ∃ l, dropAtAccept part slot ord w s = { s with eng := { s.eng with colls := l } } := by
  unfold dropAtAccept
  repeat' split
  all_goals exact ⟨_, rfl⟩

/-- An acceptance that is answered at once takes the status line too; one that is answered later leaves it. -/
theorem takeFlit_eq (id rid port part slot : Nat) (w : BitVec 512) (ctxs : List CtxHold) (gran : Nat) (fin : Option FlitEnd) (s : State) :
    let f := takenFlit id rid port part slot w ctxs gran fin s
    ∃ gs cs, takeFlit id rid port part slot w ctxs gran fin s = { s with
      gctr := gs
      eng := { s.eng with
        lines := if f.answer.isSome then s.eng.lines else amod s.eng.lines (part, slot) {} (takenLine w)
        flits := s.eng.flits ++ [f], order := s.eng.order + 1, scrFree := s.eng.scrFree - gran, colls := cs } } := by
  intro f
  obtain ⟨gs, hl⟩ := lineTaken_eq part slot w s
  have htake : takeFlit id rid port part slot w ctxs gran fin s =
      let u := if f.answer.isSome then s else lineTaken part slot w s
      dropAtAccept part slot u.eng.order w (granTake gran { u with eng := { u.eng with flits := u.eng.flits ++ [f], order := u.eng.order + 1 } }) := rfl
  rw [htake]
  cases f.answer with
  | some a =>
    obtain ⟨cs, hd⟩ := dropAtAccept_eq part slot s.eng.order w
      (granTake gran { s with eng := { s.eng with flits := s.eng.flits ++ [f], order := s.eng.order + 1 } })
    exact ⟨s.gctr, cs, hd⟩
  | none =>
    simp only [Option.isSome_none, Bool.false_eq_true, if_false, hl]
    obtain ⟨cs, hd⟩ := dropAtAccept_eq part slot s.eng.order w (granTake gran { s with
      gctr := gs
      eng := { s.eng with
        lines := amod s.eng.lines (part, slot) {} (takenLine w), flits := s.eng.flits ++ [f], order := s.eng.order + 1 } })
    exact ⟨gs, cs, hd⟩

/-- What an OP_FLIT that passed the checks of R212 can come to: refused with a status that is not OK, or accepted. -/
theorem acceptFlit_cases {id rid port part slot : Nat} {w : BitVec 512} {s t : State} {st : Status}
    (h : acceptFlit id rid port part slot w s = (st, t)) :
    (st ≠ .ok ∧ ∃ c, t = refuseFlit part slot w st c s) ∨
    (st = .ok ∧ (lineAt s part slot).state ≠ 1 ∧ ∃ ctxs gran fin, t = takeFlit id rid port part slot w ctxs gran fin s) := by
  unfold acceptFlit at h
  split at h
  case h_1 hc =>
    cases h
    exact .inl ⟨fun hok => check15_ne_ok s part slot w (hok ▸ hc), _, rfl⟩
  case h_2 hc =>
    have hline := line_free_of_check15 hc
    dsimp only at h
    repeat' split at h
    all_goals cases h
    · exact .inr ⟨rfl, hline, _, _, _, rfl⟩
    · exact .inl ⟨by decide, _, rfl⟩
    · exact .inr ⟨rfl, hline, _, _, _, rfl⟩
    · exact .inl ⟨by decide, _, rfl⟩

/-- Settles O37: the two outcomes of `acceptFlit_cases`, by what a refusal and an acceptance write. -/
theorem acceptanceOfAnOpFlit : Obligations.AcceptanceOfAnOpFlit := by
  unfold Obligations.AcceptanceOfAnOpFlit
  intro s t id rid port part slot w st h
  rcases acceptFlit_cases h with ⟨hne, c, rfl⟩ | ⟨rfl, hline, ctxs, gran, fin, rfl⟩
  · refine ⟨fun _ => ?_, fun hok => absurd hok hne⟩
    obtain ⟨gs, hrefuse⟩ := refuseFlit_eq part slot w st c s
    rw [hrefuse]
    exact ⟨rfl, rfl, rfl, rfl, rfl, rfl, rfl, by simp only [lineAt, agetD_amod_self]⟩
  · refine ⟨fun hne => absurd rfl hne, fun _ => ⟨takenFlit id rid port part slot w ctxs gran fin s, ?_⟩⟩
    obtain ⟨gs, cs, htake⟩ := takeFlit_eq id rid port part slot w ctxs gran fin s
    rw [htake]
    refine ⟨rfl, rfl, rfl, rfl, rfl, rfl, rfl, rfl, hline, rfl, fun hlater => ?notLater, fun a ha => ⟨?ident, ?lineKept⟩, fun ha => ?lineTaken⟩
    case notLater => rw [takenFlit_answer, hlater, Bool.and_false]; rfl
    case ident =>
      rw [takenFlit_answer] at ha
      split at ha
      · exact (Option.some.inj ha).symm
      · cases ha
    case lineKept => simp only [lineAt, ha, Option.isSome_some, if_true]
    case lineTaken =>
      simp only [lineAt, ha, Option.isSome_none, Bool.false_eq_true, if_false, agetD_amod_self]
      exact ⟨rfl, rfl, rfl, rfl⟩

end Sys2Proof.Machine
end

section
/-! PROOFS. Lane results (O38): the order of values, and what SUM, MAX and MIN of a lane are, said of the operands without their order. -/

namespace Sys2Proof.Machine

/-! ## The order of values (R250)

`Val.lt` and `Val.eqv` compare two finite values in units of the smaller exponent; both follow one linear order, which `Val.size` names. -/

/-- The number a finite value stands for. -/
def Val.value : Val → ℚ
  | .fin s n e => (if s then -(n : ℚ) else n) * 2 ^ e
  | _ => 0

/-- Where a value stands: -∞, the numbers, +∞, NaN (R255); -0 and +0 stand at one place. -/
def Val.size : Val → ℤ ×ₗ ℚ
  | .inf true => toLex (-1, 0)
  | .fin s n e => toLex (0, (Val.fin s n e).value)
  | .inf false => toLex (1, 0)
  | .nan => toLex (2, 0)

/-- Where MAX and MIN place a value: by size, -0 below +0. -/
def Val.rank (v : Val) : (ℤ ×ₗ ℚ) ×ₗ Bool := toLex (v.size, !v.neg?)

theorem scaledInt_mul_zpow {e u : ℤ} (h : u ≤ e) (s : Bool) (n : Nat) : (scaledInt s n e u : ℚ) * 2 ^ u = (Val.fin s n e).value := by
  have hpow : (2 : ℚ) ^ e = 2 ^ (e - u).toNat * 2 ^ u := by
    rw [← zpow_natCast, Int.toNat_of_nonneg (by omega), ← zpow_add₀ two_ne_zero, sub_add_cancel]
  cases s <;> simp [scaledInt, Val.value, hpow, mul_assoc]

theorem scaledInt_lt_iff {e f : ℤ} (s t : Bool) (n m : Nat) :
    scaledInt s n e (min e f) < scaledInt t m f (min e f) ↔ (Val.fin s n e).value < (Val.fin t m f).value := by
  rw [← scaledInt_mul_zpow (min_le_left e f), ← scaledInt_mul_zpow (min_le_right e f), mul_lt_mul_iff_left₀ (by positivity), Int.cast_lt]

theorem scaledInt_eq_iff {e f : ℤ} (s t : Bool) (n m : Nat) :
    scaledInt s n e (min e f) = scaledInt t m f (min e f) ↔ (Val.fin s n e).value = (Val.fin t m f).value := by
  rw [← scaledInt_mul_zpow (min_le_left e f), ← scaledInt_mul_zpow (min_le_right e f), mul_left_inj' (by positivity), Int.cast_inj]

theorem scaledInt_eq_zero_iff {e u : ℤ} (s : Bool) (n : Nat) : scaledInt s n e u = 0 ↔ n = 0 := by
  cases s <;> simp [scaledInt]

theorem Val.value_eq_zero_iff (s : Bool) (n : Nat) (e : ℤ) : (Val.fin s n e).value = 0 ↔ n = 0 := by
  cases s <;> simp [Val.value, zpow_ne_zero]

/-- The sign of a number that is not zero is that of its value. -/
theorem Val.value_neg_iff {s : Bool} {n : Nat} {e : ℤ} (hn : n ≠ 0) : (Val.fin s n e).value < 0 ↔ s = true := by
  have hpos : (0 : ℚ) < n * 2 ^ e := by positivity
  cases s
  · simpa [Val.value] using hpos.le
  · simpa [Val.value] using hpos

theorem Val.sign_eq_of_value_eq {s t : Bool} {n m : Nat} {e f : ℤ} (hv : (Val.fin s n e).value = (Val.fin t m f).value)
    (h0 : ¬ (n = 0 ∧ m = 0)) : s = t := by
  have hnm : n = 0 ↔ m = 0 := by rw [← Val.value_eq_zero_iff s n e, hv, Val.value_eq_zero_iff]
  have hn : n ≠ 0 := fun hn => h0 ⟨hn, hnm.1 hn⟩
  rw [Bool.eq_iff_iff, ← Val.value_neg_iff hn (e := e), hv, Val.value_neg_iff (mt hnm.2 hn)]

theorem Val.eqv_iff {a b : Val} (ha : a.isNan = false) (hb : b.isNan = false) : a.eqv b = true ↔ a.size = b.size := by
  match a, b with
  | .inf true, .inf t | .inf false, .inf t => cases t <;> decide
  | .inf true, .fin .. | .inf false, .fin .. | .fin .., .inf true | .fin .., .inf false => simp [Val.eqv, Val.size]
  | .fin s n e, .fin t m f => simp [Val.eqv, Val.size, scaledInt_eq_iff]

theorem Val.lt_iff {a b : Val} (ha : a.isNan = false) (hb : b.isNan = false) : a.lt b = true ↔ a.rank < b.rank := by
  match a, b with
  | .inf true, .inf t | .inf false, .inf t => cases t <;> decide
  | .inf true, .fin .. | .inf false, .fin .. | .fin .., .inf true | .fin .., .inf false =>
    simp [Val.lt, Val.rank, Val.size, Prod.Lex.toLex_lt_toLex]
  | .fin s n e, .fin t m f =>
    simp only [Val.lt, Val.rank, Val.size, Val.neg?, Prod.Lex.toLex_lt_toLex, scaledInt_eq_zero_iff]
    split
    next h =>
      obtain ⟨rfl, rfl⟩ := h
      cases s <;> cases t <;> simp [Val.value]
    next h =>
      have hsign : ¬ ((Val.fin s n e).value = (Val.fin t m f).value ∧ (!s) < (!t)) := by
        rintro ⟨hv, hlt⟩
        exact absurd (Val.sign_eq_of_value_eq hv h ▸ hlt) (lt_irrefl _)
      simp [scaledInt_lt_iff, hsign]

theorem Val.lt_and_not_eqv_iff {a b : Val} (ha : a.isNan = false) (hb : b.isNan = false) :
    (a.lt b && !a.eqv b) = true ↔ a.size < b.size := by
  rw [Bool.and_eq_true, Bool.not_eq_true', ← Bool.not_eq_true, Val.lt_iff ha hb, Val.eqv_iff ha hb, Val.rank, Val.rank, Prod.Lex.toLex_lt_toLex]
  constructor
  · rintro ⟨h | h, hne⟩
    · exact h
    · exact absurd h.1 hne
  · exact fun h => ⟨.inl h, h.ne⟩

theorem Val.size_lt_nan {a : Val} (ha : a.isNan = false) : a.size < Val.nan.size := by
  match a with
  | .inf true | .inf false | .fin .. => simp [Val.size, Prod.Lex.toLex_lt_toLex]

theorem Val.eq_nan_iff (a : Val) : a.isNan = true ↔ a = .nan := by
  cases a <;> simp [Val.isNan]

theorem Val.size_le_nan (a : Val) : a.size ≤ Val.nan.size := by
  cases ha : a.isNan
  case false => exact (Val.size_lt_nan ha).le
  case true => rw [(Val.eq_nan_iff a).1 ha]

/-! ## One result of a lane, whatever the order (R242, R250) -/

/-- Two results of a lane are the same: both NaN, or equal with the same sign. -/
def Val.Same (a b : Val) : Prop := a.isNan = b.isNan ∧ (a.isNan = false → a.eqv b = true ∧ a.neg? = b.neg?)

/-- The value is -0. -/
def Val.isNegZero : Val → Bool
  | .fin s n _ => s && decide (n = 0)
  | _ => false

/-- R242: the result of a SUM by the lane's flags and accumulator, none of which knows the order of the operands `l`. -/
def IsLaneSum (l : List Val) : Val → Prop
  | .nan => .nan ∈ l ∨ ∀ s, .inf s ∈ l
  | .inf s => .nan ∉ l ∧ .inf s ∈ l ∧ .inf (!s) ∉ l
  | .fin s n e =>
    .nan ∉ l ∧ (∀ t, .inf t ∉ l) ∧ (Val.fin s n e).value = (l.map Val.value).sum ∧ (Val.fin s n e).isNegZero = l.all Val.isNegZero

theorem IsLaneSum.perm {l m : List Val} (h : l.Perm m) {v : Val} (hv : IsLaneSum l v) : IsLaneSum m v := by
  cases v <;> simpa only [IsLaneSum, h.mem_iff, (h.map Val.value).sum_eq, h.all_eq] using hv

theorem IsLaneSum.same {l : List Val} {a b : Val} (ha : IsLaneSum l a) (hb : IsLaneSum l b) : a.Same b := by
  match a, b with
  | .nan, .nan => exact ⟨rfl, by decide⟩
  | .inf s, .inf t =>
    obtain ⟨-, hs, -⟩ := ha
    obtain ⟨-, -, ht⟩ := hb
    obtain rfl : s = t := by_contra fun hst => ht (Bool.eq_not_of_ne hst ▸ hs)
    exact ⟨rfl, fun _ => ⟨beq_self_eq_true s, rfl⟩⟩
  | .fin s n e, .fin t m f =>
    obtain ⟨-, -, hvalue, hzero⟩ := ha
    obtain ⟨-, -, hvalue', hzero'⟩ := hb
    have hv := hvalue.trans hvalue'.symm
    refine ⟨rfl, fun _ => ⟨by simp [Val.eqv, scaledInt_eq_iff, hv], ?_⟩⟩
    by_cases h0 : n = 0 ∧ m = 0
    · simpa [Val.isNegZero, Val.neg?, h0] using hzero.trans hzero'.symm
    · exact Val.sign_eq_of_value_eq hv h0
  | .nan, .inf s =>
    obtain ⟨hnan, -, hinf⟩ := hb
    exact (ha.elim hnan fun h => hinf (h _)).elim
  | .inf s, .nan =>
    obtain ⟨hnan, -, hinf⟩ := ha
    exact (hb.elim hnan fun h => hinf (h _)).elim
  | .nan, .fin .. =>
    obtain ⟨hnan, hinf, -⟩ := hb
    exact (ha.elim hnan fun h => hinf true (h _)).elim
  | .fin .., .nan =>
    obtain ⟨hnan, hinf, -⟩ := ha
    exact (hb.elim hnan fun h => hinf true (h _)).elim
  | .inf s, .fin .. =>
    obtain ⟨-, hs, -⟩ := ha
    obtain ⟨-, hinf, -⟩ := hb
    exact absurd hs (hinf s)
  | .fin .., .inf s =>
    obtain ⟨-, hs, -⟩ := hb
    obtain ⟨-, hinf, -⟩ := ha
    exact absurd hs (hinf s)

theorem Val.value_fin_int (z : ℤ) (u : ℤ) : (Val.fin (decide (z < 0)) z.natAbs u).value = z * 2 ^ u := by
  have habs : (z.natAbs : ℚ) = |(z : ℚ)| := by simp
  rcases lt_or_ge z 0 with hz | hz
  · simp [Val.value, hz, habs, abs_of_neg (Int.cast_lt_zero.2 hz : (z : ℚ) < 0)]
  · simp [Val.value, hz.not_gt, habs, abs_of_nonneg (Int.cast_nonneg hz : (0 : ℚ) ≤ z)]

/-- The sum of two finite values is finite, exact, and -0 only if both are (R242). -/
theorem Val.add_fin (s t : Bool) (n m : Nat) (e f : ℤ) : ∃ q k g, (Val.fin s n e).add (.fin t m f) = .fin q k g ∧
    (Val.fin q k g).value = (Val.fin s n e).value + (Val.fin t m f).value ∧
    (Val.fin q k g).isNegZero = ((Val.fin s n e).isNegZero && (Val.fin t m f).isNegZero) := by
  have hz : (↑(scaledInt s n e (min e f) + scaledInt t m f (min e f)) : ℚ) * 2 ^ min e f = (Val.fin s n e).value + (Val.fin t m f).value := by
    rw [Int.cast_add, add_mul, scaledInt_mul_zpow (min_le_left e f), scaledInt_mul_zpow (min_le_right e f)]
  unfold Val.add
  dsimp only
  split
  next h0 =>
    refine ⟨_, _, _, rfl, ?_, ?_⟩
    · rw [← hz, h0]
      simp [Val.value]
    · simp [Val.isNegZero, Bool.and_assoc, Bool.and_left_comm]
  next h0 =>
    refine ⟨_, _, _, rfl, by rw [Val.value_fin_int, hz], ?_⟩
    have hne : ¬ (n = 0 ∧ m = 0) := by
      rintro ⟨rfl, rfl⟩
      simp [scaledInt] at h0
    simpa [Val.isNegZero, h0] using fun _ hn _ hm => hne ⟨hn, hm⟩

theorem isLaneSum_singleton (v : Val) : IsLaneSum [v] v := by
  cases v <;> simp [IsLaneSum]

/-- One more operand of a SUM. -/
theorem IsLaneSum.cons {l : List Val} {w : Val} (hw : IsLaneSum l w) (v : Val) : IsLaneSum (v :: l) (v.add w) := by
  match v, w with
  | .nan, w => exact .inl List.mem_cons_self
  | .inf s, .nan | .fin .., .nan => exact hw.imp (List.mem_cons_of_mem _) fun h t => List.mem_cons_of_mem _ (h t)
  | .inf s, .inf t =>
    obtain ⟨hnan, hinf, hnot⟩ := hw
    by_cases hst : s = t
    · subst hst
      simpa [Val.add, IsLaneSum] using ⟨hnan, hnot⟩
    · obtain rfl : t = !s := Bool.eq_not_of_ne (Ne.symm hst)
      cases s <;> simp_all [Val.add, IsLaneSum]
  | .inf s, .fin .. =>
    obtain ⟨hnan, hinf, -⟩ := hw
    simpa [Val.add, IsLaneSum, -Bool.forall_bool] using ⟨hnan, hinf _⟩
  | .fin .., .inf t => simpa [Val.add, IsLaneSum] using hw
  | .fin s n e, .fin t m f =>
    obtain ⟨hnan, hinf, hvalue, hzero⟩ := hw
    obtain ⟨q, k, g, hadd, hsum, hneg⟩ := Val.add_fin s t n m e f
    rw [hadd]
    exact ⟨by simp [hnan], by simp [hinf], by rw [hsum, hvalue, List.map_cons, List.sum_cons], by rw [hneg, hzero, List.all_cons]⟩

theorem sumVals_cons (v : Val) {t : List Val} (ht : t ≠ []) : sumVals (v :: t) = v.add (sumVals t) := sumVals.eq_3 v t ht

theorem isLaneSum_sumVals {l : List Val} (hl : l ≠ []) : IsLaneSum l (sumVals l) := by
  induction l, hl using List.recNeNil with
  | singleton v => exact isLaneSum_singleton v
  | cons v t ht ih =>
    rw [sumVals_cons v ht]
    exact ih.cons v

/-- `a` is a choice of MAX (of MIN) over `b`: it is not below (above) it. -/
def Val.AtLeast (mx : Bool) (a b : Val) : Prop := if mx then b.rank ≤ a.rank else a.rank ≤ b.rank

@[simp] theorem Val.atLeast_max {a b : Val} : a.AtLeast true b ↔ b.rank ≤ a.rank := Iff.rfl

@[simp] theorem Val.atLeast_min {a b : Val} : a.AtLeast false b ↔ a.rank ≤ b.rank := Iff.rfl

theorem Val.AtLeast.refl (mx : Bool) (a : Val) : a.AtLeast mx a := by
  cases mx <;> simp

theorem Val.AtLeast.trans {mx : Bool} {a b c : Val} (hab : a.AtLeast mx b) (hbc : b.AtLeast mx c) : a.AtLeast mx c := by
  cases mx <;> simp only [Val.atLeast_max, Val.atLeast_min] at *
  exacts [hab.trans hbc, hbc.trans hab]

theorem Val.AtLeast.antisymm {mx : Bool} {a b : Val} (hab : a.AtLeast mx b) (hba : b.AtLeast mx a) : a.rank = b.rank := by
  cases mx <;> simp only [Val.atLeast_max, Val.atLeast_min] at *
  exacts [hab.antisymm hba, hba.antisymm hab]

/-- R250: the result of a MAX or a MIN is NaN with a NaN operand; else it is an operand that stands before all of them. -/
def IsLanePick (mx : Bool) (l : List Val) (v : Val) : Prop :=
  (v.isNan = true ↔ .nan ∈ l) ∧ (v.isNan = false → v ∈ l ∧ ∀ x ∈ l, v.AtLeast mx x)

theorem IsLanePick.perm {mx : Bool} {l m : List Val} (h : l.Perm m) {v : Val} (hv : IsLanePick mx l v) : IsLanePick mx m v := by
  simpa only [IsLanePick, h.mem_iff] using hv

theorem Val.same_of_rank_eq {a b : Val} (ha : a.isNan = false) (hb : b.isNan = false) (h : a.rank = b.rank) : a.Same b := by
  obtain ⟨hsize, hsign⟩ := Prod.mk.inj (toLex.injective h)
  exact ⟨ha.trans hb.symm, fun _ => ⟨(Val.eqv_iff ha hb).2 hsize, Bool.not_inj hsign⟩⟩

theorem IsLanePick.same {mx : Bool} {l : List Val} {a b : Val} (ha : IsLanePick mx l a) (hb : IsLanePick mx l b) : a.Same b := by
  obtain ⟨hnan, hbest⟩ := ha
  obtain ⟨hnan', hbest'⟩ := hb
  have hiff : a.isNan = b.isNan := Bool.eq_iff_iff.2 (hnan.trans hnan'.symm)
  cases han : a.isNan
  case true => exact ⟨hiff, fun h => absurd (han.symm.trans h) (by decide)⟩
  case false =>
    have hbn := hiff.symm.trans han
    obtain ⟨hmem, hbest⟩ := hbest han
    obtain ⟨hmem', hbest'⟩ := hbest' hbn
    exact Val.same_of_rank_eq han hbn ((hbest b hmem').antisymm (hbest' a hmem))

/-- What MAX or MIN keeps of a number and the choice among the operands after it. -/
def Val.keep (mx : Bool) (v w : Val) : Val := if (if mx then v.lt w else w.lt v) then w else v

theorem pickVals_cons (mx : Bool) (v : Val) {t : List Val} (ht : t ≠ []) :
    pickVals mx (v :: t) = if v.isNan ∨ (pickVals mx t).isNan then .nan else v.keep mx (pickVals mx t) := pickVals.eq_3 mx v t ht

theorem Val.keep_eq_or (mx : Bool) (v w : Val) : v.keep mx w = v ∨ v.keep mx w = w :=
  (ite_eq_or_eq _ w v).symm

theorem Val.keep_atLeast {mx : Bool} {v w : Val} (hv : v.isNan = false) (hw : w.isNan = false) :
    (v.keep mx w).AtLeast mx v ∧ (v.keep mx w).AtLeast mx w := by
  cases mx <;> simp only [Val.keep, Bool.false_eq_true, if_false, if_true, Val.lt_iff hv hw, Val.lt_iff hw hv] <;> split
  case false.isTrue h | true.isTrue h => simpa using h.le
  case false.isFalse h | true.isFalse h => simpa using h

theorem isLanePick_singleton (mx : Bool) (v : Val) : IsLanePick mx [v] v := by
  refine ⟨by simp [Val.eq_nan_iff, eq_comm (a := Val.nan)], fun _ => ⟨List.mem_singleton_self v, fun x hx => ?_⟩⟩
  exact List.mem_singleton.1 hx ▸ .refl mx v

/-- One more operand of a MAX or a MIN. -/
theorem IsLanePick.cons {mx : Bool} {l : List Val} {w : Val} (h : IsLanePick mx l w) (v : Val) :
    IsLanePick mx (v :: l) (if v.isNan ∨ w.isNan then .nan else v.keep mx w) := by
  obtain ⟨hnan, hbest⟩ := h
  split
  next hor =>
    have hmem : Val.nan ∈ v :: l := by simpa [← hnan, Val.eq_nan_iff, eq_comm (a := Val.nan)] using hor
    exact ⟨iff_of_true rfl hmem, fun h => absurd h (by decide)⟩
  next hor =>
    simp only [not_or, Bool.not_eq_true] at hor
    obtain ⟨hv, hw⟩ := hor
    obtain ⟨hw', hbest⟩ := hbest hw
    obtain ⟨hkv, hkw⟩ := Val.keep_atLeast (mx := mx) hv hw
    have hkeep : (v.keep mx w).isNan = false := by rcases v.keep_eq_or mx w with h | h <;> rw [h] <;> assumption
    have hno : Val.nan ∉ v :: l := by simp [← hnan, hw, eq_comm (a := Val.nan), ← Val.eq_nan_iff, hv]
    refine ⟨iff_of_false (by simp [hkeep]) hno, fun _ => ⟨?_, ?_⟩⟩
    · rcases v.keep_eq_or mx w with h | h <;> rw [h]
      · exact List.mem_cons_self
      · exact List.mem_cons_of_mem v hw'
    · exact List.forall_mem_cons.2 ⟨hkv, fun x hx => hkw.trans (hbest x hx)⟩

theorem isLanePick_pickVals {mx : Bool} {l : List Val} (hl : l ≠ []) : IsLanePick mx l (pickVals mx l) := by
  induction l, hl using List.recNeNil with
  | singleton v => exact isLanePick_singleton mx v
  | cons v t ht ih =>
    rw [pickVals_cons mx v ht]
    exact ih.cons v

/-- Settles O38: what `IsLaneSum` and `IsLanePick` say of a result does not know the order, and no two results that are not the same meet it. -/
theorem laneResultsIgnoreOrder : Obligations.LaneResultsIgnoreOrder := by
  intro l m hperm
  obtain rfl | hl := eq_or_ne l []
  · obtain rfl := hperm.nil_eq
    decide
  · have hm : m ≠ [] := fun h => hl (h ▸ hperm).eq_nil
    have hpick (mx : Bool) : (pickVals mx l).Same (pickVals mx m) :=
      ((isLanePick_pickVals hl).perm hperm).same (isLanePick_pickVals hm)
    exact ⟨((isLaneSum_sumVals hl).perm hperm).same (isLaneSum_sumVals hm), hpick true, hpick false⟩

end Sys2Proof.Machine
end

section
/-! PROOFS. TOPK (R255, R256; O39): the order of entries, and the merge as the first k entries of the sorted union. -/

namespace Sys2Proof.Machine

/-! ## The order of entries (R255) -/

/-- Where a key stands: an unsigned integer, or FP32 with -0 at +0 and NaN after +∞. -/
def keyRank (float : Bool) (key : Nat) : ℤ ×ₗ ℚ := if float then (fp32.decode key).size else toLex (0, key)

/-- Where an entry stands: the empty one last, then by key, then by id. -/
def topRank (float : Bool) (a : TopEnt) : Bool ×ₗ (ℤ ×ₗ ℚ) ×ₗ Nat := toLex (decide (a = .empty), toLex (keyRank float a.key, a.id))

theorem keyLt_iff (float : Bool) (a b : Nat) : keyLt float a b = true ↔ keyRank float a < keyRank float b := by
  cases float
  case false => simp [keyLt, keyRank, Prod.Lex.toLex_lt_toLex]
  case true =>
    simp only [keyLt, keyRank, if_true]
    split
    next ha =>
      rw [(Val.eq_nan_iff _).1 ha]
      exact iff_of_false Bool.false_ne_true (Val.size_le_nan _).not_gt
    next ha =>
      have ha := Bool.eq_false_of_not_eq_true ha
      split
      next hb =>
        rw [(Val.eq_nan_iff _).1 hb]
        exact iff_of_true rfl (Val.size_lt_nan ha)
      next hb => exact Val.lt_and_not_eqv_iff ha (Bool.eq_false_of_not_eq_true hb)

theorem topLt_iff (float : Bool) (a b : TopEnt) : topLt float a b = true ↔ topRank float a < topRank float b := by
  by_cases ha : a = .empty
  · subst ha
    by_cases hb : b = .empty <;> simp [topLt, topRank, hb, Prod.Lex.toLex_lt_toLex]
  by_cases hb : b = .empty
  · simp [topLt, topRank, ha, hb, Prod.Lex.toLex_lt_toLex]
  simp only [topLt, topRank, ha, hb, keyLt_iff, Prod.Lex.toLex_lt_toLex, if_false, decide_false, lt_irrefl, false_or, true_and]
  rcases lt_trichotomy (keyRank float a.key) (keyRank float b.key) with h | h | h
  · simp [h]
  · simp [h]
  · simp [h, h.not_gt, h.ne']

theorem topLt_eq_false_iff (float : Bool) (a b : TopEnt) : topLt float b a = false ↔ topRank float a ≤ topRank float b := by
  rw [← not_lt, ← topLt_iff, Bool.not_eq_true]

theorem topLt_empty_left (float : Bool) (a : TopEnt) : topLt float .empty a = false := rfl

theorem topLt_empty_right {float : Bool} {a : TopEnt} (h : topLt float a .empty = false) : a = .empty := by
  by_contra hne
  simp [topLt, hne] at h

/-- The list ascends: no entry goes before one on its left. -/
def TopAscends (float : Bool) (l : List TopEnt) : Prop := l.Pairwise fun a b => topLt float b a = false

theorem TopAscends.sorted {float : Bool} {l : List TopEnt} (h : TopAscends float l) : topSorted float l = true := by
  induction l using topSorted.induct with
  | case1 a b t ih =>
    obtain ⟨ha, ht⟩ := List.pairwise_cons.1 h
    simp [topSorted, ha b List.mem_cons_self, ih ht]
  | case2 l hl => exact topSorted.eq_2 float l hl

/-! ## The sorted union -/

theorem topInsert_perm (float : Bool) (x : TopEnt) (l : List TopEnt) : (topInsert float x l).Perm (x :: l) := by
  induction l with
  | nil => exact .refl _
  | cons a t ih =>
    unfold topInsert
    split
    · exact .refl _
    · exact (ih.cons a).trans (.swap x a t)

theorem TopAscends.insert {float : Bool} {l : List TopEnt} (h : TopAscends float l) (x : TopEnt) : TopAscends float (topInsert float x l) := by
  induction l with
  | nil => exact List.pairwise_singleton _ x
  | cons a t ih =>
    obtain ⟨ha, ht⟩ := List.pairwise_cons.1 h
    unfold topInsert
    split
    next hlt =>
      refine List.pairwise_cons.2 ⟨fun b hb => ?_, h⟩
      have hxa := ((topLt_iff float x a).1 hlt).le
      rcases List.mem_cons.1 hb with rfl | hb
      · exact (topLt_eq_false_iff float x b).2 hxa
      · exact (topLt_eq_false_iff float x b).2 (hxa.trans ((topLt_eq_false_iff float a b).1 (ha b hb)))
    next hlt =>
      refine List.pairwise_cons.2 ⟨fun b hb => ?_, ih ht⟩
      rcases List.mem_cons.1 ((topInsert_perm float x t).mem_iff.1 hb) with rfl | hb
      · exact Bool.eq_false_of_not_eq_true hlt
      · exact ha b hb

/-- What an insertion keeps of the first k depends on the first k alone. -/
theorem take_topInsert_take (float : Bool) (k : Nat) (x : TopEnt) (l : List TopEnt) :
    (topInsert float x (l.take k)).take k = (topInsert float x l).take k := by
  induction l generalizing k with
  | nil => rw [List.take_nil]
  | cons a t ih =>
    cases k with
    | zero => rfl
    | succ k =>
      rw [List.take_succ_cons]
      unfold topInsert
      split
      · cases k <;> simp [List.take_take]
      · rw [List.take_succ_cons, List.take_succ_cons, ih]

/-- The union in ascending order, each entry as often as it stands in the lists (R256). -/
def topSort (float : Bool) (l : List TopEnt) : List TopEnt := l.foldl (fun acc x => topInsert float x acc) []

theorem foldl_topInsert_perm (float : Bool) (l acc : List TopEnt) : (l.foldl (fun acc x => topInsert float x acc) acc).Perm (l ++ acc) := by
  induction l generalizing acc with
  | nil => exact .refl _
  | cons x t ih => exact (ih _).trans (((topInsert_perm float x acc).append_left t).trans List.perm_middle)

theorem topSort_perm (float : Bool) (l : List TopEnt) : (topSort float l).Perm l := by
  simpa [topSort] using foldl_topInsert_perm float l []

theorem topSort_ascends (float : Bool) (l : List TopEnt) : TopAscends float (topSort float l) :=
  List.foldlRecOn l _ List.Pairwise.nil fun _ h x _ => h.insert x

theorem foldl_take_topInsert (float : Bool) (k : Nat) (l acc : List TopEnt) :
    l.foldl (fun acc x => (topInsert float x acc).take k) (acc.take k) = (l.foldl (fun acc x => topInsert float x acc) acc).take k := by
  induction l generalizing acc with
  | nil => rfl
  | cons x t ih => rw [List.foldl_cons, take_topInsert_take, ih, List.foldl_cons]

/-- The empty entries of an ascending list stand at its end, so that those of its first k entries are as good as padding. -/
theorem TopAscends.pad_take {float : Bool} {l : List TopEnt} (h : TopAscends float l) {k n : Nat} (hk : k ≤ n) :
    let all := (l.take k).filter (· ≠ TopEnt.empty)
    all ++ List.replicate (k - all.length) TopEnt.empty = (l ++ List.replicate n TopEnt.empty).take k := by
  induction l generalizing k with
  | nil => simp [List.take_replicate, hk]
  | cons a t ih =>
    obtain ⟨ha, ht⟩ := List.pairwise_cons.1 h
    cases k with
    | zero => rfl
    | succ k =>
      by_cases hempty : a = .empty
      · have hall : a :: t = List.replicate (t.length + 1) .empty :=
          List.eq_replicate_iff.2 ⟨rfl, List.forall_mem_cons.2 ⟨hempty, fun b hb => topLt_empty_right (hempty ▸ ha b hb)⟩⟩
        have hlen : min (k + 1) (t.length + 1 + n) = k + 1 := by omega
        rw [hall, ← List.replicate_add]
        simp [List.take_replicate, hlen]
      · simpa [hempty] using ih ht (Nat.le_of_succ_le hk)

/-- R256: a TOPK result is the first k entries of the union, put in order and padded with empty entries. -/
theorem topMerge_eq (float : Bool) (k : Nat) (ls : List (List TopEnt)) :
    topMerge float k ls = (topSort float ls.flatten ++ List.replicate k TopEnt.empty).take k := by
  have hfold := foldl_take_topInsert float k ls.flatten []
  rw [List.take_nil] at hfold
  rw [topMerge, hfold]
  exact (topSort_ascends float ls.flatten).pad_take le_rfl

theorem TopAscends.append_empty {float : Bool} {l : List TopEnt} (h : TopAscends float l) (n : Nat) :
    TopAscends float (l ++ List.replicate n TopEnt.empty) := by
  refine List.pairwise_append.2 ⟨h, List.pairwise_replicate.2 (.inr rfl), fun a _ b hb => ?_⟩
  rw [List.eq_of_mem_replicate hb, topLt_empty_left]

/-- Settles O39 by `topMerge_eq`: of a list that ascends, the first k entries ascend and no later one goes before them. -/
theorem topkKeepsTheFirstK : Obligations.TopkKeepsTheFirstK := by
  intro float k ls
  have hsorted := (topSort_ascends float ls.flatten).append_empty k
  have hmem (x : TopEnt) : x ∈ topSort float ls.flatten ↔ x ∈ ls.flatten := (topSort_perm float ls.flatten).mem_iff
  rw [topMerge_eq]
  generalize topSort float ls.flatten = all at *
  refine ⟨by simp, TopAscends.sorted (hsorted.sublist (List.take_sublist k _)), fun x hx hne => ?_, fun y hy hout x hx => ?_⟩
  · rcases List.mem_append.1 (List.mem_of_mem_take hx) with hx | hx
    · exact (hmem x).1 hx
    · exact absurd (List.eq_of_mem_replicate hx) hne
  · have hrest : y ∈ (all ++ List.replicate k TopEnt.empty).drop k := by
      have hy : y ∈ all ++ List.replicate k TopEnt.empty := List.mem_append_left _ ((hmem y).2 hy)
      rw [← List.take_append_drop k (all ++ _), List.mem_append] at hy
      exact hy.resolve_left hout
    rw [TopAscends, ← List.take_append_drop k (all ++ _), List.pairwise_append] at hsorted
    obtain ⟨-, -, hbefore⟩ := hsorted
    exact hbefore x hx y hrest

end Sys2Proof.Machine
end

section
/-! PROOFS. Flits that are received and retried on a Bamom port (O40): the checks of a flit in their order, what ACK, NAK and the timers do, then the
statement. -/

namespace Sys2Proof.Machine

/-- Counters are no part of a port. -/
theorem port_bumpP (c : PCtr) (n : Nat) (s : State) (p x : Nat) : port (bumpP p c n s) x = port s x := by
  rw [port, bumpP_ports]
  rfl

/-! ## A flit received (R357, R358, R366) -/

/-- A flit has been heard on the port, whatever becomes of it. -/
def heard (p : Nat) (s : State) : State := setPort p (fun q => { q with lastFlit := s.now }) s

/-- The next free bit says whether the FEC has corrected a codeword, which is counted (assumption 50). -/
def fecCounted (p : Nat) (s : State) : State := bumpP p .fecCorr (b2n (freeBit s).1) (freeBit s).2

/-- A whole flit whose check code is that of its first 252 bytes. -/
abbrev FlitIntact (f : Bytes) : Prop := f.length = 256 ∧ fieldAt f 0xFC 4 = crc32c (f.take 252)

/-- The expected flit moves the number on, and its 250 bytes join the channel that its bit 10 names. -/
def flitTaken (p : Nat) (f : Bytes) (s : State) : State :=
  flitBody p (bitAt (fieldAt f 0 2) 10) ((f.drop 2).take 250) (setPort p (fun q => { q with
    rxExp := (q.rxExp + 1) % 1024, rxUnacked := q.rxUnacked + 1, rxAt := s.now, rxUnits := [] }) (fecCounted p (heard p s)))

theorem now_fecCounted_heard (p : Nat) (s : State) : (fecCounted p (heard p s)).now = s.now := bumpP_now ..

theorem rxExp_fecCounted_heard (p : Nat) (s : State) : (port (fecCounted p (heard p s)) p).rxExp = (port s p).rxExp :=
  calc (port (fecCounted p (heard p s)) p).rxExp
    _ = (port (heard p s) p).rxExp := by rw [fecCounted, port_bumpP]; rfl
    _ = (port s p).rxExp := by rw [heard, port_setPort, if_pos rfl]

section Receive
variable {s : State} {p : Nat} {f : Bytes} (hup : bamomUp s p = true)
include hup

/-- What becomes of a flit: the FEC, the check code, the bit of a NULL flit and the expected number decide, in this order. -/
theorem flitReceive_of_up (fecOk : Bool) :
    flitReceive p fecOk f s =
      if fecOk = false then flitFails p (bumpP p .fecUnc 1 (heard p s))
      else if ¬FlitIntact f then flitFails p (bumpP p .crcErr 1 (heard p s))
      else if bitAt (fieldAt f 0 2) 11 = true then fecCounted p (heard p s)
      else if bits (fieldAt f 0 2) 0 10 ≠ (port s p).rxExp then flitFails p (fecCounted p (heard p s))
      else flitTaken p f s := by
  rw [flitTaken, ← rxExp_fecCounted_heard, ← now_fecCounted_heard p s]
  simp only [flitReceive, hup, Bool.not_true, Bool.false_eq_true, if_false, Bool.not_eq_true', not_and_or]
  rfl

theorem flitReceive_of_fecFail : flitReceive p false f s = flitFails p (bumpP p .fecUnc 1 (heard p s)) :=
  (flitReceive_of_up hup _).trans (if_pos rfl)

theorem flitReceive_of_not_intact (hf : ¬FlitIntact f) : flitReceive p true f s = flitFails p (bumpP p .crcErr 1 (heard p s)) := by
  rw [flitReceive_of_up hup, if_neg (by decide), if_pos hf]

theorem flitReceive_of_null (hf : FlitIntact f) (hnull : bitAt (fieldAt f 0 2) 11 = true) : flitReceive p true f s = fecCounted p (heard p s) := by
  rw [flitReceive_of_up hup, if_neg (by decide), if_neg (not_not.mpr hf), if_pos hnull]

/-- An intact flit that carries data is taken when it has the expected number, and asked for again otherwise. -/
theorem flitReceive_of_data (hf : FlitIntact f) (hdata : bitAt (fieldAt f 0 2) 11 = false) :
    flitReceive p true f s = if bits (fieldAt f 0 2) 0 10 ≠ (port s p).rxExp then flitFails p (fecCounted p (heard p s))
      else flitTaken p f s := by
  rw [flitReceive_of_up hup, if_neg (by decide), if_neg (not_not.mpr hf), if_neg (by rw [hdata]; exact Bool.false_ne_true)]

end Receive

/-! ## Retry (R366, R367) -/

section Retry
variable {s : State} {p n : Nat}

section Named
variable {i : Nat} (hup : bamomUp s p = true) (hn : ((port s p).unacked.findIdx? fun f => f.1 == n) = some i)
include hup hn

theorem ackIn_of_unacked :
    ackIn p n s =
      let a := ctlFree p (setPort p (fun q => { q with unacked := q.unacked.drop (i + 1), resends := 0, ackAt := s.now }) s)
      sendItems p (port a p).items a := by
  simp only [ackIn, hup, hn, Bool.not_true, Bool.false_eq_true, if_false]

theorem nakIn_of_unacked : nakIn p n s = resendFrom p i s := by
  simp only [nakIn, hup, hn, Bool.not_true, Bool.false_eq_true, if_false]

end Named

/-- An ACK or a NAK of a flit that is not in the retry buffer changes nothing. -/
theorem ackIn_nakIn_of_not_unacked (hn : ((port s p).unacked.findIdx? fun f => f.1 == n) = none) : ackIn p n s = s ∧ nakIn p n s = s := by
  simp only [ackIn, nakIn, hn, ite_self, and_self]

theorem ackTimer_of_due (hup : bamomUp s p = true) (h1 : 1 ≤ (port s p).rxUnacked) (hdue : 32 ≤ (port s p).rxUnacked ∨ (port s p).rxAt + 256 ≤ s.now) :
    ackTimer p s = sendItem p (.ack (((port s p).rxExp + 1023) % 1024)) (setPort p (fun q => { q with rxUnacked := 0 }) s) :=
  if_pos ⟨hup, h1, hdue⟩

theorem resendTimeout_of_due (hup : bamomUp s p = true) (h1 : (port s p).unacked ≠ []) (hdue : (port s p).ackAt + 4000 ≤ s.now) :
    resendTimeout p s = resendFrom p 0 s :=
  if_pos ⟨hup, h1, hdue⟩

theorem resendFrom_exhausted (h8 : 8 ≤ (port s p).resends) (i : Nat) : resendFrom p i s = portGoesDown p 0 s := if_pos h8

theorem resendFrom_again (h8 : (port s p).resends < 8) (i : Nat) :
    resendFrom p i s = ((port s p).unacked.drop i).foldl (fun s f => wireOut p (.flit f.2) s)
      (setPort p (fun q => { q with resends := q.resends + 1, ackAt := s.now }) (bumpP p .replay 1 s)) :=
  if_neg (Nat.not_le.mpr h8)

end Retry

/-- Settles O40: each command is one of the functions above, under its condition. -/
theorem linkFlitsAndRetry : Obligations.LinkFlitsAndRetry := by
  unfold Obligations.LinkFlitsAndRetry
  refine ⟨fun s p f h hup => ⟨?fec, ?crc, ?cut, ?null, ?data⟩, fun s p h hup => ⟨fun n i hn => ⟨?ack, ?nak⟩, fun n hn => ?strange, ?timer, ?timeout,
    resendFrom_exhausted, resendFrom_again⟩⟩
  case fec => exact makesR_of_runR h rfl (flitReceive_of_fecFail hup)
  case crc => exact fun hc => makesR_of_runR h rfl (flitReceive_of_not_intact hup fun hf => hc hf.2)
  case cut => exact fun hl => makesR_of_runR h rfl (flitReceive_of_not_intact hup fun hf => hl hf.1)
  case null => exact fun hl hc hnull => makesR_of_runR h rfl (flitReceive_of_null hup ⟨hl, hc⟩ hnull)
  case data =>
    intro hl hc hdata
    have hr := flitReceive_of_data hup ⟨hl, hc⟩ hdata
    exact ⟨fun hne => makesR_of_runR h rfl (hr.trans (if_pos hne)), fun he => makesR_of_runR h rfl (hr.trans (if_neg (not_not.mpr he)))⟩
  case ack => exact makesR_of_runR h rfl (ackIn_of_unacked hup hn)
  case nak => exact makesR_of_runR h rfl (nakIn_of_unacked hup hn)
  case strange =>
    obtain ⟨hack, hnak⟩ := ackIn_nakIn_of_not_unacked hn
    exact ⟨makesR_of_runR h rfl hack, makesR_of_runR h rfl hnak⟩
  case timer => exact fun h1 hdue => makesR_of_runR h rfl (ackTimer_of_due hup h1 hdue)
  case timeout => exact fun h1 hdue => makesR_of_runR h rfl (resendTimeout_of_due hup h1 hdue)

end Sys2Proof.Machine
end

section
/-! PROOFS. Training, Paste's hold on a port, and what takes a link down or up or narrows it (O42): one lemma for what each command does under its condition,
then the statement. -/

namespace Sys2Proof.Machine

/-! ## Training (R370, R454, Table 12.8) -/

/-- On the twin link the pair key is made anew from what the twin has shown; another link keeps the state (R454). -/
def paired (p : Nat) (x : TwinId) (s : State) : State :=
  if (portRec s p).role = 2 then { s with freeIx := s.freeIx + 1, twn := { s.twn with
    pairKey := some (Config.pairKey (cdiOf s) x.chain (Config.freeNat s.freeIx)), msgCtr := 0, rxCtr := 0 } } else s

/-- What the twin shows decides on the twin link alone. -/
theorem pairTrain_of_ok {s : State} {p : Nat} {x : TwinId} (hid : (portRec s p).role = 2 → twinIdOk s x = true) :
    pairTrain p x s = (true, paired p x s) := by
  by_cases hr : (portRec s p).role = 2
  · simp only [pairTrain, paired, hr, hid hr, ne_eq, not_true, if_false, if_true]
    rfl
  · simp only [pairTrain, paired, hr, ne_eq, not_false_eq_true, if_true, if_false]

theorem pairTrain_of_twinFails {s : State} {p : Nat} {x : TwinId} (hr : (portRec s p).role = 2) (hid : twinIdOk s x = false) :
    pairTrain p x s = (false, s) := by
  simp only [pairTrain, hr, hid, ne_eq, not_true, if_false, Bool.false_eq_true]

theorem portRec_paired (p : Nat) (x : TwinId) (s : State) : portRec (paired p x s) p = portRec s p := by
  unfold paired
  split <;> rfl

section Steps
variable {s : State} {p : Nat} (hlink : (port s p).link = .training)
include hlink

theorem stepDone_of_step1 (hk : (port s p).trainStep = 1) (l g : Nat) (x : TwinId) : stepDone p l g x s = trainTo p 2 s := by
  simp only [stepDone, hlink, hk, ne_eq, not_true, if_false]

theorem stepDone_of_step2_gen1 (hk : (port s p).trainStep = 2) (l : Nat) (x : TwinId) :
    stepDone p l 1 x s = trainTo p 3 (setPort p (fun q => { q with gen := 1 }) s) := by
  simp only [stepDone, hlink, hk, ne_eq, not_true, if_false, if_true]

theorem stepDone_of_step3 (hk : (port s p).trainStep = 3) (l g : Nat) (x : TwinId) : stepDone p l g x s = qualify p s := by
  simp only [stepDone, hlink, hk, ne_eq, not_true, if_false]

theorem stepDone_of_step4_twinFails (hk : (port s p).trainStep = 4) (hr : (portRec s p).role = 2) {x : TwinId} (hid : twinIdOk s x = false) (l g : Nat) :
    stepDone p l g x s = s := by
  simp only [stepDone, hlink, hk, pairTrain_of_twinFails hr hid, ne_eq, not_true, if_false, Bool.not_false, if_true]

theorem stepDone_of_step4_ok (hk : (port s p).trainStep = 4) {x : TwinId} (hid : (portRec s p).role = 2 → twinIdOk s x = true) (l g : Nat) :
    stepDone p l g x s =
      let m := l % 2 ^ (portRec s p).width
      let w := lanesIn (alignedSet (portRec s p).width m)
      let a := setPort p (fun q => { q with laneMask := m, widthNow := w, rateNow := if q.gen = 2 then 7 else 6 }) (paired p x s)
      if w = 0 ∨ w < (portRec s p).minWidth then trainFail p 5 a else sendCap p a := by
  simp only [stepDone, hlink, hk, pairTrain_of_ok hid, portRec_paired, ne_eq, not_true, if_false, Bool.not_true, Bool.false_eq_true]

theorem stepTimeout_of_late (h1 : 1 ≤ (port s p).trainStep) (hlate : (port s p).stepAt + stepLimit (port s p).trainStep ≤ s.now) :
    stepTimeout p s = trainFail p (port s p).trainStep s :=
  if_pos ⟨hlink, h1, hlate⟩

end Steps

/-! ## Paste's hold on a port (R370, R372) -/

theorem makesR_byPaste {c : Instr} {f : State → State} {s t : State} (h : live s = true) (hp : s.mgmt.pasteUp = true)
    (e : exec c s = runR (byPaste f) s) (ht : f s = t) : MakesR c s t :=
  makesR_of_runR h e ((byPaste_up f s hp).trans ht)

/-- Paste's hold on a port is no part of its link. -/
theorem portUp_setPort_disable (on : Bool) (s : State) (p : Nat) : portUp (setPort p (fun q => { q with disable := on }) s) p = portUp s p := by
  rw [portUp, port_setPort, if_pos rfl]
  rfl

section Hold
variable {s : State} {p : Nat} (hport : (aget s.img.ports p).isSome = true)
include hport

theorem not_isNone_port : ¬(aget s.img.ports p).isNone = true := by
  rw [Option.isNone_iff_eq_none]
  exact Option.isSome_iff_ne_none.mp hport

/-- Retrain takes a port that is UP down, and begins the training of another again. -/
theorem retrain_of_port : retrain p s = if portUp s p = true then portGoesDown p 5 s else portRestart p s :=
  if_neg (not_isNone_port hport)

/-- The hold is set or released; setting it takes a port that is UP down, and any other change begins its training again. -/
theorem disablePort_of_change {on : Bool} (hne : (port s p).disable ≠ on) :
    disablePort p on s = if on = true ∧ portUp s p = true then portGoesDown p 5 (setPort p (fun q => { q with disable := on }) s)
      else portRestart p (setPort p (fun q => { q with disable := on }) s) := by
  have hn : ¬((aget s.img.ports p).isNone = true ∨ (port s p).disable = on) := not_or.mpr ⟨not_isNone_port hport, hne⟩
  simp only [disablePort, if_neg hn, portUp_setPort_disable]

end Hold

/-! ## What takes a link down or up, or narrows it (R355, R372 to R374) -/

section Links
variable {s : State} {p : Nat}

/-- A lost lane leaves the largest aligned set of the lanes that are left: the same as before, too few, or a smaller one that both ends switch to. -/
theorem laneLost_of_lane {lane : Nat} (hup : bamomUp s p = true) (hfirst : (portRec s p).firstLane ≤ lane)
    (hin : lane - (portRec s p).firstLane < (portRec s p).width) (hon : bitAt (port s p).laneMask (lane - (portRec s p).firstLane) = true) :
    laneLost p lane s =
      let left := (port s p).laneMask - 2 ^ (lane - (portRec s p).firstLane)
      let m := alignedSet (portRec s p).width left
      let a := setPort p (fun q => { q with laneMask := left }) s
      let n := ((port s p).unacked.head?.map (·.1)).getD (port s p).txSeq
      if m = alignedSet (portRec s p).width (port s p).laneMask then a
      else if lanesIn m = 0 ∨ lanesIn m < (portRec s p).minWidth then portGoesDown p 2 a else narrowTo p m n (sendItem p (.narrow m n) a) :=
  if_neg (by simp [hup, hon, Nat.not_lt.mpr hfirst, Nat.not_le.mpr hin])

theorem linkUp_of_awaits {proto : Nat} (ha : awaitsLink s p proto = true) (w : Nat) :
    linkUp p proto w s = cameUp p [] (setPort p (fun q => { q with
      link := .up, widthNow := w, rateNow := (portRec s p).maxRate, laneMask := 2 ^ w - 1, lastFlit := s.now
      cxlReq := if proto = 2 then 128 else 0, cxlDat := if proto = 2 then 128 else 0 }) s) :=
  if_neg (by simp [ha])

theorem cxlNarrow_of_narrower {w : Nat} (hup : portUp s p = true) (hcxl : (portRec s p).protocol = 2) (h1 : 1 ≤ w) (hw : w < (port s p).widthNow)
    (hmin : (portRec s p).minWidth ≤ w) :
    cxlNarrow p w s = bumpP p .narrow 1 (setPort p (fun q => { q with widthNow := w, laneMask := 2 ^ w - 1 }) s) := by
  have hn : ¬((!portUp s p) = true ∨ (portRec s p).protocol ≠ 2 ∨ w = 0 ∨ (port s p).widthNow ≤ w) := by simp [hup, hcxl]; omega
  simp only [cxlNarrow, if_neg hn, if_neg (Nat.not_lt.mpr hmin)]

section Commands
variable (h : live s = true)
include h

theorem makesR_linkSilence (hup : bamomUp s p = true) (hs : (port s p).lastFlit + 1000 ≤ s.now) : MakesR (.linkSilence p) s (portGoesDown p 1 s) := by
  show execLinkSilence p s = _
  rw [execLinkSilence, runR_live _ s h, if_pos ⟨hup, hs⟩]

theorem makesR_cxlLinkDown (hup : portUp s p = true) (hcxl : (portRec s p).protocol = 2) : MakesR (.cxlLinkDown p) s (portGoesDown p 7 s) := by
  show execCxlLinkDown p s = _
  rw [execCxlLinkDown, runR_live _ s h, if_pos ⟨hup, hcxl⟩]

theorem makesR_ethLinkLoss (hup : portUp s p = true) (heth : (portRec s p).protocol = 3) : MakesR (.ethLinkLoss p) s (portGoesDown p 8 s) := by
  show execEthLinkLoss p s = _
  rw [execEthLinkLoss, runR_live _ s h, if_pos ⟨hup, heth⟩]

theorem makesR_ucieModuleFail (m : Nat) : MakesR (.ucieModuleFail m) s (moduleFail m s) := runR_live _ s h

theorem makesR_cxlLinkUp {w : Nat} (h1 : 1 ≤ w) (hw : w ≤ (portRec s p).width) (ha : awaitsLink s p 2 = true) :
    MakesR (.cxlLinkUp p w) s (cameUp p [] (setPort p (fun q => { q with
      link := .up, widthNow := w, rateNow := (portRec s p).maxRate, laneMask := 2 ^ w - 1, lastFlit := s.now, cxlReq := 128, cxlDat := 128 }) s)) := by
  show execCxlLinkUp p w s = _
  rw [execCxlLinkUp, runR_live _ s h, if_pos ⟨h1, hw⟩, linkUp_of_awaits ha]
  rfl

theorem makesR_ethLinkUp (ha : awaitsLink s p 3 = true) :
    MakesR (.ethLinkUp p) s (cameUp p [] (setPort p (fun q => { q with
      link := .up, widthNow := (portRec s p).width, rateNow := (portRec s p).maxRate, laneMask := 2 ^ (portRec s p).width - 1, lastFlit := s.now
      cxlReq := 0, cxlDat := 0 }) s)) := by
  show execEthLinkUp p s = _
  rw [execEthLinkUp, runR_live _ s h, linkUp_of_awaits ha]
  rfl

end Commands

end Links

/-- Settles O42: each command is one of the functions above, under its condition. -/
theorem portsTrainFailAndComeBack : Obligations.PortsTrainFailAndComeBack := by
  unfold Obligations.PortsTrainFailAndComeBack
  refine ⟨fun s p h => ⟨fun hlink => ⟨?t1, ?t3, ?t2, ?t4fails, ?t4, ?late⟩, fun hport hp => ⟨?retrain, ?restart, ?release, ?hold⟩⟩,
    fun s p h => ⟨makesR_linkSilence h, fun lane hup hfirst hin hon => ?lane, makesR_cxlLinkDown h, makesR_ethLinkLoss h, makesR_ucieModuleFail h,
      fun _ => makesR_cxlLinkUp h, makesR_ethLinkUp h, ?narrow⟩⟩
  case t1 => exact fun l g x hk => makesR_of_runR h rfl (stepDone_of_step1 hlink hk l g x)
  case t3 => exact fun l g x hk => makesR_of_runR h rfl (stepDone_of_step3 hlink hk l g x)
  case t2 => exact fun l x hk => makesR_of_runR h rfl (stepDone_of_step2_gen1 hlink hk l x)
  case t4fails => exact fun l g x hk hr hid => makesR_of_runR h rfl (stepDone_of_step4_twinFails hlink hk hr hid l g)
  case t4 => exact fun l g x hk hid => makesR_of_runR h rfl (stepDone_of_step4_ok hlink hk hid l g)
  case late => exact fun h1 hlate => makesR_of_runR h rfl (stepTimeout_of_late hlink h1 hlate)
  case retrain => exact fun hup => makesR_byPaste h hp rfl ((retrain_of_port hport).trans (if_pos hup))
  case restart => exact fun hup => makesR_byPaste h hp rfl ((retrain_of_port hport).trans (if_neg (by simp [hup])))
  case release =>
    intro on hne hrest
    have hn : ¬(on = true ∧ portUp s p = true) := by
      rintro ⟨rfl, hup⟩
      simp [hup] at hrest
    exact makesR_byPaste h hp rfl ((disablePort_of_change hport hne).trans (if_neg hn))
  case hold =>
    exact fun hup hd => makesR_byPaste h hp rfl ((disablePort_of_change hport (by simp [hd])).trans (if_pos ⟨rfl, hup⟩))
  case lane =>
    have hl := laneLost_of_lane hup hfirst hin hon
    exact ⟨fun hm => makesR_of_runR h rfl (hl.trans (if_pos hm)),
      fun hm hfew => makesR_of_runR h rfl (hl.trans ((if_neg hm).trans (if_pos hfew))),
      fun hm h0 hmin => makesR_of_runR h rfl (hl.trans ((if_neg hm).trans (if_neg (not_or.mpr ⟨h0, Nat.not_lt.mpr hmin⟩))))⟩
  case narrow => exact fun w hup hcxl h1 hw hmin => makesR_of_runR h rfl (cxlNarrow_of_narrower hup hcxl h1 hw hmin)

end Sys2Proof.Machine
end

section
/-! PROOFS. Images that arrive in pieces, segments and the table digest (O47): the bytes an upload has collected, what IMAGE_PUT answers to each piece, the
twin's result and phase 2 of a segment, then the statement. -/

namespace Sys2Proof.Machine

/-! ## Uploads (R481) -/

/-- An upload is the one that `upload` and `uploaded` look for. -/
def isUpload (sess what target : Nat) (u : Upload) : Bool := u.sess == sess && u.what == what && u.target == target

/-- What stands before the bytes of a piece at an offset: nothing where it starts anew. -/
def collected (s : State) (sess what target offset : Nat) : Bytes :=
  if offset = 0 then [] else ((s.mgmt.uploads.find? (isUpload sess what target)).map (·.bytes)).getD []

section Uploads
variable {s : State} {sess what target offset total most : Nat} {d : Bytes}

theorem uploadOk_iff : uploadOk s sess what target offset total most d = true ↔
    (d.length ≤ 2 ^ 20 ∧ 1 ≤ d.length ∧ offset + d.length ≤ total ∧ total ≤ most) ∧ (offset = 0 ∨ offset = uploaded s sess what target) := by
  simp only [uploadOk, Bool.and_eq_true, Bool.or_eq_true, decide_eq_true_eq]

theorem uploaded_eq : uploaded s sess what target = ((s.mgmt.uploads.find? (isUpload sess what target)).map (·.bytes.length)).getD 0 := rfl

theorem length_collected (hat : offset = 0 ∨ offset = uploaded s sess what target) : (collected s sess what target offset).length = offset := by
  unfold collected
  split
  next h0 => exact h0.symm
  next h0 =>
    rw [hat.resolve_left h0, uploaded_eq]
    cases s.mgmt.uploads.find? (isUpload sess what target) <;> rfl

/-- The upload that takes the place of the one before it is the one found. -/
theorem find?_isUpload_replace (l : List Upload) {u : Upload} (hu : isUpload sess what target u = true) :
    (l.filter (fun v => !isUpload sess what target v) ++ [u]).find? (isUpload sess what target) = some u := by
  have hnone : (l.filter fun v => !isUpload sess what target v).find? (isUpload sess what target) = none := by simp
  rw [List.find?_append, hnone, Option.none_or, List.find?_singleton, if_pos hu]

/-- Bytes that follow those collected, or start anew, are kept behind as many as the offset says. -/
theorem upload_of_more (hat : offset = 0 ∨ offset = uploaded s sess what target) (hmore : offset + d.length < total) :
    ∃ t, upload sess what target offset total d s = (none, t) ∧ uploaded t sess what target = offset + d.length := by
  have hlen : (collected s sess what target offset ++ d).length = offset + d.length := by rw [List.length_append, length_collected hat]
  have hmine : isUpload sess what target ⟨sess, what, target, total, collected s sess what target offset ++ d⟩ = true := by simp [isUpload]
  refine ⟨_, if_neg (hlen.trans_ne hmore.ne), ?_⟩
  rw [uploaded_eq]
  exact (congrArg (fun u => (u.map (·.bytes.length)).getD 0) (find?_isUpload_replace s.mgmt.uploads hmine)).trans hlen

/-- An upload in one piece is whole at once, and what was collected before it is dropped. -/
theorem upload_of_whole : upload sess what target 0 d.length d s =
    (some d, setMgmt (fun m => { m with uploads := m.uploads.filter fun u => !isUpload sess what target u }) s) :=
  if_pos rfl

end Uploads

/-! ## IMAGE_PUT of the session that controls the plane (R390, R481) -/

theorem prosisLong_of_controls {s : State} {n len : Nat} (hc : Controls s n) (hlen : len ≤ 2 ^ 20 + 64) (code : Nat) (f : State → State) :
    prosisLong n code len f s = f s :=
  (if_pos hlen).trans (prosis_of_controls hc code f)

section Pieces
variable {s t : State} {sess target offset total : Nat} {d : Bytes}

/-- A piece in order is taken up where no other session uploads to the target: more is awaited, or the whole image goes where the target says. -/
theorem imagePut_of_piece (hc : Controls s sess) (htgt : target ≤ 2) (hok : uploadOk s sess 0 target offset total (32 * 2 ^ 20) d = true)
    (hfree : (s.mgmt.uploads.any fun u => u.what == 0 && u.target == target && u.sess != sess) = false) :
    (upload sess 0 target offset total d s = (none, t) → imagePut sess target offset total d s = reply sess 0x10 .ok [] t) ∧
    (∀ raw, upload sess 0 target offset total d s = (some raw, t) →
      imagePut sess target offset total d s = if target = 0 then handImage sess raw t else storeImage sess target raw t) := by
  obtain ⟨⟨hlen, -, -, -⟩, -⟩ := uploadOk_iff.mp hok
  have hbody : ¬(target > 2 ∨ (!uploadOk s sess 0 target offset total (32 * 2 ^ 20) d) = true) :=
    not_or.mpr ⟨Nat.not_lt.mpr htgt, by rw [hok]; decide⟩
  have hbusy : ¬(s.mgmt.uploads.any fun u => u.what == 0 && u.target == target && u.sess != sess) = true := by simp [hfree]
  constructor
  · intro hup
    rw [imagePut, prosisLong_of_controls hc (by omega), if_neg hbody, if_neg hbusy, hup]
  · intro raw hup
    rw [imagePut, prosisLong_of_controls hc (by omega), if_neg hbody, if_neg hbusy, hup]

/-- An image whose header passes is stored in the slot of its target, unless it is a partial segment. -/
theorem storeImage_of_checked (hchk : chkHeader s d = none) (hfull : (imageOf d).partialSeg = false) :
    storeImage sess target d s = reply sess 0x10 .ok [] (setNv (fun v => if target = 1 then { v with imgA := d } else { v with imgB := d }) s) := by
  simp [storeImage, hchk, hfull]

end Pieces

/-! ## Segments (R405, R406) -/

theorem twinResult_of_no_segment {s : State} (hnone : s.sec.segs = []) (n : Nat) (ok : Bool) (d : Bytes) :
    twinResult n ok d s = setSec (fun c => { c with twinResults := c.twinResults.filter (fun x => x.1 ≠ n) ++ [(n, ok, d)] }) s := by
  simp only [twinResult, hnone]

theorem phase2_of_drained {s : State} {g : Seg} {l : List Seg} (hhead : s.sec.segs = g :: l) (hph : g.phase = 2) (hcalved : g.calved = false)
    (hdrain : segDrained s g = true) :
    phase2 s = if withTwin (segPhase2 g s) then tellResult g true (segPhase2 g s) else segPhase2 g s := by
  have hgo : g.phase = 2 ∧ (!g.calved) = true ∧ segDrained s g = true := ⟨hph, by simp [hcalved], hdrain⟩
  simp only [phase2, hhead, if_pos hgo]

/-- Settles O47: a piece by `upload_of_more`, an image in one piece by `upload_of_whole`, and the other commands by the functions above. -/
theorem imagesArriveInOrder : Obligations.ImagesArriveInOrder := by
  unfold Obligations.ImagesArriveInOrder
  refine fun s h => ⟨?piece, ?slot, ?result, ?phase2, makesR_of_runR h rfl rfl⟩
  case piece =>
    intro sess off tot d hc hok hmore hfree
    obtain ⟨-, hat⟩ := uploadOk_iff.mp hok
    obtain ⟨t, hup, hgot⟩ := upload_of_more hat hmore
    exact ⟨t, hup, makesR_of_runR h rfl ((imagePut_of_piece hc (Nat.zero_le 2) hok hfree).1 hup), hgot⟩
  case slot =>
    intro sess d hc h1 hlen hfree
    have hok : uploadOk s sess 0 1 0 d.length (32 * 2 ^ 20) d = true := uploadOk_iff.mpr ⟨⟨hlen, h1, by omega, by omega⟩, .inl rfl⟩
    refine ⟨_, upload_of_whole, fun hchk hfull => makesR_of_runR h rfl ?_⟩
    exact ((imagePut_of_piece hc (by decide) hok hfree).2 d upload_of_whole).trans (storeImage_of_checked hchk hfull)
  case result => exact fun n ok d hnone => makesR_of_runR h rfl (twinResult_of_no_segment hnone n ok d)
  case phase2 => exact fun g l hhead hph hcalved hdrain => makesR_of_runR h rfl (phase2_of_drained hhead hph hcalved hdrain)

end Sys2Proof.Machine
end

section
/-! PROOFS. The queue of commands (O1, O3, O4) and the map entry of Table 3.4 (O21): what a step does to the queue, a queue that runs empty, and the fields of
an entry read back from its bytes. -/

namespace Sys2Proof.Machine

/-! ## The queue of commands -/

/-- A step takes the command at the front of the queue. -/
theorem step_of_pending {c : Instr} {cs : List Instr} {s : State} (h : s.pending = c :: cs) : step s = exec c { s with pending := cs } := by
  rw [step, h]

/-- What a command answers has the queue and the 1 ns counter of the state it ran on. -/
theorem exec_keeps_queue (c : Instr) (s : State) : ∃ t, exec c s = .next t ∧ t.pending = s.pending ∧ t.now = s.now := by
  obtain ⟨t, ht⟩ := answersAfter_exec c s
  exact ⟨afterCmd s t, ht, rfl, rfl⟩

theorem run_succ_of_next {n : Nat} {s t : State} (h : step s = .next t) : core.run (n + 1) s = core.run n t := by
  have h : core.step s = .next t := h
  simp only [Host.Core.run, h]

/-- The queue runs empty in as many steps as it holds commands, front first, and the 1 ns counter stands still. -/
theorem run_queue {cs : List Instr} {s : State} (h : s.pending = cs) : ∃ t, core.run cs.length s = .next t ∧ t.pending = [] ∧ t.now = s.now := by
  induction cs generalizing s with
  | nil => exact ⟨s, rfl, h, rfl⟩
  | cons c cs ih =>
    obtain ⟨u, hu, hpending, hnow⟩ := exec_keeps_queue c { s with pending := cs }
    obtain ⟨t, ht, hempty, hsame⟩ := ih hpending
    exact ⟨t, (run_succ_of_next ((step_of_pending h).trans hu)).trans ht, hempty, hsame.trans hnow⟩

/-- Settles O1: the front of the queue is the command, and what is left is the queue before it. -/
theorem stepRunsTheFrontCommand : Obligations.StepRunsTheFrontCommand := by
  unfold Obligations.StepRunsTheFrontCommand
  exact fun c s => step_of_pending rfl

/-- Settles O3, by what every command answers. -/
theorem everyCommandAnswers : Obligations.EveryCommandAnswers := by
  unfold Obligations.EveryCommandAnswers
  exact exec_keeps_queue

/-- Settles O4, by induction on the queue. -/
theorem queueDrainsInOrder : Obligations.QueueDrainsInOrder := by
  unfold Obligations.QueueDrainsInOrder
  exact fun cs s => run_queue (s := { s with pending := cs }) rfl

/-! ## A flash map entry (Table 3.4) -/

theorem bitAt_eq_iff (n i : Nat) (b : Bool) : bitAt n i = b ↔ n / 2 ^ i % 2 = b2n b := by
  cases b
  case true => simp [bitAt, b2n]
  case false => simp [bitAt, b2n]

theorem b2n_le_one (b : Bool) : b2n b ≤ 1 := by
  cases b <;> decide

/-- Settles O21: the fields lie beside each other, so each is read back as it was packed. -/
theorem mapEntryRoundTrip : Obligations.MapEntryRoundTrip := by
  unfold Obligations.MapEntryRoundTrip
  intro m hblock hdie hchan hnewBlock hnewDie hnewChan
  have hvalid := b2n_le_one m.valid
  have hreloc := b2n_le_one m.relocating
  have fields : bits (packMap m) 0 16 = m.block ∧ bits (packMap m) 16 8 = m.die ∧ bits (packMap m) 24 6 = m.chan ∧
      packMap m / 2 ^ 30 % 2 = b2n m.valid ∧ packMap m / 2 ^ 31 % 2 = b2n m.relocating ∧
      bits (packMap m) 32 16 = m.newBlock ∧ bits (packMap m) 48 8 = m.newDie ∧ bits (packMap m) 56 6 = m.newChan := by
    simp only [bits, packMap]
    omega
  obtain ⟨eblock, edie, echan, evalid, ereloc, enewBlock, enewDie, enewChan⟩ := fields
  rw [unpackMap, eblock, edie, echan, (bitAt_eq_iff _ _ _).mpr evalid, (bitAt_eq_iff _ _ _).mpr ereloc, enewBlock, enewDie, enewChan]

end Sys2Proof.Machine
end

section
/-! PROOFS. Faults (O44, O45): what a report to the sessions leaves alone, the fault event queue and its record, then one lemma for what each fault command
does under its condition. -/

namespace Sys2Proof.Machine

/-! ## What an event report leaves alone (R484) -/

/-- Sending an event to sessions leaves messages, and counts those a session has no room for. -/
theorem report_frame (full : Sess → Bool) (n : Nat) (e : Ev) (l : List Sess) (s : State) : ∃ o g,
    l.foldl (fun s x => if full x then bumpG .eventLost 1 s else tell (.event x.sess n e x.lost) s) s = { s with out := o, gctr := g } := by
  induction l generalizing s with
  | nil => exact ⟨_, _, rfl⟩
  | cons x l ih =>
    rw [List.foldl_cons]
    obtain ⟨o, g, hl⟩ := ih (if full x then bumpG .eventLost 1 s else tell (.event x.sess n e x.lost) s)
    rw [hl]
    split
    · obtain ⟨k, hk⟩ := bumpG_eq .eventLost 1 s
      exact ⟨o, g, by rw [hk]⟩
    · exact ⟨o, g, rfl⟩

/-- An event goes to the sessions or is held for them: beside messages and their counts nothing changes. -/
theorem emit_frame (e : Ev) (s : State) : ∃ q h k l o g,
    emit e s = { s with mgmt := { s.mgmt with evSeq := q, held := h, heldLost := k, sessions := l }, out := o, gctr := g } := by
  unfold emit
  split
  · exact ⟨_, _, _, _, _, _, rfl⟩
  · dsimp only
    split
    · split
      · exact ⟨_, _, _, _, _, _, rfl⟩
      · exact ⟨_, _, _, _, _, _, rfl⟩
    · obtain ⟨o, g, hl⟩ := report_frame _ _ e _ _
      exact ⟨_, _, _, _, o, g, hl⟩

@[simp] theorem emit_flt (e : Ev) (s : State) : (emit e s).flt = s.flt := by
  obtain ⟨q, h, k, l, o, g, he⟩ := emit_frame e s
  rw [he]

/-! ## The fault event queue (R417, Table 14.3) -/

/-- The record of an event with the context of the state it comes in. -/
def faultRecord (kind uk unit op part : Nat) (s : State) : FaultEv := {
  kind := kind, unitKind := uk, unit := unit, op := op, part := part, tempQ := tempOf s (nearestSensor uk unit), tempMaxQ := hottest s
  vddMv := s.pwr.mvs.getD 0 0, throttled := s.pwr.supplyThr || s.pwr.thermalThr, ctxBusy := ctxOnUnit s uk unit
  issuePct := Config.freeNat s.freeIx % 101, ft := ft s }

/-- An event is queued behind the others, or counted where the queue is full. -/
theorem faultEvent_flt (kind uk unit op part : Nat) (s : State) : (faultEvent kind uk unit op part s).flt =
    if s.flt.events.length < 256 then { s.flt with events := s.flt.events ++ [faultRecord kind uk unit op part s] }
    else { s.flt with unqueued := s.flt.unqueued + 1 } :=
  emit_flt _ _

theorem faultRead_of_cons {s : State} {e : FaultEv} {l : List FaultEv} (h : s.flt.events = e :: l) :
    (faultRead s).flt = { s.flt with events := l, latched := some e, cleared := [] } := by
  simp only [faultRead, tell_flt, h]
  rfl

/-- GLB_FAULT_EVENT0 to 3 hold the event last latched, none of whose words has been cleared. -/
theorem csr_faultEvent {s : State} {e : FaultEv} (hl : s.flt.latched = some e) (hc : s.flt.cleared = []) {i : Nat} (hi : i < 4) :
    csr s (0x648 + 8 * i) = (packFault e).getD i 0 := by
  have hword : latchedWord s i = (packFault e).getD i 0 := by
    simp only [latchedWord, hl, hc, List.not_mem_nil, if_false]
  rw [← hword]
  interval_cases i <;> rfl

/-- The fields of Table 14.3 lie beside each other in the record's first two words. -/
theorem packFault_word0 (e : FaultEv) : let w := (packFault e).getD 0 0
    bits w 0 4 = e.kind % 16 ∧ bits w 4 4 = e.unitKind % 16 ∧ bits w 8 12 = e.unit % 4096 ∧ bits w 20 8 = e.op % 256 ∧
    bits w 32 16 = e.tempQ % 65536 ∧ bits w 48 16 = e.tempMaxQ % 65536 := by
  simp only [packFault, List.getD_cons_zero, bits]
  omega

theorem packFault_word1 (e : FaultEv) : let w := (packFault e).getD 1 0
    bits w 0 16 = e.vddMv % 65536 ∧ bitAt w 16 = e.throttled ∧ bits w 32 8 = e.ctxBusy % 256 ∧ bits w 40 8 = e.issuePct % 256 ∧
    bits w 48 7 = e.part % 128 := by
  have hthr := b2n_le_one e.throttled
  simp only [packFault, List.getD_cons_zero, List.getD_cons_succ, bitAt_eq_iff, bits]
  omega

/-- Settles O44: the queue by `faultEvent_flt`, the read by `faultRead_of_cons` and `csr_faultEvent`, the record word by word. -/
theorem faultQueueHoldsTheOldest256 : Obligations.FaultQueueHoldsTheOldest256 := by
  unfold Obligations.FaultQueueHoldsTheOldest256
  refine ⟨fun s kind uk unit op part => ⟨fun hroom => ⟨Config.freeNat s.freeIx % 101, ?room⟩, fun hfull => ?full⟩, fun s e l h hp hev => ?read,
    fun e => ?record⟩
  case room => rw [faultEvent_flt, if_pos hroom, faultRecord]
  case full =>
    rw [faultEvent_flt, if_neg (Nat.not_lt.mpr hfull)]
    exact ⟨rfl, rfl⟩
  case read =>
    have hflt := faultRead_of_cons hev
    exact ⟨faultRead s, makes_of_run h rfl (byPaste_up _ s hp), congrArg Flt.events hflt,
      fun i hi => csr_faultEvent (congrArg Flt.latched hflt) (congrArg Flt.cleared hflt) hi⟩
  case record =>
    obtain ⟨hkind, hunitKind, hunit, hop, htemp, hmax⟩ := packFault_word0 e
    obtain ⟨hvdd, hthr, hctx, hissue, hpart⟩ := packFault_word1 e
    exact ⟨rfl, hkind, hunitKind, hunit, hop, htemp, hmax, hvdd, hthr, hctx, hissue, hpart, rfl, rfl⟩

/-! ## Canaries and residues (R413, R414) -/

section Units
variable {s : State} {u : UnitId} (hu : unitLive s u = true)
include hu

theorem canary_pass : canary u true s = bumpG .canaryRun 1 s := by
  simp only [canary, hu, Bool.not_true, Bool.false_eq_true, if_false, if_true]

theorem canary_fail :
    canary u false s =
      let a := bumpG .canaryRun 1 s
      mapOut u (faultEvent 3 u.kind u.num 0 0 (bumpG .canaryFail 1
        { a with flt := { a.flt with unitTot := amod a.flt.unitTot u (0, 0) fun t => (t.1, t.2 + 1) } })) := by
  simp only [canary, hu, Bool.not_true, Bool.false_eq_true, if_false]

/-- A mismatch of an engine unit ends the flit that runs on it. -/
theorem residue_of_engine {p k : Nat} {f : Flit} (hk : u.kind ≠ 4) (hf : ((onUnit s u).find? fun f => f.part = p ∧ f.slot = k) = some f) :
    residue u p k s = residueCheck u (faultSeqs u (faultFlit (residueNote u (fOp f.word) p s) f)) := by
  simp only [residue, hu, hk, hf, Bool.not_true, Bool.false_eq_true, if_false]

/-- A mismatch of a lane of the atomic unit answers the tagged request whose line it computes POISON. -/
theorem residue_of_lane {k : Nat} {r : Req} (hk : u.kind = 4) (hr : findReq s k = some r) (hph : r.phase = .auRead) (ht : kindTagged r.kind = true) (p : Nat) :
    residue u p k s = residueCheck u (setReq k (fun r => { r with finalSt := .poison }) (residueNote u (kindCode r.kind) r.hdr.part s)) := by
  simp only [residue, hu, hk, hr, hph, ht, Bool.not_true, Bool.false_eq_true, if_false, if_true, and_self]

end Units

theorem canarySets_of_due {s : State} (hdue : s.flt.canaryDue = true) (hp : s.mgmt.pasteUp = true) (l : List UnitId) :
    canarySets l s = allUnits.foldl (fun s u => canarySet s u (decide (u ∈ l))) { s with flt := { s.flt with canaryDue := false } } :=
  if_neg (by simp [hdue, hp])

theorem makesR_issueRateCanary {s : State} (h : live s = true) (hp : s.mgmt.pasteUp = true) (u : UnitId) (b : Bool) :
    MakesR (.issueRateCanary u b) s (allUnits.foldl (fun s v => canarySet s v (decide (v = u) && !b)) s) := by
  show execIssueRateCanary u b s = _
  rw [execIssueRateCanary, runR_live _ s h, if_pos hp]

/-! ## Markers, alerts and taps (R424, R455, R438) -/

theorem markerTimeout_of_late {s : State} {mid : Nat} {m : Marker} (hm : (s.mem.markers.find? fun m => m.mid = mid) = some m) (hwhy : m.why = 1)
    (hlate : m.sentAt + 1000000 ≤ s.now) : markerTimeout mid s = portGoesDown m.port 9 s := by
  simp only [markerTimeout, hm]
  exact if_pos ⟨hwhy, hlate⟩

theorem badkeyAlert_of_256 {s : State} {p : Nat} (hmany : 256 ≤ agetD s.mem.badKeyWin p 0) (hnew : p ∉ s.sec.badkey) (hpart : partState s p ≠ 0) :
    badkeyAlert p s = emit (.badkey p) (setSec (fun c => { c with badkey := addOnce c.badkey p }) s) :=
  if_neg (not_or.mpr ⟨Nat.not_lt.mpr hmany, not_or.mpr ⟨hnew, hpart⟩⟩)

theorem tapControlPage_of_due {s : State} {p : Nat} (hen : (agetD s.taps p {}).en = true)
    (hdue : 64 ≤ (agetD s.taps p {}).since ∨ (agetD s.taps p {}).pageAt + 10000 ≤ s.now) : tapControlPage p s = tapPage p s :=
  if_pos ⟨hen, hdue⟩

/-- Settles O45: each command is one of the functions above, or of the model's, under its condition. -/
theorem faultsAndAlerts : Obligations.FaultsAndAlerts := by
  unfold Obligations.FaultsAndAlerts
  refine ⟨fun s u h => ⟨fun p k _ => ?handle, fun p => ?table,
      fun hu => ⟨?pass, ?fail, fun hp => makesR_issueRateCanary h hp u, ?engine, ?lane⟩, ?sets⟩,
    fun s h => ⟨fun hp => ⟨fun e l hev => ?read, fun l => ?request⟩, ?marker, ?badkey, ?tap⟩⟩
  case handle => exact makesR_of_runR h rfl rfl
  case table => exact makesR_of_runR h rfl rfl
  case pass => exact makesR_of_runR h rfl (canary_pass hu)
  case fail => exact makesR_of_runR h rfl (canary_fail hu)
  case engine => exact fun p k f hk hf => makesR_of_runR h rfl (residue_of_engine hu hk hf)
  case lane => exact fun p k r hk hr hph ht => makesR_of_runR h rfl (residue_of_lane hu hk hr hph ht p)
  case sets => exact fun l hdue hp => makesR_of_runR h rfl (canarySets_of_due hdue hp l)
  case read =>
    have hflt := faultRead_of_cons hev
    exact ⟨faultRead s, makes_of_run h rfl (byPaste_up _ s hp), congrArg Flt.events hflt, congrArg Flt.latched hflt⟩
  case request => exact makesR_byPaste h hp rfl rfl
  case marker => exact fun m mid hm hwhy hlate => makesR_of_runR h rfl (markerTimeout_of_late hm hwhy hlate)
  case badkey => exact fun p hmany hnew hpart => makes_of_run h rfl (badkeyAlert_of_256 hmany hnew hpart)
  case tap => exact fun p hen hdue => makesR_of_runR h rfl (tapControlPage_of_due hen hdue)

end Sys2Proof.Machine
end

section
/-! PROOFS. The twin's events (O46): heartbeats, what the twin tells, the steps of resynchronisation and the end of an adoption, one lemma for what each does
under its condition. -/

namespace Sys2Proof.Machine

/-! ## Heartbeats and calving while the twin link is up (R423, R427, R430 to R432) -/

section Up
variable {s : State} (hup : twinUp s = true)
include hup

/-- Once the twin is known to be in service or not, and no stripe is on its way, the claims of a heartbeat are compared. -/
theorem heartbeatIn_of_settled {cl : List Claim} (hknown : s.twn.twinInService.isSome = true) (hadopt : s.twn.adoptPending = false)
    (hsrc : s.twn.state ≠ .resyncSrc) (hdst : s.twn.state ≠ .resyncDst) :
    heartbeatIn cl s = checkUnclaimed cl (cl.foldl checkClaim (setTwn (fun t => { t with peer := cl, twinInService := some !cl.isEmpty }) s)) := by
  have hnone : s.twn.twinInService.isNone = false := by simpa using hknown
  simp only [heartbeatIn, claimsRest, hup, hnone, setTwn_twn, hadopt, hsrc, hdst, Bool.not_true, Bool.false_eq_true, or_self, decide_false, Bool.or_self,
    if_false]

theorem heartbeatOut_of_silence (hs : s.twn.sentAt + 1000 ≤ s.now) : heartbeatOut s = sendTwin (.heartbeat (ownClaims s)) s :=
  if_pos ⟨hup, hs⟩

theorem twinCalve_of_up (p : Nat) : twinCalve p s =
    if s.twn.state = .resyncDst ∧ activeParts s ≠ [] ∧ activeParts (calve 3 [p] s) = [] then pairLost (calve 3 [p] s) else calve 3 [p] s :=
  if_neg (by simp [hup])

/-- A pair in RUN adopts when its twin fails. -/
theorem failing_of_paired (hst : s.twn.state = .paired) (hret : s.twn.returning = false) (hrun : s.mgmt.state = .run) (hown : s.twn.servesOwn = true) :
    failing s = beginAdopt (mirroringSound s) s := by
  have hdrain : drainAbandon s = s := if_pos (by simp [hrun])
  simp only [failing, hup, hst, hret, hrun, hdrain, hown, Bool.not_true, Bool.false_eq_true, reduceCtorEq, or_self, if_false, if_true]

/-! ## Resynchronisation (Table 14.7) -/

/-- The survivor answers with its own state. -/
theorem resyncState_of_src (hst : s.twn.state = .resyncSrc) (x : ResyncPack) : resyncState x s =
    sendTwin (.resyncPack (resyncPackOf s)) (setTwn (fun t => { t with state := .resyncSrc, resyncPct := 0 }) s) := by
  simp only [resyncState, hup, hst, Bool.not_true, Bool.false_eq_true, reduceCtorEq, false_and, or_self, true_or, if_false, if_true]

/-- The returning plane holds the survivor's serials and digest against its own. -/
theorem resyncState_of_dst (hst : s.twn.state = .resyncDst) (x : ResyncPack) : resyncState x s =
    if x.baseSerial = s.sec.imgBase ∧ x.segSerials = s.sec.segSerials ∧ x.rangeDigest = rangeDigest s then
      setTwn (fun t => { t with state := .resyncDst, s2ok := true }) (takePack x s)
    else twinEvent 9 (setTwn (fun t => { t with state := .alone, s2ok := false, returning := true }) s) := by
  simp only [resyncState, hup, hst, Bool.not_true, Bool.false_eq_true, true_or, if_false, if_true]

theorem resyncXferDone_of_dst (hst : s.twn.state = .resyncDst) (hok : s.twn.s2ok = true) (x : ResyncXfer) : resyncXferDone x s =
    startCatchup (setTwn (fun t => { t with resyncPct := 100, maxEpoch := max t.maxEpoch x.highestEpoch }) (takeXfer x s)) := by
  simp only [resyncXferDone, hup, hst, hok, Bool.not_true, Bool.false_eq_true, and_self, if_false, if_true]

/-- The survivor gives the stripe back once none of its requests is in flight here. -/
theorem handover_of_idle (hpct : s.twn.resyncPct = 100) (hst : s.twn.state = .resyncSrc) (hy : s.twn.yielding = true) (hidle : yieldBusy s = false) :
    handover s = pairUp (setTwn (fun t => { t with servesTwin := false }) s) := by
  simp only [handover, hup, hpct, hst, hy, hidle, Bool.not_true, Bool.false_eq_true, ne_eq, not_true_eq_false, or_self, if_false]

end Up

/-! ## The end of an adoption (R429) -/

theorem adoptDone_of_replayed {s : State} (hpend : s.twn.adoptPending = true) (hents : s.mem.shadow.any pendingEnt = false)
    (haccs : s.mem.accs.any replaying = false) :
    adoptDone s =
      let a := adoptCalve (markLostSide (adoptFlash (setTwn (fun t => { t with servesTwin := true }) (adoptMap s))))
      twinEvent 4 (sendTwin .adopted (setTwn (fun t => { t with state := .adopted, adoptPending := false, adoptFirst := ft a, yielding := false }) a)) :=
  if_neg (by simp [hpend, hents, haccs])

/-- Settles O46: each command is one of the functions above under its condition. -/
theorem twinEvents : Obligations.TwinEvents := by
  unfold Obligations.TwinEvents
  refine fun s h => ⟨fun hup => ⟨?heartbeat, ?silence, ?calve, ?failing, ?send, ?take, ?differ, ?transfer, ?handover⟩, ?adopted⟩
  case heartbeat => exact fun cl hknown hadopt hsrc hdst => makesR_of_runR h rfl (heartbeatIn_of_settled hup hknown hadopt hsrc hdst)
  case silence => exact fun hs => makesR_of_runR h rfl (heartbeatOut_of_silence hup hs)
  case calve => exact fun p => makesR_of_runR h rfl (twinCalve_of_up hup p)
  case failing => exact fun hst hret hrun hown => makesR_of_runR h rfl (failing_of_paired hup hst hret hrun hown)
  case send => exact fun x hst => makesR_of_runR h rfl (resyncState_of_src hup hst x)
  case take => exact fun x hst hsame => makesR_of_runR h rfl ((resyncState_of_dst hup hst x).trans (if_pos hsame))
  case differ => exact fun x hst hdiff => makesR_of_runR h rfl ((resyncState_of_dst hup hst x).trans (if_neg hdiff))
  case transfer => exact fun x hst hok => makesR_of_runR h rfl (resyncXferDone_of_dst hup hst hok x)
  case handover => exact fun hpct hst hy hidle => makesR_of_runR h rfl (handover_of_idle hup hpct hst hy hidle)
  case adopted => exact fun hpend hents haccs => makesR_of_runR h rfl (adoptDone_of_replayed hpend hents haccs)

end Sys2Proof.Machine
end

section
/-! PROOFS. RELEASE, owner commands whose signature does not verify, and Rind's SPDM answers (O49 to O51). -/

namespace Sys2Proof.Machine

/-! ## Owner commands (R449, R450) -/

section Owner
variable {s : State} {n : Nat} {x : RindSess} (h : live s = true) (hx : rindAt s n = some x) (hr : x.ready = true) (hc : x.claim = false)
include hx hr hc

/-- A signature that does not verify draws a refusal, whatever the command. -/
theorem ownerSigned_of_unsigned {code : Nat} {cmd : Bytes} {g : OwnerSig} (hn : code ≠ 0x20) (hg : signedOk s x (natLe 1 code ++ cmd) g = false)
    (f : State → State) : ownerSigned n code cmd g f s = rindErr n code 0 s := by
  rw [ownerSigned, rind_of_owner hx hr hc hn, if_neg (by simp [hg])]

/-- What RELEASE erases, and the step of the generation. -/
def releasedNv (v : Nv) : Nv := { v with
  owned := false, ownerKeys := [], mgmtCa := [], crl := [], sealSecret := none, nonces := [], ownGen := v.ownGen + 1, storeGen := v.ownGen + 1 }

theorem releaseCmd_of_signed {g : OwnerSig} (hg : signedOk s x (natLe 1 0x14 ++ []) g = true) (hgen : s.nv.ownGen < 4095) :
    releaseCmd n g s = rindOk n 0x14 [] (setNv releasedNv (calve 10 allParts s)) := by
  rw [releaseCmd, ownerSigned_of_signedOk hx hr hc (by decide) hg, if_neg (by simp [genLeft_of_lt hgen])]
  rfl

end Owner

/-- Settles O49: what `releasedNv` says of the plane whose partitions are calved. -/
theorem releaseReturnsToUnowned : Obligations.ReleaseReturnsToUnowned := by
  unfold Obligations.ReleaseReturnsToUnowned
  intro s n x g h hx hr hc hg hgen
  obtain ⟨a, ha⟩ : ∃ a, a = calve 10 allParts s := ⟨_, rfl⟩
  have hmakes : MakesR (.release n g) s (rindOk n 0x14 [] (setNv releasedNv a)) :=
    makesR_of_runR h rfl (ha ▸ releaseCmd_of_signed hx hr hc hg hgen)
  exact ⟨a, setNv releasedNv a, ha, hmakes, rfl, rfl, rfl, rfl, rfl, rfl, rfl, rfl, rfl⟩

/-- Settles O50: the seven owner commands by `ownerSigned_of_unsigned`; a refusal is a message and nothing else. -/
theorem unsignedOwnerCommandsChangeNothing : Obligations.UnsignedOwnerCommandsChangeNothing := by
  unfold Obligations.UnsignedOwnerCommandsChangeNothing
  intro s n x h hx hr hc
  refine ⟨?secretSet, ?sealImport, ?keyAdd, ?keyRevoke, ?caSet, ?crlSet, ?release, fun m v => rfl⟩
  case secretSet => exact fun v g hg => makes_of_run h rfl (ownerSigned_of_unsigned hx hr hc (by decide) hg _)
  case sealImport => exact fun b g hg => makes_of_run h rfl (ownerSigned_of_unsigned hx hr hc (by decide) hg _)
  case keyAdd => exact fun i k g hg => makes_of_run h rfl (ownerSigned_of_unsigned hx hr hc (by decide) hg _)
  case keyRevoke => exact fun i g hg => makes_of_run h rfl (ownerSigned_of_unsigned hx hr hc (by decide) hg _)
  case caSet => exact fun c g hg => makes_of_run h rfl (ownerSigned_of_unsigned hx hr hc (by decide) hg _)
  case crlSet => exact fun l g hg => makes_of_run h rfl (ownerSigned_of_unsigned hx hr hc (by decide) hg _)
  case release => exact fun g hg => makesR_of_runR h rfl (ownerSigned_of_unsigned hx hr hc (by decide) hg _)

/-! ## SPDM (R467 to R472, Table 15.6) -/

section Spdm
variable {s : State} {n : Nat}

/-- An index of Table 15.6 is answered with its block, signed over the nonce. -/
theorem getMeasurements_of_index {i : Nat} {b : Bytes} (h1 : 1 ≤ i) (h7 : i ≤ 7) (hm : measurement s i = some b) (v : BitVec 256) :
    getMeasurements n i v s = spdm n 0x60 (natLe 1 i ++ b ++ Config.attest (cdiOf s) (natLe 32 v.toNat ++ (natLe 1 i ++ b))) s := by
  have h0 : i ≠ 0 := by omega
  have hff : i ≠ 0xFF := by omega
  simp only [getMeasurements, measBlock, h0, hff, hm, Option.isSome_some, if_false, if_true]

/-- One more session is kept where fewer than four are and a Prosis session that carries it is no claim session. -/
theorem keyExchange_of_room (hroom : s.sec.sessions.length < 4) (hnew : rindAt s n = none)
    (hkind : sessAt s n = none ∨ ∃ y, sessAt s n = some y ∧ y.claim = false) :
    keyExchange n false s = spdm n 0x64 [] (setSec (fun c => { c with sessions := c.sessions ++ [{ sess := n, claim := false }] }) s) := by
  have hfull : ¬4 ≤ s.sec.sessions.length := Nat.not_le.mpr hroom
  rcases hkind with hy | ⟨y, hy, hyc⟩
  · simp [keyExchange, hfull, hnew, hy]
  · simp [keyExchange, hfull, hnew, hy, hyc]

section Opening
variable {x : RindSess} (hx : rindAt s n = some x) (hr : x.ready = false) (hc : x.claim = false) {ch : Bytes} {ct : Nat}
include hx hr hc

theorem finishSess_of_trusted (hown : s.nv.owned = true) (hca : Config.chainOk s.nv.mgmtCa ch = true) (hrev : revoked s ch ct = false) :
    finishSess n ch ct s = spdm n 0x65 [] (setSec (fun c => { c with
      sessions := c.sessions.map fun y => if y.sess = n then { y with ready := true, cert := ct, issuers := Config.chainSerials ch } else y }) s) := by
  simp only [finishSess, hx, hr, hc, hown, hca, hrev, Bool.false_eq_true, Bool.not_false, Bool.and_self, Bool.or_true, if_false, if_true]

theorem finishSess_of_revoked (hrev : revoked s ch ct = true) : finishSess n ch ct s = spdmErr n (closeRind n s) := by
  simp only [finishSess, hx, hr, hc, hrev, Bool.false_eq_true, Bool.not_true, Bool.and_false, Bool.or_self, if_false]

end Opening

theorem rindAt_any_ready {x : RindSess} (hx : rindAt s n = some x) (hr : x.ready = true) : (rindAt s n).any (·.ready) = true := by
  rw [hx]
  exact hr

end Spdm

/-- Settles O51: each answer is the model's own function, under its condition. -/
theorem spdmAnswers : Obligations.SpdmAnswers := by
  unfold Obligations.SpdmAnswers
  refine fun s n h => ⟨makes_of_run h rfl rfl, makes_of_run h rfl rfl, makes_of_run h rfl rfl, makes_of_run h rfl rfl, makes_of_run h rfl rfl,
    fun v => makes_of_run h rfl rfl, ?measurement, ?exchange, ?finish, ?established⟩
  case measurement => exact fun i v b h1 h7 hm => makes_of_run h rfl (getMeasurements_of_index h1 h7 hm v)
  case exchange => exact fun hroom hnew hkind => makes_of_run h rfl (keyExchange_of_room hroom hnew hkind)
  case finish =>
    exact fun x ch ct hx hr hc => ⟨fun hown hca hrev => makes_of_run h rfl (finishSess_of_trusted hx hr hc hown hca hrev),
      fun hrev => makes_of_run h rfl (finishSess_of_revoked hx hr hc hrev)⟩
  case established =>
    intro x hx hr
    have hready := rindAt_any_ready hx hr
    exact ⟨makes_of_run h rfl (if_pos hready), makes_of_run h rfl (if_pos hready)⟩

end Sys2Proof.Machine
end

section
/-! PROOFS. Prosis sessions and the restarts of Paste (O52, O53): what a session may send, how it opens, greets and closes, and what restarts Paste. -/

namespace Sys2Proof.Machine

/-! ## What a session may send (R479, R480) -/

theorem gate_of_observer {s : State} {x : Sess} {code : Nat} (hclaim : x.claim = false) (hhello : x.helloOk = true)
    (hctl : s.mgmt.controller ≠ some x.sess) (hcode : observerMay code = false) : gate s x code = some .notController := by
  simp [gate, hclaim, hhello, hctl, hcode]

/-- HELLO and BYE pass in every control state, from every session. -/
theorem gate_of_handshake {code : Nat} (hcode : code = 0x01 ∨ code = 0x02) (s : State) (x : Sess) : gate s x code = none := by
  rcases hcode with rfl | rfl <;> simp [gate, needsNoHello, observerMay, bootMay]

/-- Settles O52: the gate draws NOT_CONTROLLER before the command is looked at. -/
theorem observersDrawNotController : Obligations.ObserversDrawNotController := by
  unfold Obligations.ObserversDrawNotController
  intro s n code x f hx hup hclaim hhello hctl hcode
  exact prosis_drawn n code f s x .notController hx hup (gate_of_observer hclaim hhello hctl (decide_eq_false hcode))

/-! ## Sessions (R447, R466, R479, R480) -/

section Sessions
variable {s : State} {n : Nat}

theorem sessionOpen_of_trusted {ch : Bytes} {ct : Nat} (hup : s.mgmt.pasteUp = true) (hroom : s.mgmt.sessions.length < 8) (hnew : sessAt s n = none)
    (hown : s.nv.owned = true) (hca : Config.chainOk s.nv.mgmtCa ch = true) (hrev : revoked s ch ct = false) :
    sessionOpen n ch ct false s =
      setMgmt (fun m => { m with sessions := m.sessions ++ [{ sess := n, cert := ct, issuers := Config.chainSerials ch }] }) s := by
  have hopen : ¬((!s.mgmt.pasteUp) = true ∨ s.mgmt.sessions.length ≥ 8 ∨ (sessAt s n).isSome = true) := by simp [hup, hnew, hroom]
  have htrust : s.nv.owned = true ∧ Config.chainOk s.nv.mgmtCa ch = true ∧ (!revoked s ch ct) = true := ⟨hown, hca, by rw [hrev]; rfl⟩
  rw [sessionOpen, if_neg hopen, if_neg Bool.false_ne_true, if_pos htrust]

theorem closeSess_mgmt {x : Sess} (hx : sessAt s n = some x) : (closeSess n s).mgmt = { s.mgmt with
    sessions := s.mgmt.sessions.filter fun x => x.sess ≠ n, controller := if s.mgmt.controller = some n then none else s.mgmt.controller
    uploads := s.mgmt.uploads.filter fun u => u.sess ≠ n, subs := s.mgmt.subs.filter fun u => u.sess ≠ n } := by
  simp only [closeSess, hx]
  rfl

theorem sessAt_closeSess (n : Nat) (s : State) : sessAt (closeSess n s) n = none := by
  simp [sessAt, closeSess_mgmt_sessions]

/-- A session that closes takes its control and its subscriptions with it. -/
theorem makesR_prosisSessionClose {x : Sess} (h : live s = true) (hx : sessAt s n = some x) :
    ∃ t, MakesR (.prosisSessionClose n) s t ∧ sessAt t n = none ∧ (s.mgmt.controller = some n → t.mgmt.controller = none) ∧
      (∀ u ∈ t.mgmt.subs, u.sess ≠ n) ∧ OnlyCloses s t := by
  have hm := closeSess_mgmt hx
  refine ⟨closeSess n s, makesR_of_runR h rfl rfl, sessAt_closeSess n s, fun hctl => ?control, fun u hu => ?subs, onlyCloses_closeSess n s⟩
  case control =>
    rw [hm]
    exact if_pos hctl
  case subs =>
    rw [hm] at hu
    simpa using (List.mem_filter.mp hu).2

theorem makesR_handshake {t : State} {x : Sess} {c : Instr} {code : Nat} {f : State → State} (h : live s = true) (hx : sessAt s n = some x)
    (hup : s.mgmt.pasteUp = true) (hcode : code = 0x01 ∨ code = 0x02) (he : exec c s = runR (prosis n code f) s) (ht : f s = t) : MakesR c s t :=
  makesR_of_runR h he ((prosis_open n code f s x hx hup (gate_of_handshake hcode s x)).trans ht)

theorem hello_of_level {lvl : Nat} (hl : levelRefuses s lvl = true) (tk : Bool) : hello n lvl tk s =
    reply n 0x01 .level [] (setMgmt (fun m => { m with controller := if m.controller = some n then none else m.controller })
      (setSess n (fun x => { x with helloOk := false, levelRefused := true }) s)) :=
  if_pos hl

theorem hello_of_accepted {x : Sess} {lvl : Nat} (hx : sessAt s n = some x) (hclaim : x.claim = false) (hl : levelRefuses s lvl = false) (tk : Bool) :
    hello n lvl tk s = deliverHeld n (reply n 0x01 .ok (helloBody (helloAccepted n lvl tk false s)) (helloAccepted n lvl tk false s)) := by
  simp only [hello, hx, hl, hclaim, Option.map_some, Option.getD_some, Bool.false_eq_true, if_false]

end Sessions

/-! ## Restarts of Paste (R475, R476, R497) -/

/-- A core in service that has caused no restart within the hour stays, and Paste restarts. -/
theorem heartbeatTimeout_of_first {s : State} {c : Nat} (hc : c < 6) (hin : c ∉ s.mgmt.coresOut) (hup : s.mgmt.pasteUp = true)
    (hfirst : (s.mgmt.coreRestarts.any fun e => decide (s.now < e.2 + anHour) && e.1 == c) = false) :
    heartbeatTimeout c s = restartPaste 0 (setMgmt (fun m => { m with
      coreRestarts := (s.mgmt.coreRestarts.filter fun e => decide (s.now < e.2 + anHour)) ++ [(c, s.now)] }) s) := by
  have hn : ¬(c ≥ 6 ∨ c ∈ s.mgmt.coresOut ∨ (!s.mgmt.pasteUp) = true) := by simp [hin, hup, hc]
  simp only [heartbeatTimeout, if_neg hn, List.any_filter, hfirst, Bool.false_eq_true, if_false]

theorem coreUnc_of_inService {s : State} {c : Nat} (hc : c < 6) (hin : c ∉ s.mgmt.coresOut) : coreUnc c s = restartPaste 1 (coreLeaves c s) :=
  if_neg (not_or.mpr ⟨Nat.not_le.mpr hc, hin⟩)

/-! ## What a restart loses (R476) -/

/-- What Paste holds for its clients: subscriptions, uploads and totals. -/
def clientHoldings (s : State) : List Sub × List Upload × List (GCtr × Nat) := (s.mgmt.subs, s.mgmt.uploads, s.mgmt.totG)

/-- What every step of a list leaves alone, the whole list leaves alone. -/
theorem foldl_keeps {α β : Type} {f : State → α → State} {g : State → β} (hf : ∀ s a, g (f s a) = g s) (l : List α) (s : State) :
    g (l.foldl f s) = g s := by
  induction l generalizing s with
  | nil => rfl
  | cons a l ih => exact (ih (f s a)).trans (hf s a)

theorem clientHoldings_bgDone (c o k : Nat) (st : PStatus) (v : Nat) (s : State) : clientHoldings (bgDone c o k st v s) = clientHoldings s := by
  unfold bgDone
  split
  · rfl
  · dsimp only
    split
    · rfl
    · obtain ⟨_, _, _, _, _, _, he⟩ := emit_frame (.done c st v) _
      rw [he]
      rfl

theorem clientHoldings_giveBlock (p b : Nat) (s : State) : clientHoldings (giveBlock p b s) = clientHoldings s := rfl

theorem clientHoldings_dsAbort (s : State) (l : DsLoad) : clientHoldings (dsAbort l s) = clientHoldings s :=
  (clientHoldings_bgDone _ _ _ _ _ _).trans (foldl_keeps (g := clientHoldings) (fun s m => clientHoldings_giveBlock m.1 (pblockOf m.2.2) s) l.newMap s)

theorem clientHoldings_wipePaste (s : State) : clientHoldings (wipePaste s) = ([], [], []) :=
  foldl_keeps (g := clientHoldings) clientHoldings_dsAbort _ _

/-- Settles O53: sessions and restarts each by the lemma above, and what is lost by `clientHoldings_wipePaste`. -/
theorem sessionsAndPasteRestarts : Obligations.SessionsAndPasteRestarts := by
  unfold Obligations.SessionsAndPasteRestarts
  refine ⟨fun s n h => ⟨?opens, fun x hx => makesR_prosisSessionClose h hx, fun x lvl tk hx hup hclaim => ⟨?accepted, ?level, ?bye⟩⟩,
    fun s h => ⟨fun c hc hin => ⟨?timeout, ?uncorrectable⟩, ?request, ?reset, ?lost⟩⟩
  case opens => exact fun ch ct hup hroom hnew hown hca hrev => makes_of_run h rfl (sessionOpen_of_trusted hup hroom hnew hown hca hrev)
  case accepted => exact fun hl => makesR_handshake h hx hup (.inl rfl) rfl (hello_of_accepted hx hclaim hl tk)
  case level => exact fun hl => makesR_handshake h hx hup (.inl rfl) rfl (hello_of_level hl tk)
  case bye => exact makesR_handshake h hx hup (.inr rfl) rfl rfl
  case timeout => exact fun hup hfirst => makesR_of_runR h rfl (heartbeatTimeout_of_first hc hin hup hfirst)
  case uncorrectable => exact makesR_of_runR h rfl (coreUnc_of_inService hc hin)
  case request => exact fun hup => makesR_byPaste h hup rfl rfl
  case reset => exact fun n hn => makesR_prosis h hn rfl rfl
  case lost =>
    have hlost := clientHoldings_wipePaste s
    exact ⟨congrArg (·.1) hlost, congrArg (·.2.1) hlost, congrArg (·.2.2) hlost⟩

end Sys2Proof.Machine
end

section
/-! PROOFS. Firmware and plane commands of the session that controls the plane (O54): the staging of an image piece by piece, activation in the order of its
checks, the drain of a plane and its return. -/

namespace Sys2Proof.Machine

/-! ## Staging (R489) -/

/-- A command of more than 1 MiB + 64 bytes closes the session that controls the plane (R478). -/
theorem prosisLong_of_tooLong {s : State} {n len : Nat} (hc : Controls s n) (hlen : 2 ^ 20 + 64 < len) (code : Nat) (f : State → State) :
    prosisLong n code len f s = closeSess n s := by
  obtain ⟨-, -, -, -, -, -, hup, -⟩ := hc
  rw [prosisLong, if_neg (Nat.not_le.mpr hlen), if_pos hup]

theorem makesR_fwStage {s t : State} {n : Nat} {paste : Bool} {o tot : Nat} {d : Bytes} (h : live s = true) (hc : Controls s n)
    (hlen : 9 + d.length ≤ 2 ^ 20 + 64) (ht : fwStage n paste o tot d s = t) : MakesR (.fwStage n paste o tot d) s t :=
  makesR_of_runR h rfl ((prosisLong_of_controls hc hlen 0x20 _).trans ht)

/-- The most bytes of an image for a slot (R489). -/
def mostFirmware (paste : Bool) : Nat := if paste then 24 * 2 ^ 20 else 4 * 2 ^ 20

/-- Another session uploads an image for the same slots. -/
def otherStages (s : State) (n : Nat) (paste : Bool) : Bool := s.mgmt.uploads.any fun u => u.what == 1 && u.target == b2n paste && u.sess != n

/-- The first piece of an image erases the slot that is not active. -/
def slotErased (paste : Bool) (o : Nat) (s : State) : State :=
  if o = 0 then setStaged paste false (setSlot paste (otherSlot s paste) {} s) else s

/-- The answer to a piece that is taken up, by what the upload then holds: more is awaited, or the whole image is in the slot or left out of it. -/
def stageAnswer (n : Nat) (paste b : Bool) : Option Bytes × State → State
  | (none, t) => reply n 0x20 .ok [] t
  | (some raw, t) => match stagedSlot t paste raw with
    | some f => reply n 0x20 .ok [] (setStaged paste true (setSlot paste b f t))
    | none => reply n 0x20 .denied [0x03] t

theorem stageAnswer_of_more {n : Nat} {paste b : Bool} {x : Option Bytes × State} (hx : x.1 = none) : stageAnswer n paste b x = reply n 0x20 .ok [] x.2 := by
  obtain ⟨y, t⟩ := x
  subst hx
  rfl

theorem stageAnswer_of_good {n : Nat} {paste b : Bool} {x : Option Bytes × State} {raw : Bytes} {f : FwSlot} (hx : x.1 = some raw)
    (hf : stagedSlot x.2 paste raw = some f) : stageAnswer n paste b x = reply n 0x20 .ok [] (setStaged paste true (setSlot paste b f x.2)) := by
  obtain ⟨y, t⟩ := x
  subst hx
  simp only [stageAnswer, hf]

theorem stageAnswer_of_denied {n : Nat} {paste b : Bool} {x : Option Bytes × State} {raw : Bytes} (hx : x.1 = some raw)
    (hf : stagedSlot x.2 paste raw = none) : stageAnswer n paste b x = reply n 0x20 .denied [0x03] x.2 := by
  obtain ⟨y, t⟩ := x
  subst hx
  simp only [stageAnswer, hf]

section Stage
variable {s : State} {n : Nat} {paste : Bool} {o tot : Nat} {d : Bytes}

theorem fwStage_of_badBody (hok : uploadOk s n 1 (b2n paste) o tot (mostFirmware paste) d = false) :
    fwStage n paste o tot d s = reply n 0x20 .badBody [] s :=
  if_pos (congrArg not hok)

section InOrder
variable (hok : uploadOk s n 1 (b2n paste) o tot (mostFirmware paste) d = true)
include hok

theorem length_le_of_uploadOk : 9 + d.length ≤ 2 ^ 20 + 64 := by
  obtain ⟨⟨hlen, -, -, -⟩, -⟩ := uploadOk_iff.mp hok
  omega

theorem fwStage_of_busy (hother : otherStages s n paste = true) : fwStage n paste o tot d s = reply n 0x20 .busy [] s :=
  (if_neg (by rw [← mostFirmware, hok]; decide)).trans (if_pos hother)

/-- What the command answers once the piece is taken up is left to `stageAnswer`. -/
theorem fwStage_of_free (hfree : otherStages s n paste = false) :
    fwStage n paste o tot d s = stageAnswer n paste (otherSlot s paste) (upload n 1 (b2n paste) o tot d (slotErased paste o s)) :=
  (if_neg (by rw [← mostFirmware, hok]; decide)).trans (if_neg (by rw [← otherStages, hfree]; decide))

end InOrder

end Stage

/-! ## Activation (R490, R491, R445) -/

section Activate
variable {s : State} {n : Nat} {paste b : Bool}

/-- A segment is being applied, or the slot is being written. -/
def slotBusy (s : State) (paste b : Bool) : Prop :=
  s.sec.segs ≠ [] ∨ (s.mgmt.uploads.any fun u => u.what == 1 && u.target == b2n paste && b == otherSlot s paste) = true

/-- The slot of a firmware that FW_ACTIVATE names. -/
def firmwareSlot (s : State) (paste b : Bool) : FwSlot := if paste then pasteSlot s b else rindSlot s b

/-- The command is answered, and the staged bit of a slot that becomes active is cleared. -/
def activationAnswered (n : Nat) (paste b : Bool) (s : State) : State :=
  setStaged paste (if b = otherSlot s paste then false else if paste then s.nv.pasteStaged else s.nv.rindStaged) (reply n 0x21 .ok [] s)

theorem fwActivate_of_state (hidle : idlePlane s = false) : fwActivate n paste b s = reply n 0x21 .state [] s :=
  if_pos (by rw [hidle]; rfl)

section Idle
variable (hidle : idlePlane s = true)
include hidle

theorem fwActivate_of_busy (hbusy : slotBusy s paste b) : fwActivate n paste b s = reply n 0x21 .busy [] s :=
  (if_neg (by rw [hidle]; decide)).trans (if_pos hbusy)

section Ready
variable (hready : ¬slotBusy s paste b)
include hready

theorem fwActivate_of_emergency (hem : emergency s = true) : fwActivate n paste b s = reply n 0x21 .emergency [] s :=
  (if_neg (by rw [hidle]; decide)).trans ((if_neg hready).trans (if_pos hem))

section Calm
variable (hem : emergency s = false)
include hem

theorem fwActivate_of_empty (hv : (firmwareSlot s paste b).valid = false) : fwActivate n paste b s = reply n 0x21 .badBody [] s :=
  (if_neg (by rw [hidle]; decide)).trans ((if_neg hready).trans ((if_neg (by rw [hem]; decide)).trans (if_pos (congrArg not hv))))

/-- A slot with a verified image becomes active and TRIAL: Paste restarts before a fabric reset, Rind takes a warm reset. -/
theorem fwActivate_of_valid (hv : (firmwareSlot s paste b).valid = true) : fwActivate n paste b s =
    if paste then fabricReset 5 (restartPaste 2 (setNv (fun v => { v with
        pasteSlotB := b, pasteTrial := true
        pasteFloor := if (firmwareSlot s paste b).owner then v.pasteFloor else max v.pasteFloor (firmwareSlot s paste b).svn
        pasteFloorOwner := if (firmwareSlot s paste b).owner then max v.pasteFloorOwner (firmwareSlot s paste b).svn else v.pasteFloorOwner })
      (activationAnswered n paste b s)))
    else warmReset 3 (setNv (fun v => { v with rindSlotB := b, rindTrial := true, rindBoots := 0, rindBooted := false }) (activationAnswered n paste b s)) :=
  (if_neg (by rw [hidle]; decide)).trans ((if_neg hready).trans ((if_neg (by rw [hem]; decide)).trans
    (if_neg (by rw [← firmwareSlot, hv]; decide))))

end Calm
end Ready
end Idle
end Activate

/-! ## Drain, resume and adoption (R428, R477, R492) -/

section Plane
variable {s t : State} {n : Nat} (h : live s = true) (hc : Controls s n)
include h hc

theorem makesR_planeDrain (ht : (if bgHolds s 2 0 then reply n 0x30 .busy [] s
    else if s.mgmt.state ≠ .run ∨ s.twn.state ≠ .paired then reply n 0x30 .state [] s
    else setTwn (fun t => { t with servesOwn := false }) (setMgmt (fun m => { m with state := .draining })
      (abandonRelocs (fun _ => true) (bgStart 0x30 n 2 0 (sendTwin .failing s))))) = t) : MakesR (.planeDrain n) s t :=
  makesR_prosis h hc rfl ht

theorem makesR_planeResume (ht : (if s.mgmt.state ≠ .drained ∨ coresUp s < 3 then reply n 0x31 .state [] s
    else if (dev s).twinPresent ∧ s.twn.twinInService = some true ∧ s.twn.state ≠ .lost then
      reply n 0x31 .ok [] (twinEvent 6 (setTwn (fun t => { t with state := .resyncDst, resyncPct := 0, s2ok := false }) s))
    else reply n 0x31 .ok [] (startRequesters (setMgmt (fun m => { m with state := .run })
      (setTwn (fun t => { t with state := if (dev s).twinPresent then .alone else .none }) (serveOwn s))))) = t) : MakesR (.planeResume n) s t :=
  makesR_prosis h hc rfl ht

theorem makesR_adopt (ht : (if (s.twn.state = .paired ∨ s.twn.state = .alone) ∧ (dev s).twinPresent ∧ s.mgmt.state ≠ .drained then
      reply n 0x32 .ok [] (beginAdopt (mirroringSound s) s)
    else reply n 0x32 .state [] s) = t) : MakesR (.adopt n) s t :=
  makesR_prosis h hc rfl ht

end Plane

/-- A plane that drains and whose twin has adopted takes its requesters' ports down and its partitions out of service, without calving. -/
theorem drainDone_of_draining {s : State} (hst : s.mgmt.state = .draining) (hup : twinUp s = true) :
    drainDone s =
      let ps := (s.img.ports.filter fun e => decide (e.2.role = 0 ∨ e.2.role = 3)).map (·.1)
      let a := ps.foldl (fun s p => portGoesDown p 5 s) (setMgmt (fun m => { m with state := .drained }) s)
      bgDone 0x30 2 0 .ok 0 (setTwn (fun t => { t with state := .alone, twinInService := some true }) (tableChanged (allParts.foldl drainPart a))) :=
  if_neg (by simp [hst, hup])

theorem drainDone_of_rest {s : State} (hrest : s.mgmt.state ≠ .draining ∨ twinUp s = false) : drainDone s = s :=
  if_pos (hrest.imp_right fun hdown => by rw [hdown]; rfl)

/-- Settles O54: staging by `fwStage_of_free` and its refusals, activation check by check, the others by what each command makes. -/
theorem firmwareAndPlaneCommands : Obligations.FirmwareAndPlaneCommands := by
  unfold Obligations.FirmwareAndPlaneCommands
  refine ⟨fun s n paste h hc => ⟨fun o tot d => ⟨?tooLong, ?badBody, ?busyStage, ?piece⟩, fun b => ⟨?state, ?busy, ?emergency, ?empty, ?valid⟩,
      makesR_prosis h hc rfl rfl, makesR_prosis h hc rfl rfl, makesR_prosis h hc rfl rfl⟩,
    fun s h => ⟨fun n hc => ⟨?drainBusy, ?drainState, ?drain, ?resumeState, ?resume, ?adopt⟩, ?rest, ?complete⟩⟩
  case tooLong => exact fun hlen => makesR_of_runR h rfl (prosisLong_of_tooLong hc (by omega) 0x20 _)
  case badBody => exact fun hlen hok => makesR_fwStage h hc hlen (fwStage_of_badBody hok)
  case busyStage => exact fun hok hother => makesR_fwStage h hc (length_le_of_uploadOk hok) (fwStage_of_busy hok hother)
  case piece =>
    intro hok hfree
    have hmakes {t : State} (ht : stageAnswer n paste (otherSlot s paste) (upload n 1 (b2n paste) o tot d (slotErased paste o s)) = t) :
        MakesR (.fwStage n paste o tot d) s t :=
      makesR_fwStage h hc (length_le_of_uploadOk hok) ((fwStage_of_free hok hfree).trans ht)
    exact ⟨fun hx => hmakes (stageAnswer_of_more hx), fun raw hx => ⟨fun f hf => hmakes (stageAnswer_of_good hx hf),
      fun hf => hmakes (stageAnswer_of_denied hx hf)⟩⟩
  case state => exact fun hidle => makesR_prosis h hc rfl (fwActivate_of_state hidle)
  case busy => exact fun hidle hbusy => makesR_prosis h hc rfl (fwActivate_of_busy hidle hbusy)
  case emergency => exact fun hidle hready hem => makesR_prosis h hc rfl (fwActivate_of_emergency hidle hready hem)
  case empty => exact fun hidle hready hem hv => makesR_prosis h hc rfl (fwActivate_of_empty hidle hready hem hv)
  case valid =>
    intro hidle hready hem hv
    have hact := fwActivate_of_valid (n := n) hidle hready hem hv
    exact ⟨fun hpaste => makesR_prosis h hc rfl (hact.trans (if_neg (by rw [hpaste]; decide))),
      fun hpaste => makesR_prosis h hc rfl (hact.trans (if_pos hpaste))⟩
  case drainBusy => exact fun hbg => makesR_planeDrain h hc (if_pos hbg)
  case drainState => exact fun hbg hno => makesR_planeDrain h hc ((if_neg (by rw [hbg]; decide)).trans (if_pos hno))
  case drain =>
    exact fun hbg hrun hpaired => makesR_planeDrain h hc ((if_neg (by rw [hbg]; decide)).trans (if_neg (by simp [hrun, hpaired])))
  case resumeState => exact fun hno => makesR_planeResume h hc (if_pos hno)
  case resume =>
    intro hst hcores
    have hmay : ¬(s.mgmt.state ≠ .drained ∨ coresUp s < 3) := not_or.mpr ⟨not_not.mpr hst, Nat.not_lt.mpr hcores⟩
    exact ⟨fun hserved => makesR_planeResume h hc ((if_neg hmay).trans (if_pos hserved)),
      fun hnot => makesR_planeResume h hc ((if_neg hmay).trans (if_neg hnot))⟩
  case adopt => exact ⟨fun hmay => makesR_adopt h hc (if_pos hmay), fun hnot => makesR_adopt h hc (if_neg hnot)⟩
  case rest => exact fun hrest => makesR_of_runR h rfl (drainDone_of_rest hrest)
  case complete => exact fun hst hup => makesR_of_runR h rfl (drainDone_of_draining hst hup)

end Sys2Proof.Machine
end

section
/-! PROOFS. A dead package and the power states (O56, O58): which commands act only on a live package, and what a request of a power state answers. -/

namespace Sys2Proof.Machine

/-! ## A dead package (R180, R497, R523, Table 17.2) -/

/-- The outcome is that of an effect on a live package, and of none on a dead one. -/
def OnlyWhileLive (s : State) (o : Outcome) : Prop := ∃ t, o = .next (afterCmd s (if live s then t else s))

theorem OnlyWhileLive.of_dead {s : State} {o : Outcome} (ho : OnlyWhileLive s o) (h : live s = false) : o = .next (afterCmd s s) := by
  obtain ⟨t, rfl⟩ := ho
  rw [if_neg (by rw [h]; decide)]

/-- Settles O58: the commands of the pins are excluded, those of the time unit run by `runT`, and all others only while the package is live. -/
theorem deadPackageIgnoresCommands : Obligations.DeadPackageIgnoresCommands := by
  unfold Obligations.DeadPackageIgnoresCommands
  intro c s h hc
  cases c
  case coldReset | warmReset | pwrgdFall | supplyResetRelease | hardwareTrip | powerLoss | tapInstructionLoad => exact False.elim hc
  case ppsEdge | ptpSync | tosServoUpdate | sourceQualify | sourceDisqualify | holdoverExpire | schedActivate | ppsOutRise | ppsOutFall =>
    exact runT_dead _ s h hc
  all_goals exact OnlyWhileLive.of_dead ⟨_, rfl⟩ h

/-! ## Power states (R506 to R508, Table 17.4) -/

section Requests
variable {s : State} (hem : emergency s = false)
include hem

theorem powerReq_run : powerReq 0 s = (.ok, if s.pwr.pstate = 3 then leavePark s else leaveHold s) := by
  simp [powerReq, hem]

theorem powerReq_hold_of_active (ha : noneActive s = false) : powerReq 1 s = (.state, s) := by
  simp [powerReq, hem, ha]

/-- Hold is code 1 and Idle-low code 2. -/
theorem powerReq_hold (hnone : noneActive s = true) (hst : s.pwr.pstate ≠ 3) (idle : Bool) :
    powerReq (if idle then 2 else 1) s = (.ok, enterHold idle s) := by
  cases idle <;> simp [powerReq, hem, hnone, hst]

end Requests

/-- Park is allowed in an emergency too. -/
theorem powerReq_park {s : State} (hnone : noneActive s = true) (hst : s.pwr.pstate ≠ 3)
    (hpark : s.mgmt.state = .drained ∨ s.mgmt.state = .held ∨ (dev s).twinPresent = false) :
    powerReq 3 s = (.ok, enterPark s) := by
  have hmay : noneActive s = true ∧ (s.mgmt.state = .drained ∨ s.mgmt.state = .held ∨ (!(dev s).twinPresent) = true) :=
    ⟨hnone, hpark.imp_right (Or.imp_right (congrArg not))⟩
  exact (if_neg (by decide)).trans ((if_neg (by simp)).trans ((if_neg (by decide)).trans ((if_pos rfl).trans ((if_neg hst).trans (if_pos hmay)))))

theorem powerReq_of_wrongCode {c : Nat} (hc : 3 < c) (s : State) : powerReq c s = (.badBody, s) := if_pos hc

theorem powerCmd_of_powerReq {s t : State} {code : Nat} {st : PStatus} (he : powerReq code s = (st, t)) (n : Nat) :
    powerCmd n code s = reply n 0x91 st [] t := by
  rw [powerCmd, he]

theorem makesR_pldmSetStateEffecter {s t : State} {code : Nat} {st : PStatus} (h : live s = true) (he : powerReq code s = (st, t)) :
    MakesR (.pldmSetStateEffecter code) s (tell (.pldmSet st) t) := by
  show execPldmSetStateEffecter code s = _
  rw [execPldmSetStateEffecter, runR_live _ s h, he]

/-- Settles O56: each request by `powerReq`, from the controlling session and from the BMC. -/
theorem powerStates : Obligations.PowerStates := by
  unfold Obligations.PowerStates
  refine fun s n h hem => ⟨fun hc => ⟨?run, fun hnone hst => ⟨?hold, ?idleLow, ?park⟩, ?active⟩, makesR_pldmSetStateEffecter h (powerReq_run hem),
    fun c hcode => makesR_pldmSetStateEffecter h (powerReq_of_wrongCode hcode s)⟩
  case run => exact makesR_prosis h hc rfl (powerCmd_of_powerReq (powerReq_run hem) n)
  case hold => exact makesR_prosis h hc rfl (powerCmd_of_powerReq (powerReq_hold hem hnone hst false) n)
  case idleLow => exact makesR_prosis h hc rfl (powerCmd_of_powerReq (powerReq_hold hem hnone hst true) n)
  case park => exact fun hpark => makesR_prosis h hc rfl (powerCmd_of_powerReq (powerReq_park hnone hst hpark) n)
  case active => exact fun ha => makesR_prosis h hc rfl (powerCmd_of_powerReq (powerReq_hold_of_active hem ha) n)

end Sys2Proof.Machine
end

section
/-! PROOFS. Resets, supply and heat (O59, O60): what a reset keeps, then one lemma for what each command does under its condition. -/

namespace Sys2Proof.Machine

/-! ## What a reset keeps (Table 17.3) -/

/-- FAILING to the twin leaves on the wire and takes a message counter. -/
theorem failNotice_frame (s : State) : ∃ w t, failNotice s = { s with wire := w, twn := t } := by
  unfold failNotice
  split
  · split
    · exact ⟨_, _, rfl⟩
    · exact ⟨_, _, rfl⟩
  · exact ⟨_, _, rfl⟩

/-- A lost source changes the lock state and its frames, and not FT. -/
theorem disqualify_frame (s : State) : ∃ m, disqualify s = { s with ftm := m } ∧ m.ftFix = s.ftm.ftFix := by
  unfold disqualify
  dsimp only
  split <;> exact ⟨_, rfl, rfl⟩

/-- A reset of the core die keeps the non-volatile store, the power side and FT. -/
theorem clearCore_keeps (s : State) : (clearCore s).nv = s.nv ∧ (clearCore s).pwr = s.pwr ∧ (clearCore s).ftm.ftFix = s.ftm.ftFix := by
  unfold clearCore
  split
  · obtain ⟨m, hs, hft⟩ := disqualify_frame s
    rw [hs]
    exact ⟨rfl, rfl, hft⟩
  · exact ⟨rfl, rfl, rfl⟩

theorem ft_eq_of_ftFix_eq {s t : State} (h : t.ftm.ftFix = s.ftm.ftFix) : ft t = ft s := by
  rw [ft, ft, h]

/-- A warm reset keeps the non-volatile store, FT and the TAP instruction. -/
theorem clearWarm_keeps (cause : Nat) (s : State) :
    (clearWarm cause s).nv = s.nv ∧ ft (clearWarm cause s) = ft s ∧ (clearWarm cause s).pwr.tapIr = s.pwr.tapIr := by
  obtain ⟨w, t, hs⟩ := failNotice_frame s
  have hsame : (failNotice s).nv = s.nv ∧ (failNotice s).pwr = s.pwr ∧ (failNotice s).ftm = s.ftm := by
    rw [hs]
    exact ⟨rfl, rfl, rfl⟩
  obtain ⟨hnv, hpwr, hftm⟩ := hsame
  obtain ⟨cnv, cpwr, cft⟩ := clearCore_keeps (failNotice s)
  have htap : (clearWarm cause s).pwr.tapIr = (clearCore (failNotice s)).pwr.tapIr := rfl
  exact ⟨cnv.trans hnv, ft_eq_of_ftFix_eq (cft.trans (congrArg Ftm.ftFix hftm)), htap.trans (congrArg Pwr.tapIr (cpwr.trans hpwr))⟩

/-- A cold reset keeps the non-volatile store, and FT begins at zero. -/
theorem clearCold_keeps (cause : Nat) (strap : Bool) (s : State) : (clearCold cause strap s).nv = s.nv ∧ ft (clearCold cause strap s) = 0 := by
  obtain ⟨hnv, -, -⟩ := clearCore_keeps (takeDraw (takeDraw s).2).2
  have hftm : (clearCold cause strap s).ftm = {} := rfl
  exact ⟨hnv, by simp [ft, hftm]⟩

/-! ## Reset and power pins (R443, R497, R509, R513, R523, R529) -/

theorem not_live_of_off {s : State} (h : s.pwr.on = false) : live s = false := by simp [live, h]
theorem not_live_of_heldWarm {s : State} (h : s.pwr.heldWarm = true) : live s = false := by simp [live, h]

theorem makes_of_exec {c : Instr} {s t u : State} (e : exec c s = .next (afterCmd s u)) (ht : u = t) : Makes c s t := by
  rw [Makes, e, ht]

theorem coldReset_of_untripped {s : State} (ht : s.pwr.thermtrip = false) (b : Bool) : coldReset b s = boot (clearCold 0 b s) :=
  if_neg (by rw [ht]; decide)

theorem warmReset_of_running {s : State} (hon : s.pwr.on = true) (hcold : s.pwr.heldCold = false) (hwarm : s.pwr.heldWarm = false) (cause : Nat) :
    warmReset cause s = boot (clearWarm cause s) :=
  if_neg (by simp [hon, hcold, hwarm])

/-- The instruction that the TAP takes: those that take pins only while WARM_RST_N is low, BYPASS for the others. -/
def tapTaken (i : Nat) (low : Bool) : Nat := if i < 3 ∨ (i ≤ 7 ∧ low = true) then i else 0

theorem tapTaken_eq (i : Nat) (low : Bool) : (if i > 7 ∨ (i ≥ 3 ∧ !low) then 0 else i) = tapTaken i low := by
  have hloads : (i > 7 ∨ (i ≥ 3 ∧ (!low) = true)) ↔ ¬(i < 3 ∨ (i ≤ 7 ∧ low = true)) := by
    cases low <;> simp <;> omega
  rw [tapTaken, if_congr hloads rfl rfl, ite_not]

theorem tapLoad_of_on {s : State} (hon : s.pwr.on = true) (i : Nat) (low : Bool) : tapLoad i low s =
    tell (.tap (tapTaken i low) (if tapTaken i low = 1 then some 0x107200A9 else none)) (setPwr (fun w => { w with tapIr := tapTaken i low }) s) := by
  simp only [tapLoad, tapTaken_eq, hon, if_true]

/-- IDCODE is answered with the part's code. -/
theorem makes_tapInstructionLoad {s : State} (hon : s.pwr.on = true) (i : Nat) (low : Bool) : ∃ t, Makes (.tapInstructionLoad i low) s t ∧
    t.pwr.tapIr = tapTaken i low ∧ (i = 1 → t.out = .tap 1 (some 0x107200A9) :: s.out) ∧
    t = { s with pwr := { s.pwr with tapIr := t.pwr.tapIr }, out := t.out } := by
  refine ⟨_, makes_of_exec rfl (tapLoad_of_on hon i low), rfl, ?_, rfl⟩
  rintro rfl
  rfl

/-- Losing power turns the package off; FT stays where VDD_AON does. -/
theorem makes_powerLoss (b : Bool) (s : State) : ∃ t, Makes (.powerLoss b) s t ∧ live t = false ∧ t.nv = s.nv ∧ t.pwr.thermtrip = false ∧
    ft t = (if b then ft s else 0) ∧ t = { s with pwr := t.pwr, ftm := t.ftm } := by
  refine ⟨powerLoss b s, makes_of_exec rfl rfl, not_live_of_off rfl, rfl, rfl, ?_, rfl⟩
  cases b
  · simp [ft, powerLoss]
  · rfl

/-- Settles O59: the pins by what each command makes, the rest by what a reset keeps. -/
theorem resetPins : Obligations.ResetPins := by
  unfold Obligations.ResetPins
  intro s
  obtain ⟨wnv, wft, wtap⟩ := clearWarm_keeps 1 s
  obtain ⟨cnv, cft⟩ := clearCold_keeps 0 true s
  refine ⟨makes_of_exec rfl rfl, ?cold, ?tripped, ?warm, wnv, wft, wtap, cnv, cft, ?release, ?trip, fun b => makes_powerLoss b s,
    fun i low hon => makes_tapInstructionLoad hon i low⟩
  case cold => exact fun b ht => makes_of_exec rfl (coldReset_of_untripped ht b)
  case tripped => exact fun b ht => makes_of_exec rfl (if_pos ht)
  case warm => exact fun hon hcold hwarm => makes_of_exec rfl (warmReset_of_running hon hcold hwarm 1)
  case release => exact fun hwarm => makes_of_exec rfl (if_pos hwarm)
  case trip => exact fun k hon hk => makes_of_exec rfl (if_pos ⟨hon, hk⟩)

/-! ## Supply (R509, R520) -/

/-- The package as a rail below 90 % of its set point clears it. -/
def supplyCleared (r mv : Nat) (s : State) : State :=
  if r = 9 then clearCold 2 (capture 1 r mv s).sec.strap (capture 1 r mv s) else clearWarm 2 (capture 1 r mv s)

section Supply
variable {s : State} {r mv : Nat} (hr : r < 10)
include hr

theorem supplyWarning_of_low (hlow : 20 * mv < 19 * levelPoint s r) (hthr : s.pwr.supplyThr = false) :
    supplyWarning r mv s = bumpG .throttleCnt 1 (capture 0 r mv (setPwr (fun w => { w with supplyThr := true }) s)) :=
  if_neg (not_or.mpr ⟨Nat.not_le.mpr hr, not_or.mpr ⟨Nat.not_le.mpr hlow, by rw [hthr]; decide⟩⟩)

theorem supplyReset_of_low (hlow : 10 * mv < 9 * levelPoint s r) : supplyReset r mv s =
    setPwr (fun w => { w with heldWarm := true, heldCold := decide (r = 9), supplyThr := false, event := (capture 1 r mv s).pwr.event })
      (supplyCleared r mv s) :=
  if_neg (not_or.mpr ⟨Nat.not_le.mpr hr, Nat.not_le.mpr hlow⟩)

end Supply

theorem supplyCleared_nv (r mv : Nat) (s : State) : (supplyCleared r mv s).nv = s.nv := by
  unfold supplyCleared
  split
  · exact (clearCold_keeps 2 _ (capture 1 r mv s)).1
  · exact (clearWarm_keeps 2 (capture 1 r mv s)).1

theorem capture_event {s : State} (he : s.pwr.event = none) (kind which value : Nat) :
    (capture kind which value s).pwr.event = some (kind, which, value, ft s) := by
  simp [capture, he]

/-- The package is held, and the first event since the last clear is kept. -/
theorem makes_supplyReset {s : State} (h : live s = true) {r mv : Nat} (hr : r < 10) (hlow : 10 * mv < 9 * levelPoint s r) :
    ∃ t, Makes (.supplyReset r mv) s t ∧ t.pwr.heldWarm = true ∧ t.pwr.heldCold = decide (r = 9) ∧ live t = false ∧ t.nv = s.nv ∧
      (s.pwr.event = none → t.pwr.event = some (1, r, mv, ft s)) :=
  ⟨_, makes_of_run h rfl (supplyReset_of_low hr hlow), rfl, rfl, not_live_of_heldWarm rfl, supplyCleared_nv r mv s, fun he => capture_event he 1 r mv⟩

/-! ## Heat (R509 to R512) -/

section Heat
variable {s : State} {k q : Nat} (hk : k < 16)
include hk

theorem thermalThrottle_of_hot (hhot : 400 ≤ signed 16 q) (hthr : s.pwr.thermalThr = false) : thermalThrottle k q s =
    let a := (portsOfSensor s k).foldl (fun s p => setPort p (fun q => { q with paced := true }) s) s
    bumpG .throttleCnt 1 (capture 2 k q (setPwr (fun w => { w with thermalThr := true }) a)) := by
  have hpwr : ((portsOfSensor s k).foldl (fun s p => setPort p (fun q => { q with paced := true }) s) s).pwr = s.pwr :=
    foldl_keeps (g := State.pwr) (fun s p => setPort_pwr s p _) _ s
  exact (if_neg (not_or.mpr ⟨Nat.not_le.mpr hk, Int.not_lt.mpr hhot⟩)).trans (if_neg (by rw [hpwr, hthr]; decide))

theorem thermalEmergency_of_hot (hhot : 440 ≤ signed 16 q) : thermalEmergency k q s =
    let u := takeFree (capture 3 k q (setPwr (fun w => { w with thermEmerg := true }) s))
    let a := faultEvent 6 (u.1 % 16) k 8 0 u.2
    if a.pwr.pstate = 3 then a else enterPark (settleAll (calve 8 allParts (failNotice a))) :=
  if_neg (not_or.mpr ⟨Nat.not_le.mpr hk, Int.not_lt.mpr hhot⟩)

end Heat

/-- At the end of a throttle no port is paced. -/
theorem makes_thermalThrottleEnd {s : State} (h : live s = true) : ∃ t, Makes .thermalThrottleEnd s t ∧ t.pwr.thermalThr = false ∧
    (∀ e ∈ t.ports, e.2.paced = false) ∧ t = { s with pwr := { s.pwr with thermalThr := false }, ports := t.ports } := by
  refine ⟨throttleEnd s, makes_of_run h rfl rfl, rfl, fun e he => ?_, rfl⟩
  obtain ⟨x, -, rfl⟩ := List.mem_map.mp he
  rfl

theorem makes_avsTimeout {s : State} (h : live s = true) {r : Nat} (hr : r < 10) : ∃ t, Makes (.avsTimeout r) s t ∧ t.pwr.avsStopped = true :=
  ⟨_, makes_of_run h rfl (if_neg (Nat.not_le.mpr hr)), rfl⟩

/-! ## Sensor readings (R414, R534) -/

/-- The maximum of a sensor after its reading. -/
def maxAfter (s : State) (ts : List Nat) (i : Nat) : Nat :=
  if signed 16 (s.pwr.tempMax.getD i 0) < signed 16 ((regs16 16 ts).getD i 0) then (regs16 16 ts).getD i 0 else s.pwr.tempMax.getD i 0

/-- The sensor registers after their readings. -/
def readings (ts mvs cs : List Nat) (w : Nat) (s : State) : Pwr := { s.pwr with
  temps := regs16 16 ts, tempMax := (List.range 16).map (maxAfter s ts), mvs := regs16 10 mvs, setMv := (List.range 10).map (setPoint s)
  currents := regs16 10 cs, power := w % 65536, powerPeak := max s.pwr.powerPeak (w % 65536) }

/-- Beside the readings only the canary sets may fall due. -/
theorem sensorUpdate_frame (ts mvs cs : List Nat) (w : Nat) (s : State) : ∃ due,
    sensorUpdate ts mvs cs w s = { s with pwr := readings ts mvs cs w s, flt := { s.flt with canaryDue := due } } := by
  unfold sensorUpdate
  dsimp only
  split
  · exact ⟨_, rfl⟩
  · exact ⟨_, rfl⟩

theorem le_maxAfter (s : State) (ts : List Nat) (i : Nat) : signed 16 ((regs16 16 ts).getD i 0) ≤ signed 16 (maxAfter s ts i) := by
  unfold maxAfter
  split
  · exact le_refl _
  · exact Int.not_lt.mp ‹_›

theorem readings_tempMax (ts mvs cs : List Nat) (w : Nat) (s : State) {i : Nat} (hi : i < 16) :
    (readings ts mvs cs w s).tempMax.getD i 0 = maxAfter s ts i := by
  simp [readings, hi]

theorem makes_sensorRegisterUpdate {s : State} (h : live s = true) (ts mvs cs : List Nat) (w : Nat) :
    ∃ t, Makes (.sensorRegisterUpdate ts mvs cs w) s t ∧ t.pwr.temps = regs16 16 ts ∧ t.pwr.mvs = regs16 10 mvs ∧
      t.pwr.currents = regs16 10 cs ∧ t.pwr.power = w % 65536 ∧ t.pwr.powerPeak = max s.pwr.powerPeak (w % 65536) ∧
      (∀ i, i < 16 → signed 16 (t.pwr.temps.getD i 0) ≤ signed 16 (t.pwr.tempMax.getD i 0)) ∧
      t = { s with pwr := t.pwr, flt := { s.flt with canaryDue := t.flt.canaryDue } } := by
  obtain ⟨due, hs⟩ := sensorUpdate_frame ts mvs cs w s
  refine ⟨_, makes_of_run h rfl hs, rfl, rfl, rfl, rfl, rfl, fun i hi => ?_, rfl⟩
  exact (readings_tempMax ts mvs cs w s hi).symm ▸ le_maxAfter s ts i

/-- Settles O60: each condition by what its command makes. -/
theorem supplyAndHeat : Obligations.SupplyAndHeat := by
  unfold Obligations.SupplyAndHeat
  refine fun s h => ⟨?warning, makes_of_run h rfl rfl, fun r mv => makes_supplyReset h, ?throttle, makes_thermalThrottleEnd h, ?emergency,
    makes_of_run h rfl rfl, fun r => makes_avsTimeout h, makes_sensorRegisterUpdate h⟩
  case warning => exact fun r mv hr hlow hthr => makes_of_run h rfl (supplyWarning_of_low hr hlow hthr)
  case throttle => exact fun k q hk hhot hthr => makes_of_run h rfl (thermalThrottle_of_hot hk hhot hthr)
  case emergency => exact fun k q hk hhot => makesR_of_runR h rfl (thermalEmergency_of_hot hk hhot)

end Sys2Proof.Machine
end
